-- ==== Sys2Proof/Word.lean ====
section
/-! DEFINITION. The word types of the CG410 (spec/00_scope.md, Conventions; spec/08, section 8.1).
Bit vectors stand only where the manual speaks of bits: bytes of a payload, the fields of a frame header,
CRC registers. Demands, speeds, angles, tensions and volumes are exact integers (`Int`, `Nat`), limited
where the manual limits them. -/

namespace Sys2Proof

/-- A payload byte, or a byte of the nonvolatile store. -/
abbrev Byte := BitVec 8

/-- The 6-bit node field of a header (R135). Node 0 is the CG410, node 63 broadcast. -/
abbrev Node := BitVec 6

/-- `clamp(x, a, b)` of the conventions: `x` limited to the range `a` to `b`. -/
def clampInt (x a b : Int) : Int := max a (min x b)

/-- `clamp(x, ±m)` of the conventions. -/
def clampSym (x m : Int) : Int := clampInt x (-m) m

/-- A stored value limited to its range: above it the upper end, below it the lower end (R23, R65, R96). -/
def limitNat (x lo hi : Nat) : Nat := max lo (min x hi)

/-- The magnitude `|x|`. -/
def absInt (x : Int) : Nat := x.natAbs

end Sys2Proof
end

