-- ==== Sys2Proof/Syntax.lean ====
section
/-! DEFINITION. The commands of the CG410: one constructor of `Instr` for each row of
spec/opcode_table.json, with the operands the spec gives the row. The block takes no instruction words:
every command is a frame a unit is given, an event on a line or lane, the expiry of a timer, or the end of
an operation of the nonvolatile store. -/

namespace Sys2Proof

/-- The role the ROLE strap fixes at supply-on (spec/00_scope.md). -/
inductive Role where
  | lead | helper
  deriving DecidableEq, Repr

/-- The three segment buses (spec/08). -/
inductive Segment where
  | w | p | k
  deriving DecidableEq, Repr

/-- The four ports of the frame switch: the segments and the helper link (R153). -/
inductive PortName where
  | w | p | k | h
  deriving DecidableEq, Repr

/-- The two lanes of the helper link (spec/10). -/
inductive Lane where
  | h0 | h1
  deriving DecidableEq, Repr

/-- One frame: class, node, kind, and its payload bytes (R135). -/
structure Frame where
  cls : BitVec 4
  node : Node
  kind : BitVec 6
  payload : List Byte
  deriving DecidableEq, Repr

/-- A set of lanes: the good set and the chosen set of a training sequence (R172). -/
structure LaneSet where
  h0 : Bool
  h1 : Bool
  deriving DecidableEq, Repr

/-- The training sequence TS (spec/10, section 10.1). -/
structure Ts where
  role : Role
  fixed : Bool
  good : LaneSet
  ready : Bool
  chosen : LaneSet
  deriving DecidableEq, Repr

/-- The commands. A station is named by its index S0..S3, an engine by E1..E4, X1, X2 (0..5), a rudder
group by RS, RF, XS (0..2), a meter by its place in the FUELMAP table (0..11). -/
inductive Instr where
  /-- Return of the main supply; the ROLE strap is sampled (R130, scope). -/
  | supplyOn (strap : Role)
  /-- End of the start-up scan (R130 to R132). -/
  | startUpScanEnd
  /-- Loss of the main supply (R133). -/
  | supplyLoss
  /-- The RESET pin is asserted (R199). -/
  | resetPinAssert
  /-- The RESET pin is released (R199). -/
  | resetPinRelease
  /-- The core reset ends with the slots read again (R133, R199). -/
  | coreResetEnd
  /-- Class 0 ALL-STOP from `node` (R12). -/
  | allStop (node : Node)
  /-- HELM: signed demands and a sequence (R4). -/
  | helm (node : Node) (d t : BitVec 16) (seq : Byte)
  /-- TAKE (R8). -/
  | take (node : Node)
  /-- GIVE (R9). -/
  | give (node : Node)
  /-- TAKE-FORCE (R10). -/
  | takeForce (node : Node)
  /-- TAKE-BACK (R19). -/
  | takeBack (node : Node)
  /-- JOIN-GIVE (R15). -/
  | joinGive (node : Node)
  /-- ALL-STOP-CLEAR (R13). -/
  | allStopClear (node : Node)
  /-- A class 0 or class 1 frame of no configured station, unknown kind or bad length (R3). -/
  | unknownNodeFrame (frame : Frame)
  /-- JOIN-OFFER over H (R16). -/
  | joinOffer
  /-- JOIN-ACCEPT over H (R17). -/
  | joinAccept
  /-- UNJOIN over H with its reason (R19). -/
  | unjoin (reason : Byte)
  /-- Expiry of a station's presence timer (R3). -/
  | presenceTimerExpiry (station : Fin 4)
  /-- Expiry of a station's freshness timer (R6). -/
  | freshnessTimerExpiry (station : Fin 4)
  /-- Expiry of the stale hold timer (R6). -/
  | staleHoldTimerExpiry
  /-- Expiry of the transfer timer (R9). -/
  | transferTimerExpiry
  /-- Expiry of the join answer timer (R17). -/
  | joinAnswerTimerExpiry
  /-- Expiry of the setpoint loss timer (R18). -/
  | setpointLossTimerExpiry
  /-- Expiry of the hold timer of HOLDING (R18). -/
  | holdTimerExpiry
  /-- Expiry of the TAU's allocation timer (R20). -/
  | allocationCycle
  /-- ENGINE-FB: rpm, gear reported, fuel rate, flags (R47). -/
  | engineFb (node : Node) (rpm : BitVec 16) (gear : Byte) (rate : BitVec 16) (flags : Byte)
  /-- RUDDER-FB: signed angle (R61). -/
  | rudderFb (node : Node) (angle : BitVec 16)
  /-- A class 3 frame of another kind, length or gear (R47). -/
  | malformedFeedback (frame : Frame)
  /-- A class 2 frame delivered from H (R58). -/
  | hSetpointFrame (frame : Frame)
  /-- Expiry of an engine's feedback timer (R49). -/
  | engineFeedbackTimerExpiry (engine : Fin 6)
  /-- Expiry of a rudder group's feedback timer (R61). -/
  | rudderFeedbackTimerExpiry (rudder : Fin 3)
  /-- Expiry of a rudder group's deviation timer (R62). -/
  | deviationTimerExpiry (rudder : Fin 3)
  /-- Expiry of the refresh timer (R53). -/
  | refreshTimerExpiry
  /-- Expiry of the poll round timer (R73). -/
  | pollRoundTimerExpiry
  /-- REPORT: tension and flags (R68). -/
  | report (node : Node) (tension : BitVec 16) (flags : Byte)
  /-- A malformed class 4 frame (R68). -/
  | malformedReport (frame : Frame)
  /-- Expiry of the poll answer timer (R73). -/
  | pollAnswerTimerExpiry
  /-- Completion of the running recompute (R77). -/
  | recomputeCompletion
  /-- RELEASE-ARM: coupling id (R89). -/
  | releaseArm (node : Node) (coupling : Byte)
  /-- RELEASE-GO: coupling id and complement (R91). -/
  | releaseGo (node : Node) (coupling complement : Byte)
  /-- A class 6 frame of another kind or length (R88). -/
  | releaseFrameUnknownKind (frame : Frame)
  /-- RELEASE-DONE: result (R93). -/
  | releaseDone (node : Node) (result : Byte)
  /-- Expiry of the arm timer (R90). -/
  | armTimerExpiry
  /-- Expiry of the release answer timer (R94). -/
  | releaseAnswerTimerExpiry
  /-- METER: totalizer, signed temperature, flags (R97). -/
  | meter (node : Node) (totalizer : BitVec 32) (temperature : BitVec 16) (flags : Byte)
  /-- A class 5 frame of another kind or length, or of an unknown node (R97). -/
  | malformedMeter (frame : Frame)
  /-- Expiry of a meter's silence timer (R98). -/
  | meterSilenceTimerExpiry (meter : Fin 12)
  /-- The oldest time of a meter's jump list is 10 minutes old (R99). -/
  | jumpListAgeOut (meter : Fin 12)
  /-- Expiry of the 60 s window timer (R107). -/
  | fuelWindowTimerExpiry
  /-- Expiry of the 60 s checkpoint timer (R114). -/
  | checkpointTimerExpiry
  /-- End of a BANK-ERASE; `ok` when every byte reads 255 (R122). -/
  | bankEraseEnd (ok : Bool)
  /-- End of a BLANK-CHECK (R122). -/
  | blankCheckEnd
  /-- End of a LOAD-PROGRAM; `ok` when the cells took the bits (R122, R193). -/
  | loadProgramEnd (ok : Bool)
  /-- End of a header-fields program (R193). -/
  | headerFieldsProgramEnd (ok : Bool)
  /-- End of a mark word program (R194). -/
  | markWordProgramEnd (ok : Bool)
  /-- End of a COMMIT-CHECK (R194). -/
  | commitCheckEnd
  /-- End of a LOCK-PROGRAM (R195). -/
  | lockProgramEnd (ok : Bool)
  /-- End of a LOCK-ERASE (R195). -/
  | lockEraseEnd (ok : Bool)
  /-- End of a SLOT-ERASE (R127). -/
  | slotEraseEnd (ok : Bool)
  /-- End of a SLOT-PROGRAM (R127). -/
  | slotProgramEnd (ok : Bool)
  /-- A frame followed on a segment, up to its acknowledge slot, as received: header, length field,
  payload, CRC and whether the end delimiter read recessive (R137). -/
  | receiveFrame (port : Segment) (header : BitVec 16) (length : BitVec 4) (payload : List Byte)
      (crc : BitVec 16) (delimiter : Bool)
  /-- The port may offer a frame at bus idle (R141). -/
  | frameOffer (port : Segment)
  /-- The port reads dominant for a recessive header bit it sends (R136). -/
  | arbitrationLoss (port : Segment)
  /-- The acknowledge slot of the frame being sent, dominant or not (R142). -/
  | acknowledgeSlot (port : Segment) (dominant : Bool)
  /-- A bit error after the header while sending (R143). -/
  | bitError (port : Segment)
  /-- The ninth bit time of a dominant run (R143). -/
  | dominantRunNinthBit (port : Segment)
  /-- The end of a dominant run of 9 to 16 bit times (R143). -/
  | dominantRunEnd (port : Segment)
  /-- The end of a dominant run of 17 bit times or more and under 25 ms (R144). -/
  | busBreak (port : Segment)
  /-- A dominant run reaches 25 ms (R145). -/
  | stuckBus (port : Segment)
  /-- Expiry of a port's isolation timer (R146). -/
  | isolationTimerExpiry (port : Segment)
  /-- 11 recessive bit times seen in RESTART (R147). -/
  | portRestart (port : Segment)
  /-- A start bit within the open reply window of K (R148). -/
  | replyWindowAnswered
  /-- 4 ms of the reply window without a start bit (R148). -/
  | replyWindowExpiry
  /-- The end of a 200 µs switching (R154). -/
  | switchingEnd
  /-- Expiry of the link's retry timer (R172). -/
  | retryTimerExpiry
  /-- A valid TS on a lane (R172). -/
  | tsReceived (lane : Lane) (ts : Ts)
  /-- The 100 µs moment at which TS are sent (R172). -/
  | tsSendTimer
  /-- 2 ms after the entry into training (R172). -/
  | goodSetFix
  /-- Expiry of the 100 ms training timer (R175). -/
  | trainingTimerExpiry
  /-- 20 ms without a valid symbol on a lane; `otherDelivers` says whether the other lane has delivered
  a valid symbol within its own 20 ms (R174, R175). -/
  | laneLossTimerExpiry (lane : Lane) (otherDelivers : Bool)
  /-- A link frame with a bad CRC or a length above 8 (R170, R174). -/
  | linkFrameCrcError (lane : Lane)
  /-- The oldest error time of a lane is 1000 ms old (R174). -/
  | laneErrorAgeOut (lane : Lane)
  /-- DATA: queue, sequence, segment frame (R179). -/
  | data (lane : Lane) (queue : Fin 4) (seq : Byte) (frame : Frame)
  /-- CREDIT-ANNOUNCE: queue, epoch, free entries (R178). -/
  | creditAnnounce (lane : Lane) (queue : Fin 4) (epoch free : Byte)
  /-- CREDIT-CONFIRM: queue, epoch (R178). -/
  | creditConfirm (lane : Lane) (queue : Fin 4) (epoch : Byte)
  /-- CREDIT-RETURN: queue, epoch, freed total (R180). -/
  | creditReturn (lane : Lane) (queue : Fin 4) (epoch total : Byte)
  /-- Expiry of the 10 ms credit refresh timer (R178). -/
  | creditRefreshTimerExpiry
  /-- The lane is free for its waiting control frame (R170). -/
  | linkControlSend (lane : Lane)
  /-- The lane is free for a DATA frame (R179). -/
  | dataSend (lane : Lane)
  /-- The DATA frame on the lane has been sent whole (R179). -/
  | dataSendEnd (lane : Lane)
  /-- Expiry of the summary timer (R202). -/
  | summaryTimerExpiry
  /-- Expiry of the load idle timer (R193). -/
  | loadIdleTimerExpiry
  /-- A class 8 request of unknown kind or wrong length (R189). -/
  | malformedRequest (frame : Frame)
  /-- IDENTIFY (R196). -/
  | identify (node : Node)
  /-- READ-RECORD: type, index (R196). -/
  | readRecord (node : Node) (type index : Byte)
  /-- READ-STATUS: area (R196). -/
  | readStatus (node : Node) (area : Byte)
  /-- COUNTER-READ: block (R196). -/
  | counterRead (node : Node) (block : Byte)
  /-- COUNTER-CLEAR: block, 255 for all (R196). -/
  | counterClear (node : Node) (block : Byte)
  /-- CLEAR-STICKY (R201). -/
  | clearSticky (node : Node)
  /-- BANK-ERASE: kind, bank (R191). -/
  | bankErase (node : Node) (kind bank : Byte)
  /-- BANK-BLANK-CHECK: kind, bank (R191). -/
  | bankBlankCheck (node : Node) (kind bank : Byte)
  /-- LOAD-BEGIN: kind, bank, byte count (R192). -/
  | loadBegin (node : Node) (kind bank : Byte) (count : BitVec 16)
  /-- LOAD-DATA: sequence, 6 data bytes (R193). -/
  | loadData (node : Node) (seq : BitVec 16) (bytes : List Byte)
  /-- LOAD-END: CRC-32 (R193). -/
  | loadEnd (node : Node) (crc : BitVec 32)
  /-- BANK-COMMIT: kind (R194). -/
  | bankCommit (node : Node) (kind : Byte)
  /-- BANK-LOCK: kind, bank (R195). -/
  | bankLock (node : Node) (kind bank : Byte)
  /-- BANK-UNLOCK: kind, bank (R195). -/
  | bankUnlock (node : Node) (kind bank : Byte)
  /-- VOYAGE-OPEN: part, and the voyage number (part 0) or a sounding (R198). -/
  | voyageOpen (node : Node) (part : Byte) (value : BitVec 32)
  /-- VOYAGE-CLOSE (R113). -/
  | voyageClose (node : Node)
  /-- BUNKER: tank, volume (R111). -/
  | bunker (node : Node) (tank : Byte) (volume : BitVec 32)
  /-- SET-LINEUP: engine 1..4, tank (R110). -/
  | setLineup (node : Node) (engine tank : Byte)
  /-- MAKEUP-CONFIRM (R81). -/
  | makeupConfirm (node : Node)
  /-- RESET-CORE (R199). -/
  | resetCore (node : Node)
  /-- 11 consecutive recessive bit times (R135). -/
  | busIdle (port : Segment)
  deriving DecidableEq, Repr

end Sys2Proof
end

