-- ==== Sys2Proof/Config.lean ====
section
/-! DEFINITION. What the spec fixes once for every CG410 (times, depths, ranges), and the values the spec
leaves open: opaque constants with no body, so that no proof can rest on what they are. -/

namespace Sys2Proof.Config

/-- The model's clock counts microseconds (DESIGN CHOICE, log entry 1: the spec gives times from 8 µs to
10 minutes and fixes no common unit). -/
def usPerMs : Nat := 1000

/-- A time of `n` ms on the clock. -/
def ms (n : Nat) : Nat := n * usPerMs

/-- The advance of the clock at one step with no command waiting (log entry 1). -/
def idleTick : Nat := 1

/-- Depth of each segment queue (spec/08) and of each H queue (spec/10). -/
def segmentDepth : Nat := 16
def linkDepth : Nat := 32

/-- Every 16-bit saturating counter holds here (R63, R86, R120, R134, R151, R168, R185, R204). -/
def counterMax : Nat := 65535

/-- Chapter 1. -/
def presenceTime : Nat := ms 1000
def freshTime : Nat := ms 300
def staleHoldTime : Nat := ms 3000
def transferTime : Nat := ms 10000
def joinAnswerTime : Nat := ms 1000
def setpointLossTime : Nat := ms 300
def holdTime : Nat := ms 5000
/-- Chapters 2 and 3. -/
def cycleTime : Nat := ms 50
def feedbackTime : Nat := ms 600
def refreshTime : Nat := ms 100
def deviationTime : Nat := ms 2000
/-- The entries of the breakaway list (R79). -/
def breakawayDepth : Nat := 47
/-- Chapters 4 and 5. -/
def pollAnswerTime : Nat := ms 20
def armTime : Nat := ms 10000
def releaseAnswerTime : Nat := ms 2000
/-- Chapter 6. -/
def silenceTime : Nat := ms 5000
def jumpListTime : Nat := ms 600000
def fuelWindowTime : Nat := ms 60000
def checkpointTime : Nat := ms 60000
/-- Chapter 7, section 7.2: the running time of each operation. -/
def bankEraseTime : Nat := ms 400
def blankCheckTime : Nat := ms 20
def loadProgramTime : Nat := ms 1
def headerProgramTime : Nat := ms 5
def commitCheckTime : Nat := ms 20
def lockProgramTime : Nat := ms 10
def lockEraseTime : Nat := ms 60
def slotEraseTime : Nat := ms 60
def slotProgramTime : Nat := ms 20
/-- Chapter 8: one bit time is 8 µs; the trailer is 10 bit times. -/
def bitTime : Nat := 8
def trailerTime : Nat := 10 * bitTime
def replyWindowTime : Nat := ms 4
def isolationTime : Nat := ms 1000
/-- Chapter 9. -/
def switchingTime : Nat := 200
/-- Chapter 10. -/
def retryAfterReset : Nat := ms 25
def retryAfterDown : Nat := ms 100
def trainingTime : Nat := ms 100
def goodSetTime : Nat := ms 2
def tsPeriod : Nat := 100
def laneLossTime : Nat := ms 20
def laneErrorTime : Nat := ms 1000
def creditRefreshTime : Nat := ms 10
/-- Chapter 11. -/
def summaryTime : Nat := ms 1000
def loadIdleTime : Nat := ms 10000

/-- The limits of a signed 48-bit account (R115). -/
def accountMax : Int := 140737488355327
def accountMin : Int := -140737488355328

/-- The highest checkpoint sequence and commit number (R127, R187). -/
def sequenceMax : Nat := 4294967294

/-! FREE VALUES. Each is read at `State.freeCount`, which the step then advances, so that two readings are
unrelated. -/

/-- The last T of an AUTOPILOT station in command that has sent no accepted HELM, when all-stop is cleared
(R5, R13 state no value; log entry 10). -/
opaque freeTurn : Nat → BitVec 16

/-- The first delta of a FAULT meter that has no baseline (R98, R99 state none; log entry 11). -/
opaque freeDelta : Nat → BitVec 32

/-- Which bits of the byte at a place a cut-short or failed program has left unwritten, or a cut-short or failed
erase has erased (R133: "part of the bytes written", "body partly erased"; log entry 12). -/
opaque freeTorn : Nat → Nat → Byte

/-- The subject byte of an ALARM frame whose subject is none (R200 gives the type 0 and no subject value;
log entry 13): a constant each implementation decides. -/
opaque noSubject : Byte

end Sys2Proof.Config
end

