-- ==== Sys2Proof/Machine/State.lean ====
section
/-! DEFINITION. The state of the CG410: every record, table, queue, timer, flag and counter the spec gives
the ten blocks, the nonvolatile store, and the queue of waiting commands. Plain data. Each piece has one
home; a value the spec derives from others (an engine's accounting mode, the make-up fault, whether an alarm
is raised) is computed from them. -/

namespace Sys2Proof.Machine

/-- Reasons a command stops the machine. There are none: the spec gives every command an effect on every
state, so nothing raises a fault (log entry 2). -/
inductive Fault where
  deriving DecidableEq, Repr

/-- Reasons a command is refused by the model. -/
inductive Refusal where
  /-- Raised by `exec` alone, for a row of the opcode table without a meaning; no row is left so. Safe: the
  run stops where the part would go on. -/
  | notModelled (mnemonic : String)
  deriving DecidableEq, Repr

/-- A timer: the clock value at which it expires, or none while it is stopped. -/
abbrev Timer := Option Nat

/-- What the part is doing as a whole (R130, R199). -/
inductive Power where
  | off | scan | run | coreReset
  deriving DecidableEq, Repr

/-! ## Tables as their banks store them (R187) -/

/-- The five table kinds, in the order of their numbers 1 to 5. -/
inductive Kind where
  | alloc | window | makeup | coupling | fuelmap
  deriving DecidableEq, Repr

inductive StationKind where
  | manual | autopilot
  deriving DecidableEq, Repr

/-- One entry of the station map (R1). -/
structure StationEntry where
  configured : Bool
  node : Nat
  kind : StationKind
  force : Bool
  deriving DecidableEq, Repr

inductive XSource where
  | own | x1 | x2
  deriving DecidableEq, Repr

/-- An engine slot record of ALLOC (section 2.2, R187). -/
structure EngineEntry where
  configured : Bool
  wt : Nat
  wr : Int
  idle : Nat
  maxAhead : Nat
  maxAstern : Nat
  shiftLimit : Nat
  shiftDwell : Nat
  slew : Nat
  setNode : Nat
  fbNode : Nat
  source : XSource
  deriving DecidableEq, Repr

/-- A rudder group record of ALLOC: `gain` is G_s or G_fa, `limit` S_lim or F_lim (section 2.2). -/
structure RudderEntry where
  configured : Bool
  gain : Nat
  limit : Nat
  gainAstern : Nat
  slew : Nat
  setNode : Nat
  fbNode : Nat
  fromXs : Bool
  deriving DecidableEq, Repr

structure AllocTable where
  engines : Vector EngineEntry 6
  rudders : Vector RudderEntry 3
  stations : Vector StationEntry 4
  turnLimit : Nat
  bandUpper : Vector Nat 3
  rAhead : Vector Nat 4
  rAstern : Vector Nat 4
  deltaMin : Nat
  rDown : Nat
  rStop : Nat
  rTurn : Nat
  cF : Nat
  sMax : Nat
  deadband : Nat
  deriving DecidableEq, Repr

structure PortSet where
  w : Bool
  p : Bool
  k : Bool
  h : Bool
  deriving DecidableEq, Repr

inductive WindowAction where
  | deliver | forward | deliverAndForward | drop
  deriving DecidableEq, Repr

/-- One of the 32 windows (section 9.2). -/
structure Window where
  valid : Bool
  ingress : PortSet
  base : Nat
  limit : Nat
  action : WindowAction
  egress : PortSet
  offset : Nat
  deriving DecidableEq, Repr

/-- The WINDOW table; ports in the order W, P, K, H. A default is `true` for DELIVER. -/
structure WindowTable where
  windows : Vector Window 32
  defaults : Vector Bool 4
  maps : Vector (Vector (Fin 4) 16) 4
  enables : Vector Bool 4
  nodes : List Nat
  deriving DecidableEq, Repr

inductive UnitKind where
  | ownBoat | helperBoat | bargeLoaded | bargeEmpty
  deriving DecidableEq, Repr

structure UnitEntry where
  id : Nat
  row : Nat
  column : Nat
  kind : UnitKind
  deriving DecidableEq, Repr

inductive CouplingKind where
  | face | foreAft | side | cross
  deriving DecidableEq, Repr

/-- The static part of a coupling record (section 4.2); `threshold` is none when absent. -/
structure CouplingEntry where
  node : Nat
  unitA : Nat
  unitB : Nat
  kind : CouplingKind
  limit : Nat
  threshold : Option Nat
  locked : Bool
  deriving DecidableEq, Repr

structure CouplingParams where
  slack : Nat
  part : Nat
  hSilent : Nat
  releaseLimit : Nat
  period : Nat
  deriving DecidableEq, Repr

structure CouplingTable where
  params : CouplingParams
  couplings : List CouplingEntry
  deriving DecidableEq, Repr

structure TankEntry where
  defined : Bool
  capacity : Nat
  reserve : Nat
  hysteresis : Nat
  deriving DecidableEq, Repr

/-- What a meter measures: an engine's supply or return, or a transfer between two tanks (section 6.1). -/
inductive MeterRole where
  | supply (engine : Fin 4)
  | ret (engine : Fin 4)
  | transfer (source dest : Fin 8)
  deriving DecidableEq, Repr

structure MeterEntry where
  node : Nat
  role : MeterRole
  deriving DecidableEq, Repr

structure FuelMap where
  jMax : Nat
  cR : Nat
  lineup : Vector (Fin 8) 4
  tanks : Vector TankEntry 8
  meters : List MeterEntry
  deriving DecidableEq, Repr

/-! ## CSU (chapter 1) -/

inductive StationState where
  | absent | present | inCommand | requesting
  deriving DecidableEq, Repr

/-- The last accepted HELM: its clamped demands, its sequence, and its arrival, from which the helm age is
counted (R4). -/
structure HelmRec where
  d : Int
  t : Int
  seq : Nat
  time : Nat
  deriving DecidableEq, Repr

structure Station where
  state : StationState
  silent : Bool
  last : Option HelmRec
  presence : Timer
  freshness : Timer
  deriving DecidableEq, Repr

inductive StalePhase where
  | fresh | hold | zero
  deriving DecidableEq, Repr

inductive StopCause where
  | busBreak
  | station (i : Fin 4)
  deriving DecidableEq, Repr

/-- The join state (section 1.7); HOLDING is within JOINED. -/
inductive JoinState where
  | localMode | offering | joined | holding
  deriving DecidableEq, Repr

structure Csu where
  stations : Vector Station 4
  inCommand : Option (Fin 4)
  phase : StalePhase
  request : Option (Fin 4)
  allStop : Option StopCause
  dAp : Int
  dStar : Int
  tStar : Int
  join : JoinState
  staleHold : Timer
  transfer : Timer
  joinAnswer : Timer
  setpointLoss : Timer
  hold : Timer
  helmClamp : Nat
  helmRepeat : Nat
  unknownNode : Nat
  class7Ignored : Nat
  deriving DecidableEq, Repr

/-! ## TAU (chapter 2) -/

/-- The ALLOC table in force serves the TAU, the CSU and the PIU, which take it at one swap (R24). -/
structure Tau where
  alloc : Option AllocTable
  swapWaiting : Bool
  dEff : Int
  tEff : Int
  timer : Timer
  deriving DecidableEq, Repr

/-! ## PIU (chapter 3) -/

inductive Gear where
  | neutral | ahead | astern
  deriving DecidableEq, Repr

inductive EngineAvail where
  | unconfigured | lost | rejoining | available | faulted
  deriving DecidableEq, Repr

structure EngineFeedback where
  rpm : Nat
  gear : Gear
  rate : Nat
  shutdown : Bool
  overspeed : Bool
  lowOil : Bool
  time : Nat
  deriving DecidableEq, Repr

/-- An engine record with its setpoint slot (sections 3.1, 3.5). `retiring` holds the old entry of a
retiring record (R46). `seq` is the sequence of the slot's next frame. -/
structure EngineRec where
  retiring : Option EngineEntry
  avail : EngineAvail
  gear : Gear
  neutralSince : Nat
  rpm : Nat
  filled : Bool
  fresh : Bool
  seq : Nat
  feedback : Option EngineFeedback
  run : Nat
  cap : Option Nat
  lineup : Fin 8
  timer : Timer
  deriving DecidableEq, Repr

inductive RudderAvail where
  | unconfigured | lost | available
  deriving DecidableEq, Repr

structure RudderFeedback where
  angle : Int
  time : Nat
  deriving DecidableEq, Repr

/-- A rudder record; the commanded angle is the contents of its slot, none while the slot is empty. -/
structure RudderRec where
  avail : RudderAvail
  angle : Option Int
  fresh : Bool
  seq : Nat
  feedback : Option RudderFeedback
  timer : Timer
  deviation : Timer
  deriving DecidableEq, Repr

structure Piu where
  engines : Vector EngineRec 6
  rudders : Vector RudderRec 3
  refresh : Timer
  unknownFeedback : Nat
  malformedFeedback : Nat
  unackedSetpoint : Nat
  hDiscarded : Nat
  deriving DecidableEq, Repr

/-! ## CMU (chapters 4 and 5) -/

structure TowUnit where
  entry : UnitEntry
  attached : Bool
  deriving DecidableEq, Repr

/-- The states of section 4.4 but UNUSED, which is an index with no record. -/
inductive CouplingState where
  | slack | loaded | high | over | silent | parted | releasing | released
  deriving DecidableEq, Repr

/-- A coupling record; tension, brake and hook are none while unknown. `failed` is the failed-release mark
(R87). -/
structure Coupling where
  entry : CouplingEntry
  state : CouplingState
  tension : Option Nat
  brake : Option Bool
  hook : Option Bool
  missed : Nat
  good : Nat
  failed : Bool
  deriving DecidableEq, Repr

/-- The POLL outstanding: its coupling, its node, and the serial of its frame. -/
structure PollOut where
  index : Nat
  node : Nat
  serial : Nat
  deriving DecidableEq, Repr

/-- A running poll round: the poll outstanding and the part of the poll list still to come (R73), without the couplings that have
entered RELEASING or RELEASED since the list was made (R92). -/
structure Round where
  poll : PollOut
  rest : List Nat
  deriving DecidableEq, Repr

/-- What a recompute took at its start (R77). -/
structure Recompute where
  units : List UnitEntry
  couplings : List (CouplingEntry × CouplingState)
  lossSet : List Nat
  releaseSet : List Nat
  rebuild : Bool
  deriving DecidableEq, Repr

/-- The release state (R87). -/
inductive Release where
  | idle
  | armed (station : Fin 4) (index node : Nat) (deadline : Nat)
  | releasing (station : Fin 4) (index node : Nat) (deadline serial : Nat)
  deriving DecidableEq, Repr

/-- The causes of the make-up fault; the fault is set while one is (R79, R80). -/
structure FaultCauses where
  breakaway : Bool
  makeupCommit : Bool
  couplingCommit : Bool
  deriving DecidableEq, Repr

/-- Change sets hold couplings by coupler node, which is distinct across records (section 4.2). -/
structure Cmu where
  units : List TowUnit
  makeupSwap : Bool
  params : CouplingParams
  couplings : List Coupling
  couplingSwap : Bool
  roundTimer : Timer
  round : Option Round
  startMarked : Bool
  firstRound : Bool
  answer : Timer
  recompute : Option Recompute
  recomputePending : Bool
  lossSet : List Nat
  releaseSet : List Nat
  rebuild : Bool
  nAtt : Nat
  headroom : Nat
  causes : FaultCauses
  breakaways : List UnitEntry
  release : Release
  serial : Nat
  roundOverrun : Nat
  malformedReport : Nat
  unsolicitedReport : Nat
  tensionClamp : Nat
  coalesced : Nat
  deriving DecidableEq, Repr

/-! ## FAU (chapter 6) -/

inductive MeterState where
  | unseen | running | fault
  deriving DecidableEq, Repr

/-- A meter record; `unused` marks a record of the table that R96 ignores. -/
structure Meter where
  entry : MeterEntry
  unused : Bool
  state : MeterState
  baseline : Option Nat
  jumps : List Nat
  clean : Nat
  lastReport : Option Nat
  carry : Nat
  silence : Timer
  deriving DecidableEq, Repr

inductive TankState where
  | normal | reserve | empty
  deriving DecidableEq, Repr

structure Tank where
  balance : Int
  state : TankState
  overfull : Bool
  deriving DecidableEq, Repr

/-- An engine account; its mode is computed from the meters (R101). -/
structure Account where
  total : Int
  pendingSupply : Int
  pendingReturn : Int
  carry : Int
  residue : Nat
  lastFeedback : Option Nat
  metered : Int
  estimated : Int
  void : Bool
  disagree : Nat
  deriving DecidableEq, Repr

structure Voyage where
  number : Nat
  isOpen : Bool
  opening : Int
  bunkered : Int
  deriving DecidableEq, Repr

structure Fau where
  table : Option FuelMap
  meters : List Meter
  tanks : Vector Tank 8
  accounts : Vector Account 4
  lineup : Vector (Fin 8) 4
  voyage : Voyage
  sat : Bool
  windowTimer : Timer
  checkpointTimer : Timer
  unknownMeter : Nat
  malformedMeter : Nat
  jump : Nat
  temperatureClamp : Nat
  carryBound : Nat
  deriving DecidableEq, Repr

/-! ## NVS (chapter 7) -/

/-- The bytes of an area that do not read as erased, by address; an unlisted byte reads 255 (R121). -/
abbrev Memory := List Host.Cell

/-- One bank of 4096 bytes. `torn` marks an erase or program cut short or failed, or a load context that was
aborted: the bank is not blank whatever its bytes read, until an erase ends well (R126, R133, R193). `markTorn` marks a mark word partly written: neither erased nor good
(R133, R194). -/
structure Bank where
  cells : Memory
  torn : Bool
  markTorn : Bool
  deriving DecidableEq, Repr

/-- One checkpoint slot of 256 bytes; `torn` as for a bank: the slot is not valid (R129, R133). -/
structure Slot where
  cells : Memory
  torn : Bool
  deriving DecidableEq, Repr

inductive LockFlag where
  | erased | written | partly
  deriving DecidableEq, Repr

/-- A bank: its kind and A (`false`) or B (`true`). -/
structure BankId where
  kind : Kind
  isB : Bool
  deriving DecidableEq, Repr

/-- The operations of section 7.2. -/
inductive StoreOp where
  | bankErase (bank : BankId)
  | blankCheck (bank : BankId)
  | loadProgram (bank : BankId) (offset : Nat) (bytes : List Byte)
  | headerFields (bank : BankId) (length : Nat) (crc : BitVec 32)
  | markWord (bank : BankId) (number : Nat)
  | commitCheck (bank : BankId)
  | lockProgram (bank : BankId)
  | lockErase (bank : BankId)
  | slotErase
  | slotProgram
  deriving DecidableEq, Repr

/-- The running operation with the clock value at which its running time is over. -/
structure RunningOp where
  op : StoreOp
  deadline : Nat
  deriving DecidableEq, Repr

/-- A suspended bank erase with the running time left to it (R126). -/
structure Suspended where
  bank : BankId
  remaining : Nat
  deriving DecidableEq, Repr

/-- The FAU's accounts as a checkpoint carries them (R114). -/
structure Snapshot where
  number : Nat
  isOpen : Bool
  opening : Int
  bunkered : Int
  balances : Vector Int 8
  totals : Vector Int 4
  lineup : Vector (Fin 8) 4
  sat : Bool
  closing : Bool
  deriving DecidableEq, Repr

/-- A checkpoint waiting for the store; `owed` when the close answer is owed on it (R124). -/
structure WaitingCheckpoint where
  snapshot : Snapshot
  owed : Bool
  deriving DecidableEq, Repr

/-- The checkpoint being written: its slot, its sequence and the slots it has failed (R127, R128). -/
structure Checkpoint where
  snapshot : Snapshot
  owed : Bool
  slot : Fin 8
  seq : Nat
  failures : Nat
  deriving DecidableEq, Repr

structure Newest where
  slot : Fin 8
  seq : Nat
  deriving DecidableEq, Repr

/-- Banks and locks are indexed by 2 × (kind number − 1), plus 1 for bank B. `banks`, `flags` and `slots` are the
nonvolatile store itself. -/
structure Nvs where
  banks : Vector Bank 10
  flags : Vector LockFlag 10
  slots : Vector Slot 8
  active : Vector (Option Bool) 5
  locked : Vector Bool 10
  current : Option RunningOp
  suspended : Option Suspended
  waitingOp : Option StoreOp
  checkpoint : Option Checkpoint
  waiting : Option WaitingCheckpoint
  newest : Option Newest
  replacedSnapshot : Nat
  eraseSuspend : Nat
  slotFailure : Nat
  deriving DecidableEq, Repr

/-! ## Segment port controllers (chapter 8) -/

inductive PortState where
  | run | isolated | restart
  deriving DecidableEq, Repr

/-- Who handed a frame to a port or to the link, and so who is told its reports (section 8.4). The serial
tells one POLL or RELEASE from another. -/
inductive Origin where
  | piu
  | cmuPoll (serial : Nat)
  | cmuRelease (serial : Nat)
  | mgu
  | mguReset
  | csu
  | fsw
  deriving DecidableEq, Repr

structure TxEntry where
  frame : Frame
  origin : Origin
  deriving DecidableEq, Repr

/-- How the port stands to its bus: waiting to see 11 recessive bit times, at bus idle, or with a frame on
the bus (R135, R137). -/
inductive LineView where
  | waitIdle | idle | busy
  deriving DecidableEq, Repr

/-- One segment port controller. `sending` names the transmit queue whose head is on the bus; `acked` says
whether the port drove the acknowledge slot of the frame it last followed; `window` is the reply window's
timer, used on K only (R148). -/
structure PortCtl where
  state : PortState
  rx : Vector (List Frame) 4
  tx : Vector (List TxEntry) 4
  overrunFlag : Vector Bool 4
  line : LineView
  sending : Option (Fin 4)
  acked : Bool
  isolation : Timer
  window : Timer
  crcError : Nat
  busError : Nat
  arbitrationLoss : Nat
  ackFailure : Nat
  flushDrop : Nat
  txDrop : Vector Nat 4
  overrun : Vector Nat 4
  breaks : Nat
  deriving DecidableEq, Repr

/-! ## FSW (chapter 9) -/

structure InSwitch where
  frame : Frame
  ingress : PortName
  deadline : Nat
  deriving DecidableEq, Repr

/-- The WINDOW table in force serves the FSW, the ports and the HLC, which take it at one swap (R166);
`commit` is its commit number. Counters are kept per port W, P, K, H. -/
structure Fsw where
  table : Option WindowTable
  commit : Nat
  swapWaiting : Bool
  inSwitch : Option InSwitch
  lastServed : PortName
  windowDrop : Vector Nat 4
  defaultDrop : Vector Nat 4
  undeliverable : Vector Nat 4
  refused : Vector Nat 4
  egressDrop : Vector Nat 4
  deriving DecidableEq, Repr

/-! ## HLC (chapter 10) -/

inductive LinkState where
  | down | training | up | retraining | roleMismatch
  deriving DecidableEq, Repr

/-- A credit control frame waiting for its lane; a return takes its epoch and total when it is sent
(R180). -/
inductive Control where
  | announce (queue : Fin 4) (epoch free : Nat)
  | confirm (queue : Fin 4) (epoch : Nat)
  | ret (queue : Fin 4)
  deriving DecidableEq, Repr

/-- A link frame on a lane (section 10.1). -/
inductive LinkFrame where
  | ts (body : Ts)
  | data (queue : Fin 4) (seq : Nat) (frame : Frame)
  | announce (queue : Fin 4) (epoch free : Nat)
  | confirm (queue : Fin 4) (epoch : Nat)
  | ret (queue : Fin 4) (epoch total : Nat)
  deriving DecidableEq, Repr

/-- What the part puts on a lane: nothing, idle symbols, or the link frame it last began, at whose end a lane in use idles and another
falls silent. -/
inductive LaneOut where
  | silent | idleSymbols
  | frame (f : LinkFrame)
  deriving DecidableEq, Repr

structure LaneCtl where
  bad : Bool
  errors : List Nat
  tsRun : Nat
  good : Bool
  loss : Timer
  control : List Control
  sending : Option (Fin 4)
  out : LaneOut
  crcError : Nat
  deriving DecidableEq, Repr

inductive QueueState where
  | disabled | pending | opened
  deriving DecidableEq, Repr

/-- One H queue, both directions. `announced` is the free entries of the own announce in force; `partner` the
epoch taken from the partner since the queue became PENDING (R178). -/
structure LinkQueue where
  state : QueueState
  rx : List Frame
  tx : List TxEntry
  credit : Nat
  sendSeq : Nat
  expected : Nat
  epoch : Nat
  announced : Nat
  confirmed : Bool
  partner : Option Nat
  lastReturn : Nat
  freed : Nat
  lostFrames : Nat
  overrun : Nat
  txDrop : Nat
  deriving DecidableEq, Repr

/-- The progress of a training (R172): the good set once fixed, the partner's, the chosen set, whether a ready
TS has been sent, the partner's last ready chosen set, and whether the roles have been compared. A training is spent
when a mark of the one lane in use at width 1 started it: its own good set is then empty (R174). -/
structure Training where
  good : Option LaneSet
  partnerGood : Option LaneSet
  chosen : Option LaneSet
  readySent : Bool
  partnerReady : Option LaneSet
  roleSeen : Bool
  spent : Bool
  deriving DecidableEq, Repr

structure Hlc where
  state : LinkState
  inUse : Option LaneSet
  lane0 : LaneCtl
  lane1 : LaneCtl
  queues : Vector LinkQueue 4
  progress : Training
  retry : Timer
  training : Timer
  goodFix : Timer
  tsTimer : Timer
  creditRefresh : Timer
  sequenceError : Nat
  mapMismatch : Nat
  disabledDrop : Nat
  flushDrop : Nat
  deriving DecidableEq, Repr

/-! ## MGU (chapter 11) -/

/-- The alarms of section 11.8. -/
inductive Alarm where
  | commandStale | helperUnjoined | noPropulsion | engineLost | engineFault | engineWarning
  | rudderLost | rudderFault | couplingHigh | couplingOver | couplingSilent | couplingParted
  | breakaway | releaseFailed | meterFault | fuelDisagree | tankReserve | tankEmpty | tankOverfull
  | fuelSat | storeFail | accountGap | queueOverrun | portIsolated | linkDown | linkDegraded
  | linkRoleMismatch
  deriving DecidableEq, Repr

/-- The subjects of section 11.8; `linkH` is the port H. -/
inductive Subject where
  | none
  | station (i : Fin 4)
  | engine (i : Fin 6)
  | rudder (i : Fin 3)
  | coupler (node : Nat)
  | unit (id : Nat)
  | tank (i : Fin 8)
  | meter (node : Nat)
  | port (seg : Segment)
  | linkH
  | portQueue (seg : Segment) (q : Fin 4)
  | lane (l : Lane)
  | slot (i : Fin 8)
  deriving DecidableEq, Repr

/-- The outcomes of STATION-STATUS in the order of their codes 1 to 33 (R203). -/
inductive StatusOutcome where
  | presentOn | absentOn | silent | granted | given
  | requesting | mismatch | timeout | busy | state
  | notPermitted | notInCommand | superseded | cancelled | removed
  | allStopOn | allStopOff | joinPending | joined | unjoined
  | armed | releaseSent | releaseComplete | releaseLate | releaseFailed
  | armExpired | armCancelled | locked | notArmed | tension
  | thrust | portDown | format
  deriving DecidableEq, Repr

/-- The reasons of UNJOIN in the order of their values 1 to 7 (section 1.7). -/
inductive UnjoinReason where
  | takeBack | noCommand | noXSlot | queueClosed | timeout | holdExpired | allStop
  deriving DecidableEq, Repr

/-- The status codes of a response, 0 to 9 (section 11.2). -/
inductive Answer where
  | ok | busy | sequence | locked | notBlank | checkFailed | eraseFailed | programFailed | refusedState
  | badArgument
  deriving DecidableEq, Repr

/-- The long requests of section 11.2. -/
inductive LongOp where
  | erase (bank : BankId)
  | blankCheck (bank : BankId)
  | loadBegin (bank : BankId) (count : Nat)
  | loadData (bytes : List Byte)
  | loadEnd
  | commit (kind : Kind)
  | lock (bank : BankId)
  | unlock (bank : BankId)
  | voyageClose
  deriving DecidableEq, Repr

/-- The long request in the slot, with the node its response goes to (R190). -/
structure LongReq where
  node : Node
  op : LongOp
  deriving DecidableEq, Repr

/-- The open load context (R192). -/
structure LoadCtx where
  bank : BankId
  node : Node
  count : Nat
  next : Nat
  taken : Nat
  crc : BitVec 32
  deriving DecidableEq, Repr

/-- The VOYAGE-OPEN assembly (R198); the next part is one more than the soundings taken. -/
structure Assembly where
  number : Nat
  soundings : List Nat
  deriving DecidableEq, Repr

/-- `sticky` holds one flag per alarm, in the order of the codes. -/
structure Mgu where
  slot : Option LongReq
  load : Option LoadCtx
  assembly : Option Assembly
  standby : Vector (Option Bool) 5
  raised : List (Alarm × Subject)
  sticky : Vector Bool 27
  resetting : Bool
  summary : Timer
  loadIdle : Timer
  malformedRequest : Nat
  responseDrop : Nat
  statusDrop : Nat
  deriving DecidableEq, Repr

/-! ## The whole part -/

/-- The state of the part. `now` is the clock, `origin` the clock value at the end of the last reset (R197),
`resetPin` the level of the RESET pin, `freeCount` the model's own counter of free values read, `pending` the
commands waiting, first in, first out. -/
structure State where
  power : Power
  role : Role
  resetPin : Bool
  now : Nat
  origin : Nat
  freeCount : Nat
  csu : Csu
  tau : Tau
  piu : Piu
  cmu : Cmu
  fau : Fau
  nvs : Nvs
  pcw : PortCtl
  pcp : PortCtl
  pck : PortCtl
  fsw : Fsw
  hlc : Hlc
  mgu : Mgu
  pending : List Instr
  deriving DecidableEq, Repr

/-! ## One update per unit -/

namespace State

def onCsu (s : State) (f : Csu → Csu) : State := { s with csu := f s.csu }
def onTau (s : State) (f : Tau → Tau) : State := { s with tau := f s.tau }
def onPiu (s : State) (f : Piu → Piu) : State := { s with piu := f s.piu }
def onCmu (s : State) (f : Cmu → Cmu) : State := { s with cmu := f s.cmu }
def onFau (s : State) (f : Fau → Fau) : State := { s with fau := f s.fau }
def onNvs (s : State) (f : Nvs → Nvs) : State := { s with nvs := f s.nvs }
def onFsw (s : State) (f : Fsw → Fsw) : State := { s with fsw := f s.fsw }
def onHlc (s : State) (f : Hlc → Hlc) : State := { s with hlc := f s.hlc }
def onMgu (s : State) (f : Mgu → Mgu) : State := { s with mgu := f s.mgu }

/-- The controller of a segment. -/
def port (s : State) (seg : Segment) : PortCtl :=
  match seg with
  | .w => s.pcw
  | .p => s.pcp
  | .k => s.pck

def onPort (s : State) (seg : Segment) (f : PortCtl → PortCtl) : State :=
  match seg with
  | .w => { s with pcw := f s.pcw }
  | .p => { s with pcp := f s.pcp }
  | .k => { s with pck := f s.pck }

/-- The clock moved on to `t`, never back. -/
def upTo (s : State) (t : Nat) : State := { s with now := max s.now t }

/-- The queue of waiting commands replaced. -/
def withPending (s : State) (l : List Instr) : State := { s with pending := l }

/-- One free value read. -/
def tickFree (s : State) : State := { s with freeCount := s.freeCount + 1 }

end State

/-- One element of a fixed row of records changed. -/
def updAt {α : Type} {n : Nat} (v : Vector α n) (i : Fin n) (f : α → α) : Vector α n := v.set i (f v[i])

/-! ## Values at reset with no table loaded -/

def Station.initial : Station :=
  { state := .absent, silent := false, last := none, presence := none, freshness := none }

/-- R2. -/
def Csu.initial : Csu :=
  { stations := Vector.replicate 4 Station.initial, inCommand := none, phase := .fresh, request := none,
    allStop := none, dAp := 0, dStar := 0, tStar := 0, join := .localMode, staleHold := none,
    transfer := none, joinAnswer := none, setpointLoss := none, hold := none, helmClamp := 0,
    helmRepeat := 0, unknownNode := 0, class7Ignored := 0 }

/-- R21, with the timer stopped. -/
def Tau.initial : Tau := { alloc := none, swapWaiting := false, dEff := 0, tEff := 0, timer := none }

/-- R45 for a record that is not configured: its idle is taken as 0 (log entry 3). X1 and X2 have a lineup of which the spec
gives no reset value and which nothing writes: it is 0 (DESIGN CHOICE, log entry 59). -/
def EngineRec.initial : EngineRec :=
  { retiring := none, avail := .unconfigured, gear := .neutral, neutralSince := 0, rpm := 0,
    filled := false, fresh := false, seq := 0, feedback := none, run := 0, cap := none, lineup := 0,
    timer := none }

def RudderRec.initial : RudderRec :=
  { avail := .unconfigured, angle := none, fresh := false, seq := 0, feedback := none, timer := none,
    deviation := none }

/-- R45. -/
def Piu.initial : Piu :=
  { engines := Vector.replicate 6 EngineRec.initial, rudders := Vector.replicate 3 RudderRec.initial,
    refresh := none, unknownFeedback := 0, malformedFeedback := 0, unackedSetpoint := 0, hDiscarded := 0 }

/-- The defaults of section 4.2. -/
def CouplingParams.default : CouplingParams :=
  { slack := 50, part := 500, hSilent := 250, releaseLimit := 150, period := 250 }

/-- R67 and R87, with the timer stopped and no table. -/
def Cmu.initial : Cmu :=
  { units := [], makeupSwap := false, params := CouplingParams.default, couplings := [],
    couplingSwap := false, roundTimer := none, round := none, startMarked := false, firstRound := true,
    answer := none, recompute := none, recomputePending := false, lossSet := [], releaseSet := [],
    rebuild := false, nAtt := 0, headroom := 1000,
    causes := { breakaway := false, makeupCommit := false, couplingCommit := false }, breakaways := [],
    release := .idle, serial := 0, roundOverrun := 0, malformedReport := 0, unsolicitedReport := 0,
    tensionClamp := 0, coalesced := 0 }

def Account.initial : Account :=
  { total := 0, pendingSupply := 0, pendingReturn := 0, carry := 0, residue := 0, lastFeedback := none,
    metered := 0, estimated := 0, void := true, disagree := 0 }

/-- R118 with no valid checkpoint and no table, timers stopped. -/
def Fau.initial : Fau :=
  { table := none, meters := [],
    tanks := Vector.replicate 8 { balance := 0, state := .normal, overfull := false },
    accounts := Vector.replicate 4 Account.initial, lineup := Vector.replicate 4 0,
    voyage := { number := 0, isOpen := false, opening := 0, bunkered := 0 }, sat := false,
    windowTimer := none, checkpointTimer := none, unknownMeter := 0, malformedMeter := 0, jump := 0,
    temperatureClamp := 0, carryBound := 0 }

def Bank.erased : Bank := { cells := [], torn := false, markTorn := false }
def Slot.erased : Slot := { cells := [], torn := false }

/-- A factory-blank store, found so by the scan (R130, R131; section 11.10). -/
def Nvs.initial : Nvs :=
  { banks := Vector.replicate 10 Bank.erased, flags := Vector.replicate 10 .erased,
    slots := Vector.replicate 8 Slot.erased, active := Vector.replicate 5 none,
    locked := Vector.replicate 10 false, current := none, suspended := none, waitingOp := none,
    checkpoint := none, waiting := none, newest := none, replacedSnapshot := 0, eraseSuspend := 0,
    slotFailure := 0 }

/-- R152. -/
def PortCtl.initial : PortCtl :=
  { state := .run, rx := Vector.replicate 4 [], tx := Vector.replicate 4 [],
    overrunFlag := Vector.replicate 4 false, line := .waitIdle, sending := none, acked := false,
    isolation := none, window := none, crcError := 0, busError := 0, arbitrationLoss := 0, ackFailure := 0,
    flushDrop := 0, txDrop := Vector.replicate 4 0, overrun := Vector.replicate 4 0, breaks := 0 }

/-- R167 with WINDOW unloaded. -/
def Fsw.initial : Fsw :=
  { table := none, commit := 0, swapWaiting := false, inSwitch := none, lastServed := .h,
    windowDrop := Vector.replicate 4 0, defaultDrop := Vector.replicate 4 0,
    undeliverable := Vector.replicate 4 0, refused := Vector.replicate 4 0,
    egressDrop := Vector.replicate 4 0 }

def LaneCtl.initial : LaneCtl :=
  { bad := false, errors := [], tsRun := 0, good := false, loss := none, control := [], sending := none,
    out := .silent, crcError := 0 }

def LinkQueue.initial (state : QueueState) : LinkQueue :=
  { state := state, rx := [], tx := [], credit := 0, sendSeq := 0, expected := 0, epoch := 0,
    announced := 0, confirmed := false, partner := none, lastReturn := 0, freed := 0, lostFrames := 0,
    overrun := 0, txDrop := 0 }

def Training.initial : Training :=
  { good := none, partnerGood := none, chosen := none, readySent := false, partnerReady := none,
    roleSeen := false, spent := false }

/-- R171 with WINDOW unloaded, the retry timer stopped: Q0 PENDING, Q1 to Q3 DISABLED. -/
def Hlc.initial : Hlc :=
  { state := .down, inUse := none, lane0 := LaneCtl.initial, lane1 := LaneCtl.initial,
    queues := #v[LinkQueue.initial .pending, LinkQueue.initial .disabled, LinkQueue.initial .disabled,
      LinkQueue.initial .disabled],
    progress := Training.initial, retry := none, training := none, goodFix := none, tsTimer := none,
    creditRefresh := none, sequenceError := 0, mapMismatch := 0, disabledDrop := 0, flushDrop := 0 }

/-- R204, with the summary timer stopped. -/
def Mgu.initial : Mgu :=
  { slot := none, load := none, assembly := none, standby := Vector.replicate 5 none, raised := [],
    sticky := Vector.replicate 27 false, resetting := false, summary := none, loadIdle := none, malformedRequest := 0,
    responseDrop := 0, statusDrop := 0 }

/-- The ALARM frame by which a part whose scan recovered no checkpoint reports ACCOUNT-GAP (R132, R200):
code 23, raised, subject type none, the subject byte of a none subject, raised count 1. -/
def accountGapFrame : Frame :=
  { cls := 12, node := 0, kind := 3, payload := [23, 1, 0, Config.noSubject, 1] }

/-- The part right after the supply-on reset of a factory-blank part strapped LEAD, at the end of its start-up
scan (R130 to R132, R2, R21, R45, R67, R118, R152, R167, R171, R204). The clock starts at 0; the role and the
blank store are log entries 4 and 5. ACCOUNT-GAP is raised by the scan, so its ALARM frame waits in Q1 of the
PCW (R138). -/
def State.reset : State where
  power := .run
  role := .lead
  resetPin := false
  now := 0
  origin := 0
  freeCount := 0
  csu := Csu.initial
  tau := { Tau.initial with timer := some Config.cycleTime }
  piu := { Piu.initial with refresh := some Config.refreshTime }
  cmu := { Cmu.initial with roundTimer := some (Config.ms 250) }
  fau := { Fau.initial with windowTimer := some Config.fuelWindowTime,
                            checkpointTimer := some Config.checkpointTime }
  nvs := Nvs.initial
  pcw := { PortCtl.initial with tx := #v[[], [{ frame := accountGapFrame, origin := .mgu }], [], []] }
  pcp := PortCtl.initial
  pck := PortCtl.initial
  fsw := Fsw.initial
  hlc := { Hlc.initial with retry := some Config.retryAfterReset }
  mgu := { Mgu.initial with raised := [(.accountGap, .none)],
                            sticky := (Vector.replicate 27 false).set 21 true,
                            summary := some Config.summaryTime }
  pending := []

end Sys2Proof.Machine
end

