-- ==== Sys2Proof/Machine/Operands.lean ====
section
/-! DEFINITION. Operand forms: headers and payload fields of frames (sections 8.1, 1.2, 3.2, 4.3, 5.1, 6.2,
11.2), big-endian numbers (Conventions, Multi-byte fields), and the byte values of named fields (R187, R197,
R203, section 11.8). -/

namespace Sys2Proof.Machine

/-- The header as one 16-bit number: class × 4096 + node × 64 + kind (section 8.1). -/
def headerOf (f : Frame) : BitVec 16 := f.cls ++ f.node ++ f.kind

/-- The frame a header and payload bytes make. -/
def frameOf (header : BitVec 16) (payload : List Byte) : Frame :=
  { cls := header.extractLsb' 12 4, node := header.extractLsb' 6 6, kind := header.extractLsb' 0 6,
    payload := payload }

/-- A number of bytes, most significant first. -/
def beNat (l : List Byte) : Nat := l.foldl (fun acc b => acc * 256 + b.toNat) 0

/-- `n` bytes of a number, most significant first, taken mod 256^n. -/
def beBytes : Nat → Nat → List Byte
  | 0, _ => []
  | n + 1, x => BitVec.ofNat 8 (x / 256 ^ n) :: beBytes n x

/-- `n` bytes of a signed number in two's complement. -/
def beInt (n : Nat) (x : Int) : List Byte := beBytes n (x % (256 ^ n : Nat)).toNat

/-- One byte of a number. -/
def byteOf (x : Nat) : Byte := BitVec.ofNat 8 x

/-- A yes/no field or flag as a byte (R187, R197). -/
def boolByte (b : Bool) : Byte := if b then 1 else 0

/-- Bytes `off` to `off + n − 1` of a body or payload as a number. -/
def field (l : List Byte) (off n : Nat) : Nat := beNat ((l.drop off).take n)

/-- A 16-bit field read as two's complement. -/
def signed16 (x : Nat) : Int := (BitVec.ofNat 16 x).toInt

/-- The payload fields as bit vectors. -/
def field8 (l : List Byte) (off : Nat) : Byte := BitVec.ofNat 8 (field l off 1)
def field16 (l : List Byte) (off : Nat) : BitVec 16 := BitVec.ofNat 16 (field l off 2)
def field32 (l : List Byte) (off : Nat) : BitVec 32 := BitVec.ofNat 32 (field l off 4)

/-! ## Named fields as bytes -/

def portIx (x : PortName) : Fin 4 :=
  match x with
  | .w => 0 | .p => 1 | .k => 2 | .h => 3

def segPort (x : Segment) : PortName :=
  match x with
  | .w => .w | .p => .p | .k => .k

def kindIx (x : Kind) : Fin 5 :=
  match x with
  | .alloc => 0 | .window => 1 | .makeup => 2 | .coupling => 3 | .fuelmap => 4

/-- The table kind of a number 1 to 5 (section 11.1). -/
def kindOf (x : Byte) : Option Kind :=
  match x.toNat with
  | 1 => some .alloc | 2 => some .window | 3 => some .makeup | 4 => some .coupling | 5 => some .fuelmap
  | _ => none

/-- The bank of a kind byte and a bank byte, 0 A or 1 B (section 11.2). -/
def bankOf (kind bank : Byte) : Option BankId :=
  match kindOf kind with
  | none => none
  | some k => if bank = 0 then some ⟨k, false⟩ else if bank = 1 then some ⟨k, true⟩ else none

/-- The index of a bank among the ten. -/
def bankIx (b : BankId) : Fin 10 :=
  match b.kind, b.isB with
  | .alloc, false => 0 | .alloc, true => 1
  | .window, false => 2 | .window, true => 3
  | .makeup, false => 4 | .makeup, true => 5
  | .coupling, false => 6 | .coupling, true => 7
  | .fuelmap, false => 8 | .fuelmap, true => 9

/-- The gear of its byte; values above 2 are no gear (section 3.2). -/
def gearOf (x : Byte) : Option Gear :=
  match x.toNat with
  | 0 => some .neutral | 1 => some .ahead | 2 => some .astern
  | _ => none

def gearByte (g : Gear) : Byte :=
  match g with
  | .neutral => 0 | .ahead => 1 | .astern => 2

def stationStateByte (x : StationState) : Byte :=
  match x with
  | .absent => 0 | .present => 1 | .inCommand => 2 | .requesting => 3

/-- The helper mode of STATION-STATUS: LOCAL, OFFERING, JOINED, HOLDING (section 11.8). -/
def joinByte (x : JoinState) : Byte :=
  match x with
  | .localMode => 0 | .offering => 1 | .joined => 2 | .holding => 3

def linkStateByte (x : LinkState) : Byte :=
  match x with
  | .down => 0 | .training => 1 | .up => 2 | .retraining => 3 | .roleMismatch => 4

def reasonByte (x : UnjoinReason) : Byte :=
  match x with
  | .takeBack => 1 | .noCommand => 2 | .noXSlot => 3 | .queueClosed => 4 | .timeout => 5
  | .holdExpired => 6 | .allStop => 7

def answerByte (x : Answer) : Byte :=
  match x with
  | .ok => 0 | .busy => 1 | .sequence => 2 | .locked => 3 | .notBlank => 4 | .checkFailed => 5
  | .eraseFailed => 6 | .programFailed => 7 | .refusedState => 8 | .badArgument => 9

/-- The outcome codes of R203. -/
def outcomeByte (x : StatusOutcome) : Byte :=
  match x with
  | .presentOn => 1 | .absentOn => 2 | .silent => 3 | .granted => 4 | .given => 5
  | .requesting => 6 | .mismatch => 7 | .timeout => 8 | .busy => 9 | .state => 10
  | .notPermitted => 11 | .notInCommand => 12 | .superseded => 13 | .cancelled => 14 | .removed => 15
  | .allStopOn => 16 | .allStopOff => 17 | .joinPending => 18 | .joined => 19 | .unjoined => 20
  | .armed => 21 | .releaseSent => 22 | .releaseComplete => 23 | .releaseLate => 24 | .releaseFailed => 25
  | .armExpired => 26 | .armCancelled => 27 | .locked => 28 | .notArmed => 29 | .tension => 30
  | .thrust => 31 | .portDown => 32 | .format => 33

/-- The place of an alarm in the order of the codes. -/
def alarmIx (a : Alarm) : Fin 27 :=
  match a with
  | .commandStale => 0 | .helperUnjoined => 1 | .noPropulsion => 2 | .engineLost => 3 | .engineFault => 4
  | .engineWarning => 5 | .rudderLost => 6 | .rudderFault => 7 | .couplingHigh => 8 | .couplingOver => 9
  | .couplingSilent => 10 | .couplingParted => 11 | .breakaway => 12 | .releaseFailed => 13
  | .meterFault => 14 | .fuelDisagree => 15 | .tankReserve => 16 | .tankEmpty => 17 | .tankOverfull => 18
  | .fuelSat => 19 | .storeFail => 20 | .accountGap => 21 | .queueOverrun => 22 | .portIsolated => 23
  | .linkDown => 24 | .linkDegraded => 25 | .linkRoleMismatch => 26

/-- The alarm codes of section 11.8; code 14 is unused. -/
def alarmCode (a : Alarm) : Nat :=
  let i := (alarmIx a).val
  if i < 13 then i + 1 else i + 2

def alarmOrder : List Alarm :=
  [.commandStale, .helperUnjoined, .noPropulsion, .engineLost, .engineFault, .engineWarning, .rudderLost,
   .rudderFault, .couplingHigh, .couplingOver, .couplingSilent, .couplingParted, .breakaway, .releaseFailed,
   .meterFault, .fuelDisagree, .tankReserve, .tankEmpty, .tankOverfull, .fuelSat, .storeFail, .accountGap,
   .queueOverrun, .portIsolated, .linkDown, .linkDegraded, .linkRoleMismatch]

/-- Subject types of section 11.8. -/
def subjectType (j : Subject) : Byte :=
  match j with
  | .none => 0 | .station _ => 1 | .engine _ => 2 | .rudder _ => 3 | .coupler _ => 4 | .unit _ => 5
  | .tank _ => 6 | .meter _ => 7 | .port _ => 8 | .linkH => 8 | .portQueue _ _ => 9 | .lane _ => 10
  | .slot _ => 11

/-- The number that names a subject within its type (section 11.8); a none subject has none. -/
def subjectNumber (j : Subject) : Option Nat :=
  match j with
  | .none => none
  | .station i => some i.val
  | .engine i => some i.val
  | .rudder i => some i.val
  | .coupler n => some n
  | .unit n => some n
  | .tank i => some i.val
  | .meter n => some n
  | .port seg => some (portIx (segPort seg)).val
  | .linkH => some 3
  | .portQueue seg q => some (4 * (portIx (segPort seg)).val + q.val)
  | .lane .h0 => some 0
  | .lane .h1 => some 1
  | .slot i => some i.val

/-- The subject byte of an ALARM frame (section 11.8); that of a none subject is open (log entry 13). -/
def subjectByte (j : Subject) : Byte := (subjectNumber j).elim Config.noSubject byteOf

/-! ## Sets of ports and lanes -/

def portSetHas (x : PortSet) (n : PortName) : Bool :=
  match n with
  | .w => x.w | .p => x.p | .k => x.k | .h => x.h

def laneSetHas (x : LaneSet) (l : Lane) : Bool :=
  match l with
  | .h0 => x.h0 | .h1 => x.h1

def laneSetInter (x y : LaneSet) : LaneSet := ⟨x.h0 && y.h0, x.h1 && y.h1⟩

def laneSetEmpty (x : LaneSet) : Bool := !x.h0 && !x.h1

/-- The number of lanes: the width (R172). -/
def laneSetWidth (x : LaneSet) : Nat := x.h0.toNat + x.h1.toNat

def otherLane (l : Lane) : Lane :=
  match l with
  | .h0 => .h1 | .h1 => .h0

/-! ## Frames the part makes -/

/-- A class 12 frame, node 0 (section 11.8). -/
def class12 (kind : BitVec 6) (payload : List Byte) : Frame :=
  { cls := 12, node := 0, kind := kind, payload := payload }

/-- Class 7 frames travel with node 0 (section 1.2). -/
def joinFrame (kind : BitVec 6) (payload : List Byte) : Frame :=
  { cls := 7, node := 0, kind := kind, payload := payload }

def joinOfferFrame : Frame := joinFrame 1 []
def joinAcceptFrame : Frame := joinFrame 2 []
def unjoinFrame (r : UnjoinReason) : Frame := joinFrame 3 [reasonByte r]

/-- POLL and RELEASE name the addressed coupler node (sections 4.3, 5.1). -/
def pollFrame (node : Nat) : Frame := { cls := 4, node := BitVec.ofNat 6 node, kind := 1, payload := [] }

def releaseFrame (node : Nat) : Frame :=
  { cls := 4, node := BitVec.ofNat 6 node, kind := 3, payload := [byteOf (255 - node)] }

end Sys2Proof.Machine
end

