-- ==== Sys2Proof/Machine/Crc.lean ====
section
/-! DEFINITION. The CRCs and the bits of a segment frame on the bus (R135, R187). -/

namespace Sys2Proof.Machine

/-- The bits of a bit vector, most significant first. -/
def bitsOf {n : Nat} (x : BitVec n) : List Bool := (List.range n).map fun i => x.getLsbD (n - 1 - i)

/-- One bit through the CRC-16 register, generator x^16 + x^12 + x^5 + 1 (R135). -/
def crc16Step (reg : BitVec 16) (b : Bool) : BitVec 16 :=
  if reg.msb != b then (reg <<< 1) ^^^ 0x1021#16 else reg <<< 1

/-- The CRC-16 of bits in the order sent, the register preset to all ones (R135). -/
def crc16 (bits : List Bool) : BitVec 16 := bits.foldl crc16Step (BitVec.allOnes 16)

/-- The header, length and payload bits a segment CRC covers. -/
def frameBody (header : BitVec 16) (length : BitVec 4) (payload : List Byte) : List Bool :=
  bitsOf header ++ bitsOf length ++ payload.flatMap bitsOf

/-- The CRC of a segment frame (R135). -/
def frameCrc (header : BitVec 16) (length : BitVec 4) (payload : List Byte) : BitVec 16 :=
  crc16 (frameBody header length payload)

/-- One bit of the other level after each run of eight equal bits; the inserted bit begins the next run. `last`
is the level of the current run and `run` its length (R135). -/
def stuffFrom (last : Bool) (run : Nat) : List Bool → List Bool
  | [] => []
  | b :: rest =>
    let n := if b = last then run + 1 else 1
    if n = 8 then b :: (!b) :: stuffFrom (!b) 1 rest else b :: stuffFrom b n rest

/-- The bits with inserted bits, from the start bit on. -/
def stuff (bits : List Bool) : List Bool := stuffFrom true 0 bits

/-- What a receiver makes of stuffed bits: the bit after each run of eight equal bits is removed (R135). -/
def unstuffFrom (last : Bool) (run : Nat) : List Bool → List Bool
  | [] => []
  | b :: rest =>
    if run = 8 then unstuffFrom b 1 rest
    else b :: unstuffFrom b (if b = last then run + 1 else 1) rest

def unstuff (bits : List Bool) : List Bool := unstuffFrom true 0 bits

/-- The bits of a frame from its start bit to its last CRC bit, before insertion: a dominant start bit
(0), header, length, payload, CRC (R135). -/
def frameBits (f : Frame) : List Bool :=
  let body := frameBody (headerOf f) (BitVec.ofNat 4 f.payload.length) f.payload
  false :: (body ++ bitsOf (crc16 body))

/-- The bits a port sends for a frame: the stuffed bits, then the recessive end delimiter, acknowledge slot and
ten trailer bits, all sent without insertion (R135). -/
def wireBits (f : Frame) : List Bool := stuff (frameBits f) ++ List.replicate 12 true

/-- One shift of the CRC-32 register, generator 04C11DB7 (R187). -/
def crc32Shift (r : BitVec 32) : BitVec 32 := if r.msb then (r <<< 1) ^^^ 0x04C11DB7#32 else r <<< 1

/-- One byte, most significant bit first, through the CRC-32 register (R187). -/
def crc32Step (reg : BitVec 32) (b : Byte) : BitVec 32 :=
  crc32Shift (crc32Shift (crc32Shift (crc32Shift (crc32Shift (crc32Shift (crc32Shift (crc32Shift
    (reg ^^^ (b.setWidth 32 <<< 24)))))))))

/-- The register preset to all ones. -/
def crc32Preset : BitVec 32 := BitVec.allOnes 32

/-- Bytes through the register, for a CRC that runs over several requests (R192, R193). -/
def crc32Run (reg : BitVec 32) (l : List Byte) : BitVec 32 := l.foldl crc32Step reg

/-- The CRC-32 of bytes: the register complemented (R187). -/
def crc32 (l : List Byte) : BitVec 32 := ~~~ (crc32Run crc32Preset l)

end Sys2Proof.Machine
end

