-- ==== Sys2Proof/Machine/Flags.lean ====
section
/-! DEFINITION. Flag bytes of frames (sections 3.2, 4.3, 6.2, 11.8), bits numbered from the least significant,
and the saturating counters. -/

namespace Sys2Proof.Machine

/-- Bit `n` of a flag byte. -/
def flag (x : Byte) (n : Nat) : Bool := x.getLsbD n

/-- The flags of a setpoint frame: fresh bit 0, lead-joined bit 1, the others 0 (section 3.2). -/
def setpointFlags (fresh leadJoined : Bool) : Byte := byteOf (fresh.toNat + 2 * leadJoined.toNat)

/-- Byte 6 of SUMMARY: n_att in bits 0 to 5, all-stop bit 6, helper JOINED bit 7 (section 11.8). -/
def summaryByte6 (nAtt : Nat) (allStop joined : Bool) : Byte :=
  byteOf (nAtt % 64 + 64 * allStop.toNat + 128 * joined.toNat)

/-- Byte 7 of SUMMARY: station in command in bits 0 to 2 (4 none), link state bits 3 to 5, make-up fault
bit 6 (section 11.8). -/
def summaryByte7 (station : Option (Fin 4)) (link : LinkState) (fault : Bool) : Byte :=
  byteOf ((station.elim 4 (·.val)) + 8 * (linkStateByte link).toNat + 64 * fault.toNat)

/-- The flags byte of a checkpoint record: open bit 0, SAT bit 1, closing bit 2 (section 7.5). -/
def checkpointFlags (isOpen sat closing : Bool) : Byte :=
  byteOf (isOpen.toNat + 2 * sat.toNat + 4 * closing.toNat)

/-- A 16-bit saturating counter incremented: it holds at 65535. -/
def satInc (n : Nat) : Nat := min Config.counterMax (n + 1)

/-- A 16-bit saturating counter increased by `g`. -/
def satAdd (n g : Nat) : Nat := min Config.counterMax (n + g)

end Sys2Proof.Machine
end

