-- ==== Sys2Proof/Machine/Ops.lean ====
section
/-! DEFINITION. The operations the units share: the bytes of the nonvolatile store, transmit and receive
queues, timers, alarms, STATION-STATUS frames, responses, frames handed to the helper link, and the look-ups of
the ALLOC table in force. -/

namespace Sys2Proof.Machine

/-! ## Bytes of the nonvolatile store (R121) -/

/-- What an unlisted byte reads as: an erased byte reads 255 (R121). -/
def erasedByte : Byte := 255

/-- One byte of an area. -/
def memRead : Memory → Nat → Byte
  | [], _ => erasedByte
  | (b, w) :: rest, a => if b = a then w else memRead rest a

/-- One byte of an area set; an erased byte is not listed. -/
def memWrite : Memory → Nat → Byte → Memory
  | [], a, v => if v = erasedByte then [] else [(a, v)]
  | (b, w) :: rest, a, v =>
    if a < b then (if v = erasedByte then (b, w) :: rest else (a, v) :: (b, w) :: rest)
    else if b = a then (if v = erasedByte then rest else (a, v) :: rest)
    else (b, w) :: memWrite rest a v

/-- The canonical form: addresses strictly rising, no entry that reads as erased. -/
def Memory.wf : Memory → Bool
  | [] => true
  | [(_, v)] => v != erasedByte
  | (a, v) :: (b, w) :: rest => v != erasedByte && decide (a < b) && Memory.wf ((b, w) :: rest)

/-- Programming turns erased bits (1) to written bits (0) and cannot turn them back (R121). -/
def memProgram (m : Memory) (a : Nat) (v : Byte) : Memory := memWrite m a (memRead m a &&& v)

/-- Bytes programmed from an address on. -/
def memProgramAll (m : Memory) (a : Nat) : List Byte → Memory
  | [] => m
  | v :: rest => memProgramAll (memProgram m a v) (a + 1) rest

/-- `n` bytes from an address on. -/
def memBytes (m : Memory) (a n : Nat) : List Byte := (List.range n).map fun i => memRead m (a + i)

/-! ## Timers -/

/-- A timer started for a duration. -/
def timerFor (s : State) (duration : Nat) : Timer := some (s.now + duration)

/-- The expiry of a timer: the clock stands at the timer's end when it has not passed it, and the effect
follows. An expiry of a stopped timer does not happen and changes nothing (log entry 6). -/
def onExpiry (t : Timer) (s : State) (k : State → State) : State :=
  match t with
  | none => s
  | some d => k (s.upTo d)

/-- Whether a moment lies less than a duration back. -/
def under (s : State) (time duration : Nat) : Bool := decide (s.now < time + duration)

/-- An effect of a part that is running; while the supply is off, the scan runs or a core reset lasts, no unit
takes anything (R130, R199). -/
def whenRunning (s : State) (k : State → State) : State :=
  match s.power with
  | .run => k s
  | _ => s

/-! ## Class maps and transmit queues (R138, R140, R177) -/

/-- The queue a port or the link gives a class, by the WINDOW table in force: class 0 always Q0, and Q1 for
every other class while WINDOW is unloaded. -/
def classQueue (s : State) (port : PortName) (cls : BitVec 4) : Fin 4 :=
  if cls = 0 then 0
  else match s.fsw.table with
    | none => 1
    | some w => w.maps[portIx port][cls.toFin]

/-- A frame handed to a segment port, with whether it entered (ENTERED) or was dropped (DROPPED) (R140). -/
def handPort (seg : Segment) (f : Frame) (o : Origin) (s : State) : State × Bool :=
  let c := s.port seg
  let q := classQueue s (segPort seg) f.cls
  match c.state with
  | .isolated => (s.onPort seg fun c => { c with flushDrop := satInc c.flushDrop }, false)
  | _ =>
    if c.tx[q].length < Config.segmentDepth then
      (s.onPort seg fun c => { c with tx := updAt c.tx q (· ++ [{ frame := f, origin := o }]) }, true)
    else (s.onPort seg fun c => { c with txDrop := updAt c.txDrop q satInc }, false)

/-- A frame handed to the helper link, with whether it entered (R177). -/
def handLink (f : Frame) (o : Origin) (s : State) : State × Bool :=
  let q := classQueue s .h f.cls
  if s.hlc.state = .down || s.hlc.state = .roleMismatch then
    (s.onHlc fun h => { h with flushDrop := satInc h.flushDrop }, false)
  else if s.hlc.queues[q].state = .disabled then
    (s.onHlc fun h => { h with disabledDrop := satInc h.disabledDrop }, false)
  else if s.hlc.queues[q].tx.length < Config.linkDepth then
    (s.onHlc fun h =>
      { h with queues := updAt h.queues q fun x => { x with tx := x.tx ++ [{ frame := f, origin := o }] } }, true)
  else
    (s.onHlc fun h => { h with queues := updAt h.queues q fun x => { x with txDrop := satInc x.txDrop } }, false)

/-! ## Alarms (R200, R201) -/

/-- A class 12 frame handed to the PCW; a DROPPED report is counted in the status-drop counter (R200, R202,
R203). -/
def handStatus (f : Frame) (s : State) : State :=
  match handPort .w f .mgu s with
  | (s', true) => s'
  | (s', false) => s'.onMgu fun m => { m with statusDrop := satInc m.statusDrop }

def isRaised (a : Alarm) (j : Subject) (s : State) : Bool := s.mgu.raised.contains (a, j)

/-- Subjects of a code in the raised set, limited to 255 (R200). -/
def raisedCount (a : Alarm) (s : State) : Nat := min 255 (s.mgu.raised.countP (·.1 == a))

/-- The ALARM frame of a raise or clear (section 11.8). -/
def alarmFrame (a : Alarm) (j : Subject) (raised : Bool) (s : State) : Frame :=
  class12 3 [byteOf (alarmCode a), boolByte raised, subjectType j, subjectByte j, byteOf (raisedCount a s)]

/-- A raise: the pair enters the raised set and sets the sticky flag, and one ALARM frame is handed. An alarm
already raised for the subject is not raised again. -/
def raiseAlarm (a : Alarm) (j : Subject) (s : State) : State :=
  if isRaised a j s then s
  else
    let s1 := s.onMgu fun m =>
      { m with raised := m.raised ++ [(a, j)], sticky := m.sticky.set (alarmIx a) true }
    handStatus (alarmFrame a j true s1) s1

/-- A clear of a raised alarm. -/
def clearAlarm (a : Alarm) (j : Subject) (s : State) : State :=
  if isRaised a j s then
    let s1 := s.onMgu fun m => { m with raised := m.raised.filter (· != (a, j)) }
    handStatus (alarmFrame a j false s1) s1
  else s

/-- An alarm raised or cleared to agree with a condition. -/
def syncAlarm (a : Alarm) (j : Subject) (wanted : Bool) (s : State) : State :=
  if wanted then raiseAlarm a j s else clearAlarm a j s

/-- The subjects for which a code is raised. -/
def raisedSubjects (a : Alarm) (s : State) : List Subject :=
  (s.mgu.raised.filter (·.1 == a)).map (·.2)

/-- Every raised subject of a code cleared. -/
def clearAllOf (a : Alarm) (s : State) : State :=
  (raisedSubjects a s).foldl (fun s j => clearAlarm a j s) s

/-! ## STATION-STATUS (R14, R203) -/

/-- A STATION-STATUS frame: station, state, flags, station in command, helper mode, outcome, detail; a frame
that names no station carries state 255 and flags 0. -/
def statusFrame (st : Option (Fin 4)) (o : StatusOutcome) (detail : Byte) (s : State) : Frame :=
  class12 1
    [st.elim 255 (fun i => byteOf i.val),
     st.elim 255 (fun i => stationStateByte s.csu.stations[i].state),
     st.elim 0 (fun i => boolByte s.csu.stations[i].silent),
     s.csu.inCommand.elim 255 (fun i => byteOf i.val),
     joinByte s.csu.join, outcomeByte o, detail]

def reportStatus (st : Option (Fin 4)) (o : StatusOutcome) (detail : Byte) (s : State) : State :=
  handStatus (statusFrame st o detail s) s

/-- An outcome without a detail. -/
def report (st : Fin 4) (o : StatusOutcome) (s : State) : State := reportStatus (some st) o 255 s

/-! ## Responses (R189) -/

/-- Data cut into parts of 6 bytes, at least one part; `fuel` bounds the number of parts. -/
def cutParts : Nat → List Byte → List (List Byte)
  | 0, l => [l]
  | fuel + 1, l => if l.length ≤ 6 then [l] else l.take 6 :: cutParts fuel (l.drop 6)

/-- The frames of a response: class 9, the request's kind, addressed to the requesting node; each carries the
status, its part index with bit 7 on the last part, and its data. -/
def responseFrames (node : Node) (kind : Nat) (a : Answer) (data : List Byte) : List Frame :=
  let parts := cutParts data.length data
  (List.range parts.length).map fun i =>
    { cls := 9, node := node, kind := BitVec.ofNat 6 kind,
      payload := answerByte a :: byteOf (i % 128 + if i + 1 = parts.length then 128 else 0) ::
        (parts[i]?.getD []) }

/-- One part handed to the PCW; a DROPPED report is counted in the response-drop counter. -/
def handResponse (o : Origin) (f : Frame) (s : State) : State × Bool :=
  match handPort .w f o s with
  | (s', true) => (s', true)
  | (s', false) => (s'.onMgu fun m => { m with responseDrop := satInc m.responseDrop }, false)

/-- A response of the MGU, all parts at once in order. -/
def respond (node : Node) (kind : Nat) (a : Answer) (data : List Byte) (s : State) : State :=
  (responseFrames node kind a data).foldl (fun s f => (handResponse .mgu f s).1) s

/-- The request kind of a long request (section 11.2). -/
def longKind (op : LongOp) : Nat :=
  match op with
  | .erase _ => 7 | .blankCheck _ => 8 | .loadBegin _ _ => 9 | .loadData _ => 10 | .loadEnd => 11
  | .commit _ => 12 | .lock _ => 13 | .unlock _ => 14 | .voyageClose => 16

/-- The long request in the slot answered, and the slot freed (R190). -/
def finishLong (a : Answer) (data : List Byte) (s : State) : State :=
  match s.mgu.slot with
  | none => s
  | some r => respond r.node (longKind r.op) a data (s.onMgu fun m => { m with slot := none })

/-! ## The ALLOC table in force, its values limited to their ranges (R23, R188) -/

def limitEngine (e : EngineEntry) : EngineEntry :=
  { e with wt := limitNat e.wt 0 1000, wr := clampSym e.wr 1000, shiftDwell := limitNat e.shiftDwell 0 60000,
           slew := limitNat e.slew 1 65535, setNode := limitNat e.setNode 1 62,
           fbNode := limitNat e.fbNode 1 62 }

/-- RS and XS take S_lim and G_s, RF takes F_lim, G_fa and G_fs; the ranges are the same (section 2.2). -/
def limitRudder (r : RudderEntry) : RudderEntry :=
  { r with gain := limitNat r.gain 0 900, limit := limitNat r.limit 0 900,
           gainAstern := limitNat r.gainAstern 0 900, slew := limitNat r.slew 1 900,
           setNode := limitNat r.setNode 1 62, fbNode := limitNat r.fbNode 1 62 }

def limitStation (e : StationEntry) : StationEntry := { e with node := limitNat e.node 1 62 }

/-- The table as the units use it. The band bounds are used as stored (R23). -/
def limitAlloc (t : AllocTable) : AllocTable :=
  { t with engines := t.engines.map limitEngine, rudders := t.rudders.map limitRudder,
           stations := t.stations.map limitStation, turnLimit := limitNat t.turnLimit 0 1000,
           rAhead := t.rAhead.map (limitNat · 1 1000), rAstern := t.rAstern.map (limitNat · 1 1000),
           deltaMin := limitNat t.deltaMin 1 1000, rDown := limitNat t.rDown 1 1000,
           rStop := limitNat t.rStop 1 1000, rTurn := limitNat t.rTurn 1 2000, cF := limitNat t.cF 0 1000,
           sMax := limitNat t.sMax 1000 6000, deadband := limitNat t.deadband 0 999 }

/-- The ALLOC in force as used, none while unloaded. -/
def allocOf (s : State) : Option AllocTable := s.tau.alloc.map limitAlloc

/-- The entry of an engine that no table names. -/
def noEngine : EngineEntry :=
  { configured := false, wt := 0, wr := 0, idle := 0, maxAhead := 0, maxAstern := 0, shiftLimit := 0,
    shiftDwell := 0, slew := 1, setNode := 1, fbNode := 1, source := .own }

def noRudder : RudderEntry :=
  { configured := false, gain := 0, limit := 0, gainAstern := 0, slew := 1, setNode := 1, fbNode := 1,
    fromXs := false }

def noStation : StationEntry := { configured := false, node := 1, kind := .manual, force := false }

/-- The entry of an engine in the table in force. -/
def engineEntry (s : State) (i : Fin 6) : EngineEntry := (allocOf s).elim noEngine (·.engines[i])

/-- The entry a record runs on: the old one while it is retiring (R46). -/
def engineOf (s : State) (i : Fin 6) : EngineEntry := s.piu.engines[i].retiring.getD (engineEntry s i)

def rudderOf (s : State) (i : Fin 3) : RudderEntry := (allocOf s).elim noRudder (·.rudders[i])

/-- A station's entry; while ALLOC is unloaded every station is unconfigured (R1). -/
def stationOf (s : State) (i : Fin 4) : StationEntry := (allocOf s).elim noStation (·.stations[i])

/-- T_ap (R1). -/
def turnLimitOf (s : State) : Nat := (allocOf s).elim 250 (·.turnLimit)

/-- The configured station with a node, if any. Of two whose stored nodes differ and are equal as used (62 and 63, or
0 and 1), the lowest of S0 to S3 is taken (log entry 65). -/
def findStation (s : State) (node : Node) : Option (Fin 4) :=
  (List.finRange 4).find? fun i => (stationOf s i).configured && (stationOf s i).node == node.toNat

/-! ## Records changed in place -/

def onStation (i : Fin 4) (f : Station → Station) (s : State) : State :=
  s.onCsu fun c => { c with stations := updAt c.stations i f }

def onEngine (i : Fin 6) (f : EngineRec → EngineRec) (s : State) : State :=
  s.onPiu fun p => { p with engines := updAt p.engines i f }

def onRudder (i : Fin 3) (f : RudderRec → RudderRec) (s : State) : State :=
  s.onPiu fun p => { p with rudders := updAt p.rudders i f }

def onQueue (q : Fin 4) (f : LinkQueue → LinkQueue) (s : State) : State :=
  s.onHlc fun h => { h with queues := updAt h.queues q f }

def laneOf (s : State) (l : Lane) : LaneCtl :=
  match l with
  | .h0 => s.hlc.lane0 | .h1 => s.hlc.lane1

def onLane (l : Lane) (f : LaneCtl → LaneCtl) (s : State) : State :=
  match l with
  | .h0 => s.onHlc fun h => { h with lane0 := f h.lane0 }
  | .h1 => s.onHlc fun h => { h with lane1 := f h.lane1 }

/-- The make-up fault is set while it has a cause (R79, R80). -/
def makeupFault (s : State) : Bool :=
  s.cmu.causes.breakaway || s.cmu.causes.makeupCommit || s.cmu.causes.couplingCommit

/-- JOINED, plain or HOLDING. -/
def isJoined (s : State) : Bool := s.csu.join = .joined || s.csu.join = .holding

/-- Whether the H queue a class maps to is OPEN at this side (R183). -/
def classOpen (s : State) (cls : BitVec 4) : Bool := s.hlc.queues[classQueue s .h cls].state = .opened

end Sys2Proof.Machine
end

