-- ==== Sys2Proof/Machine/Tables.lean ====
section
/-! DEFINITION. Bank headers and bodies, the field checks of a commit, and checkpoint records, as the store holds
them (R121, R129, R187, R188, section 7.5). -/

namespace Sys2Proof.Machine

/-! ## Bank headers (R187) -/

/-- The number of a kind, 1 to 5. -/
def kindNumber (k : Kind) : Nat := (kindIx k).val + 1

def bankLength (b : Bank) : Nat := beNat (memBytes b.cells 1 2)
def bankCrc (b : Bank) : BitVec 32 := BitVec.ofNat 32 (beNat (memBytes b.cells 3 4))
def bankCommit (b : Bank) : Nat := beNat (memBytes b.cells 17 4)

/-- The body over the body length, from byte 32. -/
def bankBody (b : Bank) : List Byte := memBytes b.cells 32 (bankLength b)

/-- The bytes of a mark word with a commit number: the active mark 90, the number, and their CRC-32. -/
def markBytes (number : Nat) : List Byte :=
  let head := 90 :: beBytes 4 number
  head ++ beBytes 4 (crc32 head).toNat

/-- The header fields of a load: kind, body length, CRC. -/
def headerBytes (k : Kind) (length : Nat) (crc : BitVec 32) : List Byte :=
  byteOf (kindNumber k) :: (beBytes 2 length ++ beBytes 4 crc.toNat)

/-- The mark word is fully erased. -/
def markErased (b : Bank) : Bool := !b.markTorn && (memBytes b.cells 16 9).all (· == erasedByte)

/-- The mark word reads good: byte 16 is 90 and the mark check matches; one whose check is bad reads as unmarked. -/
def markGood (b : Bank) : Bool :=
  !b.markTorn && memRead b.cells 16 == 90 &&
    beNat (memBytes b.cells 21 4) == (crc32 (memBytes b.cells 16 5)).toNat

/-- Every byte reads 255, and no mark says that the bank is not blank (R122, R126, R133, R193). -/
def bankBlank (b : Bank) : Bool := b.cells.isEmpty && !b.torn && !b.markTorn

/-- What COMMIT-CHECK and the scan ask of a bank: the header's kind, a body length of at most 4064, and the CRC-32 of
the body (R122, R130). -/
def bankSound (k : Kind) (b : Bank) : Bool :=
  (memRead b.cells 0).toNat == kindNumber k && decide (bankLength b ≤ 4064) &&
    crc32 (bankBody b) == bankCrc b

/-- A bank the scan may find active (R130). -/
def bankCandidate (k : Kind) (b : Bank) : Bool := markGood b && bankSound k b

/-! ## Bodies (R187) -/

def byteFlag (body : List Byte) (off : Nat) : Bool := field body off 1 == 1

def portSetOf (x : Nat) : PortSet := ⟨x.testBit 0, x.testBit 1, x.testBit 2, x.testBit 3⟩

def engineEntryAt (body : List Byte) (o : Nat) : EngineEntry :=
  { configured := byteFlag body o, wt := field body (o + 1) 2, wr := signed16 (field body (o + 3) 2),
    idle := field body (o + 5) 2, maxAhead := field body (o + 7) 2, maxAstern := field body (o + 9) 2,
    shiftLimit := field body (o + 11) 2, shiftDwell := field body (o + 13) 2, slew := field body (o + 15) 2,
    setNode := field body (o + 17) 1, fbNode := field body (o + 18) 1,
    source := match field body (o + 19) 1 with | 1 => .x1 | 2 => .x2 | _ => .own }

def rudderEntryAt (body : List Byte) (o : Nat) : RudderEntry :=
  { configured := byteFlag body o, gain := field body (o + 1) 2, limit := field body (o + 3) 2,
    gainAstern := field body (o + 5) 2, slew := field body (o + 7) 2, setNode := field body (o + 9) 1,
    fbNode := field body (o + 10) 1, fromXs := byteFlag body (o + 11) }

def stationEntryAt (body : List Byte) (o : Nat) : StationEntry :=
  { configured := byteFlag body o, node := field body (o + 1) 1,
    kind := if byteFlag body (o + 2) then .autopilot else .manual, force := byteFlag body (o + 3) }

def decodeAlloc (b : List Byte) : AllocTable :=
  { engines := Vector.ofFn fun i => engineEntryAt b (20 * i.val),
    rudders := Vector.ofFn fun i => rudderEntryAt b (120 + 12 * i.val),
    stations := Vector.ofFn fun i => stationEntryAt b (156 + 4 * i.val),
    turnLimit := field b 172 2,
    bandUpper := Vector.ofFn fun i => field b (174 + i.val) 1,
    rAhead := Vector.ofFn fun i => field b (177 + 2 * i.val) 2,
    rAstern := Vector.ofFn fun i => field b (185 + 2 * i.val) 2,
    deltaMin := field b 193 2, rDown := field b 195 2, rStop := field b 197 2, rTurn := field b 199 2,
    cF := field b 201 2, sMax := field b 203 2, deadband := field b 205 2 }

def windowAt (b : List Byte) (o : Nat) : Window :=
  { valid := byteFlag b o, ingress := portSetOf (field b (o + 1) 1), base := field b (o + 2) 2,
    limit := field b (o + 4) 2,
    action := match field b (o + 6) 1 with
      | 1 => .forward | 2 => .deliverAndForward | 3 => .drop | _ => .deliver,
    egress := portSetOf (field b (o + 7) 1), offset := field b (o + 8) 1 }

/-- Q0 of the link is always enabled (R182); bits 1 to 3 of the enables byte are for Q1 to Q3. -/
def decodeWindow (b : List Byte) : WindowTable :=
  { windows := Vector.ofFn fun i => windowAt b (9 * i.val),
    defaults := Vector.ofFn fun i => byteFlag b (288 + i.val),
    maps := Vector.ofFn fun i => Vector.ofFn fun c => Fin.ofNat 4 (field b (292 + 16 * i.val + c.val) 1),
    enables := Vector.ofFn fun q => q.val == 0 || (field b 356 1).testBit q.val,
    nodes := (List.range (field b 357 1)).map fun i => limitNat (field b (358 + i) 1) 1 62 }

def unitEntryAt (b : List Byte) (o : Nat) : UnitEntry :=
  { id := field b o 1, row := field b (o + 1) 1, column := field b (o + 2) 1,
    kind := match field b (o + 3) 1 with
      | 1 => .helperBoat | 2 => .bargeLoaded | 3 => .bargeEmpty | _ => .ownBoat }

def decodeMakeup (b : List Byte) : List UnitEntry :=
  (List.range (field b 0 1)).map fun i => unitEntryAt b (1 + 4 * i)

def couplingEntryAt (b : List Byte) (o : Nat) : CouplingEntry :=
  let threshold := field b (o + 6) 2
  { node := field b o 1, unitA := field b (o + 1) 1, unitB := field b (o + 2) 1,
    kind := match field b (o + 3) 1 with | 1 => .foreAft | 2 => .side | 3 => .cross | _ => .face,
    limit := field b (o + 4) 2, threshold := if threshold = 65535 then none else some threshold,
    locked := byteFlag b (o + 8) }

def decodeCoupling (b : List Byte) : CouplingTable :=
  { params := { slack := field b 0 2, part := field b 2 2, hSilent := field b 4 2,
                releaseLimit := field b 6 2, period := field b 8 2 },
    couplings := (List.range (field b 10 1)).map fun i => couplingEntryAt b (11 + 9 * i) }

def tankEntryAt (b : List Byte) (o : Nat) : TankEntry :=
  { defined := byteFlag b o, capacity := field b (o + 1) 6, reserve := field b (o + 7) 6,
    hysteresis := field b (o + 13) 6 }

def meterEntryAt (b : List Byte) (o : Nat) : MeterEntry :=
  { node := field b o 1,
    role := match field b (o + 1) 1 with
      | 0 => .supply (Fin.ofNat 4 (field b (o + 2) 1))
      | 1 => .ret (Fin.ofNat 4 (field b (o + 2) 1))
      | _ => .transfer (Fin.ofNat 8 (field b (o + 2) 1)) (Fin.ofNat 8 (field b (o + 3) 1)) }

def decodeFuel (b : List Byte) : FuelMap :=
  { jMax := field b 0 4, cR := field b 4 2,
    lineup := Vector.ofFn fun i => Fin.ofNat 8 (min 7 (field b (6 + i.val) 1)),
    tanks := Vector.ofFn fun i => tankEntryAt b (10 + 19 * i.val),
    meters := (List.range (field b 162 1)).map fun i => meterEntryAt b (163 + 4 * i) }

/-! ## Field checks of a commit (R188) -/

/-- Bytes at the offsets hold at most `m`: an enumerated field, a yes/no field (1) or a set of ports (15). -/
def bytesAtMost (b : List Byte) (offsets : List Nat) (m : Nat) : Bool := offsets.all fun o => decide (field b o 1 ≤ m)

/-- Offsets of one byte in each of `n` records. -/
def everyRecord (n base width off : Nat) : List Nat := (List.range n).map fun i => base + width * i + off

/-- A list of numbers without repeats. -/
def distinct : List Nat → Bool
  | [] => true
  | x :: rest => !rest.contains x && distinct rest

def allocOk (b : List Byte) : Bool :=
  let t := decodeAlloc b
  decide (b.length = 207) &&
  bytesAtMost b (everyRecord 6 0 20 0) 1 && bytesAtMost b (everyRecord 6 0 20 19) 2 &&
  bytesAtMost b (everyRecord 3 120 12 0) 1 && bytesAtMost b (everyRecord 3 120 12 11) 1 &&
  bytesAtMost b (everyRecord 4 156 4 0) 1 && bytesAtMost b (everyRecord 4 156 4 2) 1 &&
  bytesAtMost b (everyRecord 4 156 4 3) 1 &&
  t.engines.toList.all (fun e => !e.configured || (decide (e.idle < e.maxAhead) && decide (e.idle < e.maxAstern))) &&
  t.engines.toList.all (fun e => decide (e.wt ≤ 1000) && decide (-1000 ≤ e.wr) && decide (e.wr ≤ 1000)) &&
  distinct ((t.stations.toList.filter (·.configured)).map (·.node))

def windowOk (b : List Byte) : Bool :=
  let t := decodeWindow b
  decide (b.length = 374) && decide (field b 357 1 ≤ 16) &&
  bytesAtMost b (everyRecord 32 0 9 0) 1 && bytesAtMost b (everyRecord 32 0 9 1) 15 &&
  bytesAtMost b (everyRecord 32 0 9 6) 3 && bytesAtMost b (everyRecord 32 0 9 7) 15 &&
  bytesAtMost b (everyRecord 4 288 1 0) 1 &&
  bytesAtMost b (everyRecord 64 292 1 0) 3 &&
  t.windows.toList.all (fun w => !w.valid || decide (w.base ≤ w.limit))

def makeupOk (b : List Byte) : Bool :=
  let n := field b 0 1
  let t := decodeMakeup b
  decide (n ≤ 48) && decide (b.length = 1 + 4 * n) && bytesAtMost b (everyRecord n 1 4 3) 3 &&
  distinct (t.map (·.id)) && distinct (t.map fun u => 256 * u.row + u.column) &&
  t.any (fun u => u.id == 0 && u.kind == .ownBoat)

/-- `units` is the make-up of the active MAKEUP bank, none while MAKEUP is unloaded. -/
def couplingOk (units : Option (List UnitEntry)) (b : List Byte) : Bool :=
  let n := field b 10 1
  let t := decodeCoupling b
  let known := fun u => match units with
    | none => u == 0
    | some l => l.any (·.id == u)
  decide (n ≤ 62) && decide (b.length = 11 + 9 * n) &&
  bytesAtMost b (everyRecord n 11 9 3) 3 && bytesAtMost b (everyRecord n 11 9 8) 1 &&
  distinct (t.couplings.map (·.node)) &&
  t.couplings.all (fun c => decide (1 ≤ c.node) && decide (c.node ≤ 62) && known c.unitA && known c.unitB)

/-- The checks of FUELMAP. R188 names the source and dest tanks of the meters, which are those of a TRANSFER, while chapter 6 (section
6.1) speaks of any tank index: a default-lineup byte above 7 is not refused here but used as 7, and the dest tank byte of a
SUPPLY or RETURN meter is not looked at (DESIGN CHOICE, log entry 90). -/
def fuelOk (b : List Byte) : Bool :=
  let n := field b 162 1
  let t := decodeFuel b
  decide (n ≤ 12) && decide (b.length = 163 + 4 * n) &&
  bytesAtMost b (everyRecord 8 10 19 0) 1 && bytesAtMost b (everyRecord n 163 4 1) 2 &&
  (List.range n).all (fun i =>
    let o := 163 + 4 * i
    if field b (o + 1) 1 ≤ 1 then decide (field b (o + 2) 1 ≤ 3)
    else decide (field b (o + 2) 1 ≤ 7) && decide (field b (o + 3) 1 ≤ 7)) &&
  t.tanks.toList.all (fun k => !k.defined || decide (k.reserve < k.capacity))

/-- The field checks of a kind. -/
def fieldsOk (k : Kind) (units : Option (List UnitEntry)) (b : List Byte) : Bool :=
  match k with
  | .alloc => allocOk b
  | .window => windowOk b
  | .makeup => makeupOk b
  | .coupling => couplingOk units b
  | .fuelmap => fuelOk b

/-! ## The tables of the active banks (R186) -/

/-- The active bank of a kind. -/
def activeBank (s : State) (k : Kind) : Option Bank :=
  s.nvs.active[kindIx k].map fun isB => s.nvs.banks[bankIx ⟨k, isB⟩]

def activeBody (s : State) (k : Kind) : Option (List Byte) := (activeBank s k).map bankBody

/-- The commit number of the active bank, 0 with none. -/
def activeCommit (s : State) (k : Kind) : Nat := (activeBank s k).elim 0 bankCommit

def activeAlloc (s : State) : Option AllocTable := (activeBody s .alloc).map decodeAlloc
def activeWindow (s : State) : Option WindowTable := (activeBody s .window).map decodeWindow
def activeMakeup (s : State) : Option (List UnitEntry) := (activeBody s .makeup).map decodeMakeup
def activeCoupling (s : State) : Option CouplingTable := (activeBody s .coupling).map decodeCoupling
def activeFuel (s : State) : Option FuelMap := (activeBody s .fuelmap).map decodeFuel

/-- The standby bank: the one not active; with none active, the standby choice, or bank A (R186). -/
def standbyBank (s : State) (k : Kind) : BankId :=
  match s.nvs.active[kindIx k] with
  | some isB => ⟨k, !isB⟩
  | none => ⟨k, s.mgu.standby[kindIx k].getD false⟩

/-- The response to a commit, sent after the swap: OK and the commit number (R194). -/
def answerCommit (k : Kind) (s : State) : State := finishLong .ok (beBytes 4 (activeCommit s k)) s

/-! ## Checkpoint records (section 7.5) -/

/-- Bytes 0 to 94 of a record. -/
def recordHead (p : Snapshot) (seq : Nat) : List Byte :=
  beBytes 4 seq ++ beBytes 2 p.number ++ [checkpointFlags p.isOpen p.sat p.closing] ++
    p.lineup.toList.map (fun t => byteOf t.val) ++ beInt 6 p.opening ++ beInt 6 p.bunkered ++
    p.balances.toList.flatMap (beInt 6) ++ p.totals.toList.flatMap (beInt 6)

/-- The bytes of a slot that holds a record: 95 to 251 stay erased, the CRC stands last. -/
def slotCells (p : Snapshot) (seq : Nat) : Memory :=
  let head := recordHead p seq
  memProgramAll (memProgramAll [] 0 head) 252 (beBytes 4 (crc32 head).toNat)

def slotSeq (x : Slot) : Nat := beNat (memBytes x.cells 0 4)

/-- A slot is valid: its sequence is not erased and the CRC of bytes 0 to 94 equals its CRC (R129); one cut short
is not (R133). -/
def slotValid (x : Slot) : Bool :=
  !x.torn && slotSeq x != 4294967295 &&
    (crc32 (memBytes x.cells 0 95)).toNat == beNat (memBytes x.cells 252 4)

/-- A signed 48-bit field. -/
def signed48 (l : List Byte) (off : Nat) : Int := (BitVec.ofNat 48 (field l off 6)).toInt

/-- The snapshot a slot holds. -/
def slotSnapshot (x : Slot) : Snapshot :=
  let l := memBytes x.cells 0 95
  let flags := field8 l 6
  { number := field l 4 2, isOpen := flag flags 0, sat := flag flags 1, closing := flag flags 2,
    lineup := Vector.ofFn fun i => Fin.ofNat 8 (field l (7 + i.val) 1),
    opening := signed48 l 11, bunkered := signed48 l 17,
    balances := Vector.ofFn fun i => signed48 l (23 + 6 * i.val),
    totals := Vector.ofFn fun i => signed48 l (71 + 6 * i.val) }

/-- The valid slot with the highest sequence (R131, R133). -/
def newestSlot (slots : Vector Slot 8) : Option Newest :=
  (List.finRange 8).foldl (fun best i =>
    if slotValid slots[i] then
      (match best with
        | none => some ⟨i, slotSeq slots[i]⟩
        | some n => if n.seq < slotSeq slots[i] then some ⟨i, slotSeq slots[i]⟩ else best)
    else best) none

end Sys2Proof.Machine
end

