-- ==== Sys2Proof/Machine/Coupling.lean ====
section
/-! DEFINITION. The coupling monitor unit: coupling states and their alarms, the poll round, the recompute, the
make-up fault, the headroom, the release protocol, and the meanings of its commands (chapters 4 and 5). -/

namespace Sys2Proof.Machine

/-! ## Bounds and tension states (R65, R66, R69) -/

def limitParams (x : CouplingParams) : CouplingParams :=
  { slack := limitNat x.slack 0 1000, part := limitNat x.part 0 1000, hSilent := limitNat x.hSilent 0 1000,
    releaseLimit := limitNat x.releaseLimit 0 1000, period := limitNat x.period 50 5000 }

/-- The tension limit L as used. -/
def tensionLimit (e : CouplingEntry) : Nat := limitNat e.limit 1 4000

/-- The release threshold as used: floor(L / 10) when absent (R65). -/
def releaseThreshold (e : CouplingEntry) : Nat :=
  match e.threshold with
  | none => tensionLimit e / 10
  | some t => limitNat t 0 4000

def slackBound (x : CouplingParams) (e : CouplingEntry) : Nat := tensionLimit e * (limitParams x).slack / 1000
def partBound (x : CouplingParams) (e : CouplingEntry) : Nat := tensionLimit e * (limitParams x).part / 1000

/-- The state a tension gives, in the order of R69. -/
def tensionState (x : CouplingParams) (e : CouplingEntry) (t : Nat) : CouplingState :=
  if tensionLimit e < t then .over
  else if 4 * tensionLimit e < 5 * t then .high
  else if t < slackBound x e then .slack
  else .loaded

/-- SLACK, LOADED, HIGH and OVER. -/
def isTension (x : CouplingState) : Bool :=
  match x with
  | .slack | .loaded | .high | .over => true
  | .silent | .parted | .releasing | .released => false

/-- Holding: a tension state or SILENT (section 4.4). -/
def isHolding (x : CouplingState) : Bool := isTension x || x == .silent

/-- Polled: every state but RELEASING and RELEASED (R73). -/
def isPolled (x : CouplingState) : Bool := x != .releasing && x != .released

/-- The alarm a state carries (R72). -/
def stateAlarm (x : CouplingState) : Option Alarm :=
  match x with
  | .high => some .couplingHigh
  | .over => some .couplingOver
  | .silent => some .couplingSilent
  | .parted => some .couplingParted
  | .slack | .loaded | .releasing | .released => none

/-! ## Headroom (R82) -/

/-- What one coupling counts: its free part of L, or H_silent while its tension is unknown; none outside the
tension states. -/
def couplingHeadroom (x : CouplingParams) (c : Coupling) : Option Nat :=
  if isTension c.state then
    some (match c.tension with
      | none => (limitParams x).hSilent
      | some t => (tensionLimit c.entry - t) * 1000 / tensionLimit c.entry)
  else none

/-- h: the least of the couplings' values, 1000 with none, at most H_silent while one is SILENT. -/
def headroomOf (c : Cmu) : Nat :=
  let h := (c.couplings.filterMap (couplingHeadroom c.params)).foldl min 1000
  if c.couplings.any (·.state == .silent) then min h (limitParams c.params).hSilent else h

/-- h published (R83). -/
def publishHeadroom (s : State) : State := s.onCmu fun c => { c with headroom := headroomOf c }

/-! ## The recompute (R76 to R79) -/

/-- A recompute starts: it takes the list, the states, the change sets and the rebuild mark, and empties them
(R77). -/
def startRecompute (s : State) : State :=
  s.onCmu fun c =>
    { c with
      recompute := some
        { units := c.units.map (·.entry), couplings := c.couplings.map fun x => (x.entry, x.state),
          lossSet := c.lossSet, releaseSet := c.releaseSet, rebuild := c.rebuild },
      lossSet := [], releaseSet := [], rebuild := false }

/-- A request: starts a recompute, or sets the pending mark; one that finds the mark set is coalesced (R76). -/
def requestRecompute (s : State) : State :=
  match s.cmu.recompute with
  | none => startRecompute s
  | some _ =>
    s.onCmu fun c =>
      if c.recomputePending then { c with coalesced := satInc c.coalesced } else { c with recomputePending := true }

/-- Unit A and unit B as used (R65). -/
def endsOf (e : CouplingEntry) : Nat × Nat := (limitNat e.unitA 0 47, limitNat e.unitB 0 47)

/-- The two units a coupling joins, in either direction: both in the list and different (R65, R77). -/
def joinedPair (units : List UnitEntry) (e : CouplingEntry) : Option (Nat × Nat) :=
  let x := endsOf e
  if units.any (·.id == x.1) && units.any (·.id == x.2) && x.1 != x.2 then some x else none

/-- One pass over the joins: each may add one unit to those reached. -/
def reachPass (pairs : List (Nat × Nat)) (reached : List Nat) : List Nat :=
  pairs.foldl (fun r x =>
    if r.contains x.1 then (if r.contains x.2 then r else r ++ [x.2])
    else if r.contains x.2 then r ++ [x.1] else r) reached

def reachFrom (pairs : List (Nat × Nat)) : Nat → List Nat → List Nat
  | 0, r => r
  | n + 1, r => reachFrom pairs n (reachPass pairs r)

/-- The units reachable from unit 0 over couplings; a pass that adds nothing ends the growth, so one pass for
each unit of the list reaches all. -/
def reachable (units : List UnitEntry) (l : List CouplingEntry) : List Nat :=
  reachFrom (l.filterMap (joinedPair units)) units.length [0]

/-- The holding couplings a recompute took. -/
def takenHolding (r : Recompute) : List CouplingEntry := (r.couplings.filter (isHolding ·.2)).map (·.1)

/-- Those together with the couplings of the loss set it took (R78). -/
def takenBeforeLoss (r : Recompute) : List CouplingEntry :=
  (r.couplings.filter fun x => isHolding x.2 || r.lossSet.contains x.1.node).map (·.1)

/-- The breakaway list with a unit: one entry for each unit and at most 47 entries (R79). That a full list takes no further entry
is the model's choice (log entry 77). -/
def withBreakaway (l : List UnitEntry) (u : UnitEntry) : List UnitEntry :=
  if l.any (·.id == u.id) || decide (Config.breakawayDepth ≤ l.length) then l else l ++ [u]

/-- A breakaway: the fault's cause, the list entry, the alarm (R79). -/
def breakaway (u : UnitEntry) (s : State) : State :=
  raiseAlarm .breakaway (.unit u.id) (s.onCmu fun c =>
    { c with causes := { c.causes with breakaway := true }, breakaways := withBreakaway c.breakaways u })

/-- The completion of a recompute (R77): flags and alarms of units attached again, n_att, the check of the
detached units, the headroom; then a pending one starts (R76). A unit that the recompute did not take keeps
its flag (log entry 20). -/
def completeRecompute (s : State) : State :=
  match s.cmu.recompute with
  | none => s
  | some r =>
    let now := reachable r.units (takenHolding r)
    let before := reachable r.units (takenBeforeLoss r)
    let took := fun (u : TowUnit) => r.units.any (·.id == u.entry.id)
    let old := s.cmu.units
    let s1 := s.onCmu fun c =>
      { c with units := c.units.map fun u => if took u then { u with attached := now.contains u.entry.id } else u,
               nAtt := (r.units.filter fun u => u.id != 0 && now.contains u.id).length }
    let s2 := (old.filter fun u => took u && now.contains u.entry.id).foldl
      (fun s u => clearAlarm .breakaway (.unit u.entry.id) s) s1
    let detached := old.filter fun u => took u && u.attached && !now.contains u.entry.id
    let s3 := if r.rebuild then s2
      else (detached.filter fun u => before.contains u.entry.id).foldl (fun s u => breakaway u.entry s) s2
    let s4 := (publishHeadroom s3).onCmu ({ · with recompute := none })
    if s4.cmu.recomputePending then startRecompute (s4.onCmu ({ · with recomputePending := false })) else s4

/-! ## Arms and couplings (R72, R76, R90) -/

def modCoupling (i : Nat) (f : Coupling → Coupling) (s : State) : State :=
  s.onCmu fun c => { c with couplings := c.couplings.modify i f }

/-- A pending arm ends with ARM-EXPIRED or ARM-CANCELLED, naming the arming station (R90). -/
def endArm (o : StatusOutcome) (s : State) : State :=
  match s.cmu.release with
  | .armed st i _ _ => reportStatus (some st) o (byteOf i) (s.onCmu ({ · with release := .idle }))
  | .idle => s
  | .releasing _ _ _ _ _ => s

def cancelArm (s : State) : State := endArm .armCancelled s

/-- The arm cancelled when it names a coupling that leaves SLACK and LOADED. -/
def cancelArmOf (i : Nat) (new : CouplingState) (s : State) : State :=
  match s.cmu.release with
  | .armed _ j _ _ => if i = j && new != .slack && new != .loaded then cancelArm s else s
  | .idle => s
  | .releasing _ _ _ _ _ => s

/-- A node added to a change set, at most once (R76). -/
def addOnce (l : List Nat) (n : Nat) : List Nat := if l.contains n then l else l ++ [n]

/-- The alarms of a change of state, subject the coupler node (R72); RELEASE-FAILED is cleared by entering
RELEASING or RELEASED (R94), after the alarm of the state that is left (log entry 8). -/
def stateAlarms (node : Nat) (old new : CouplingState) (s : State) : State :=
  let s1 := match stateAlarm old with
    | none => s
    | some a => clearAlarm a (.coupler node) s
  let s2 := match stateAlarm new with
    | none => s1
    | some a => raiseAlarm a (.coupler node) s1
  if new = .releasing ∨ new = .released then clearAlarm .releaseFailed (.coupler node) s2 else s2

/-- A coupling that enters RELEASING or RELEASED leaves the poll list of the running round, and so is skipped there (R73,
R92) even when the release fails before its turn; it is in the next list again (R94). -/
def leaveRound (i : Nat) (new : CouplingState) (c : Cmu) : Option Round :=
  if isPolled new then c.round else c.round.map fun r => { r with rest := r.rest.filter (· != i) }

/-- A coupling enters a state: its alarms, the failed-release mark at PARTED (R95), the change sets and the request
of a recompute (R76), the running round (R92), and the arm it may cancel (R90). -/
def enterState (i : Nat) (new : CouplingState) (s : State) : State :=
  match s.cmu.couplings[i]? with
  | none => s
  | some c =>
    if c.state = new then s
    else
      let node := c.entry.node
      let s1 := modCoupling i (fun c => { c with state := new, failed := c.failed && new != .parted }) s
      let s2 := stateAlarms node c.state new s1
      let s3 := s2.onCmu fun u =>
        { u with lossSet := if isHolding c.state && new == .parted then addOnce u.lossSet node else u.lossSet,
                 releaseSet := if isPolled new then u.releaseSet else addOnce u.releaseSet node,
                 round := leaveRound i new u }
      let s4 := if isHolding c.state != isHolding new || new == .released then requestRecompute s3 else s3
      cancelArmOf i new s4

/-! ## Reports and missed polls (R70, R71) -/

/-- A taken REPORT moves its coupling, then its polls, tension and flags are stored (R70). -/
def takeReport (i t : Nat) (brake hook : Bool) (s : State) : State :=
  match s.cmu.couplings[i]? with
  | none => s
  | some c =>
    let x := s.cmu.params
    let wasTight := c.tension.elim false fun old => decide (partBound x c.entry ≤ old)
    let slackNow := decide (t < slackBound x c.entry)
    let s1 :=
      if isHolding c.state then
        (if wasTight && slackNow then enterState i .parted (modCoupling i ({ · with good := 0 }) s)
         else enterState i (tensionState x c.entry t) s)
      else if c.state = .parted then
        (if !slackNow && hook then
          (if c.good + 1 < 3 then modCoupling i ({ · with good := c.good + 1 }) s
           else enterState i (tensionState x c.entry t) (modCoupling i ({ · with good := 0 }) s))
         else modCoupling i ({ · with good := 0 }) s)
      else s
    modCoupling i (fun c => { c with missed := 0, tension := some t, brake := some brake, hook := some hook }) s1

/-- A missed poll (R71). R71 has no row for RELEASED, which a poll outstanding may meet after a RELEASE-DONE: nothing changes
(DESIGN CHOICE, log entry 61). -/
def missedPoll (i : Nat) (s : State) : State :=
  match s.cmu.couplings[i]? with
  | none => s
  | some c =>
    let more := min 255 (c.missed + 1)
    if isTension c.state then
      (let s1 := modCoupling i ({ · with missed := more }) s
       if more < 3 then s1 else enterState i .silent s1)
    else match c.state with
      | .silent => modCoupling i ({ · with missed := more }) s
      | .parted => modCoupling i (fun c => { c with missed := more, good := 0 }) s
      | _ => s

/-! ## Commits (R84, R85) -/

/-- Row and then column (R64). -/
def unitBefore (a b : UnitEntry) : Bool :=
  decide (a.row < b.row) || (a.row == b.row && decide (a.column ≤ b.column))

def insertUnit (u : UnitEntry) : List UnitEntry → List UnitEntry
  | [] => [u]
  | x :: rest => if unitBefore u x then u :: x :: rest else x :: insertUnit u rest

def sortUnits : List UnitEntry → List UnitEntry
  | [] => []
  | u :: rest => insertUnit u (sortUnits rest)

/-- A MAKEUP commit is swapped in (R84). The BREAKAWAY clears go in the order of the old list, then ARM-CANCELLED and the answer: the
order is the model's choice (log entry 76). -/
def swapMakeup (s : State) : State :=
  let table := sortUnits ((activeMakeup s).getD [])
  let old := s.cmu.units
  let gone := old.filter fun u => !table.any (·.id == u.entry.id)
  let s1 := gone.foldl (fun s u => clearAlarm .breakaway (.unit u.entry.id) s) s
  let s2 := s1.onCmu fun c =>
    { c with
      units := table.map fun e => { entry := e, attached := old.any fun u => u.entry.id == e.id && u.attached },
      makeupSwap := false,
      causes := { c.causes with makeupCommit := c.causes.makeupCommit || s.fau.voyage.isOpen } }
  answerCommit .makeup (cancelArm s2)

/-- A coupling of the new table with none of the old one kept (R67, R85). -/
def newCoupling (e : CouplingEntry) : Coupling :=
  { entry := e, state := .slack, tension := none, brake := none, hook := none, missed := 0, good := 0,
    failed := false }

/-- Node, unit A and unit B are equal as used (R65, R85). -/
def sameCoupling (a b : CouplingEntry) : Bool := a.node == b.node && endsOf a == endsOf b

/-- A kept coupling under its new static fields and parameters (R85). A COUPLING commit ends the failed-release mark of a kept
coupling too: the model's reading of R95 beside R85 (log entry 78). -/
def keptCoupling (x : CouplingParams) (e : CouplingEntry) (c : Coupling) : Coupling :=
  let c1 := { c with entry := e, failed := false }
  match c.state with
  | .released => { c1 with state := .slack, tension := none, missed := 0, good := 0 }
  | .slack | .loaded | .high | .over =>
    (match c.tension with
      | none => c1
      | some t => { c1 with state := tensionState x e t })
  | .silent | .parted | .releasing => c1

/-- The alarms of a dropped coupling, subject its node (R85, R94). -/
def dropAlarms (node : Nat) (s : State) : State :=
  [Alarm.couplingHigh, .couplingOver, .couplingSilent, .couplingParted, .releaseFailed].foldl
    (fun s a => clearAlarm a (.coupler node) s) s

/-- The release in progress at a COUPLING swap: a kept coupling takes its new index, a dropped one ends it (R85,
R92). -/
def swapRelease (old new : List Coupling) (s : State) : State :=
  match s.cmu.release with
  | .idle => s
  | .armed _ _ _ _ => s
  | .releasing st i node d k =>
    match old[i]? with
    | none => s
    | some c =>
      match new.findIdx? (fun n => sameCoupling n.entry c.entry) with
      | some j => s.onCmu ({ · with release := .releasing st j node d k })
      | none => reportStatus (some st) .armCancelled (byteOf i) (s.onCmu ({ · with release := .idle }))

/-- A COUPLING commit is swapped in (R85). A RELEASED coupling that it makes SLACK, holding again, requests no recompute beside the one
of R73's second step (log entry 39). The ALARM frames go in the order of the old table, dropped and changed couplings in one
pass, then ARM-CANCELLED, RELEASE-FAILED of a dropped release and the answer: the order is the model's choice (log entry 76). -/
def swapCoupling (s : State) : State :=
  let table := (activeCoupling s).getD { params := CouplingParams.default, couplings := [] }
  let old := s.cmu.couplings
  let new := table.couplings.map fun e =>
    match old.find? (fun c => sameCoupling c.entry e) with
    | none => newCoupling e
    | some c => keptCoupling table.params e c
  let s1 := s.onCmu fun c =>
    { c with params := table.params, couplings := new, couplingSwap := false,
             causes := { c.causes with couplingCommit := c.causes.couplingCommit || s.fau.voyage.isOpen } }
  let s2 := old.foldl (fun s c =>
    match new.find? (fun n => sameCoupling n.entry c.entry) with
    | none => dropAlarms c.entry.node s
    | some n => if n.state = c.state then s else stateAlarms c.entry.node c.state n.state s) s1
  answerCommit .coupling (swapRelease old new (cancelArm s2))

/-! ## The poll round (R73 to R75) -/

/-- The round takes up its list: a coupling that has entered RELEASING or RELEASED is skipped (`leaveRound` takes it from the list of
a running round), one met while K is not RUN or whose POLL is dropped has missed at once, and the first POLL that enters is
outstanding. At the end of the list the round ends and h is published. -/
def runList : List Nat → State → State
  | [], s => publishHeadroom s
  | i :: rest, s =>
    match s.cmu.couplings[i]? with
    | none => runList rest s
    | some c =>
      if isPolled c.state then
        (if s.pck.state = .run then
          let n := s.cmu.serial
          match handPort .k (pollFrame c.entry.node) (.cmuPoll n) (s.onCmu ({ · with serial := n + 1 })) with
          | (s1, true) => s1.onCmu ({ · with round := some { poll := ⟨i, c.entry.node, n⟩, rest := rest } })
          | (s1, false) => runList rest (missedPoll i s1)
         else runList rest (missedPoll i s))
      else runList rest s

/-- The poll list (R73, step 3). -/
def pollList (c : Cmu) : List Nat :=
  (List.range c.couplings.length).filter fun i => (c.couplings[i]?).elim false fun x => isPolled x.state

/-- A round begins (R73). -/
def beginRound (s : State) : State :=
  let due := s.cmu.makeupSwap || s.cmu.couplingSwap || s.cmu.firstRound
  let s1 := if s.cmu.makeupSwap then swapMakeup s else s
  let s2 := if s.cmu.couplingSwap then swapCoupling s1 else s1
  let s3 := if due then requestRecompute (s2.onCmu fun c => { c with rebuild := true, firstRound := false }) else s2
  runList (pollList s3.cmu) s3

/-- A round that has ended with a start marked is followed at once by one round (R75). -/
def settleRound (s : State) : State :=
  match s.cmu.round with
  | some _ => s
  | none => if s.cmu.startMarked then beginRound (s.onCmu ({ · with startMarked := false })) else s

/-- The outstanding poll has ended; the round goes on with its list (R73). -/
def endPoll (r : Round) (s : State) : State :=
  settleRound (runList r.rest (s.onCmu fun c => { c with round := none, answer := none }))

/-- The outstanding poll ends as missed. -/
def pollMissed (s : State) : State :=
  match s.cmu.round with
  | none => s
  | some r => endPoll r (missedPoll r.poll.index (s.onCmu ({ · with answer := none })))

/-- A report of the PCK on a POLL that was not sent and acknowledged (R73). -/
def pollFailed (n : Nat) (s : State) : State :=
  match s.cmu.round with
  | none => s
  | some r => if r.poll.serial = n then pollMissed s else s

/-- A POLL reported sent and acknowledged starts the poll answer timer (R73). -/
def pollSent (n : Nat) (s : State) : State :=
  match s.cmu.round with
  | none => s
  | some r => if r.poll.serial = n then s.onCmu ({ · with answer := timerFor s Config.pollAnswerTime }) else s

/-- A well-formed REPORT (R68). -/
def reportFrame (node : Node) (tension : Nat) (flags : Byte) (s : State) : State :=
  let unsolicited := s.onCmu fun c => { c with unsolicitedReport := satInc c.unsolicitedReport }
  match s.cmu.round with
  | none => unsolicited
  | some r =>
    if r.poll.node = node.toNat then
      let s1 := if 4000 < tension then s.onCmu fun c => { c with tensionClamp := satInc c.tensionClamp } else s
      endPoll r (takeReport r.poll.index (min tension 4000) (flag flags 0) (flag flags 1) s1)
    else unsolicited

/-! ## The release protocol (chapter 5) -/

/-- A refused class 6 frame; an arm pending ends with it (R88). -/
def refuseRelease (st : Option (Fin 4)) (o : StatusOutcome) (id : Byte) (s : State) : State :=
  cancelArm (reportStatus st o id s)

/-- RELEASE-ARM from the station in command, with the checks in the order of R89. -/
def armRelease (st : Fin 4) (id : Byte) (s : State) : State :=
  match s.cmu.release with
  | .armed _ _ _ _ => refuseRelease (some st) .busy id s
  | .releasing _ _ _ _ _ => refuseRelease (some st) .busy id s
  | .idle =>
    if s.csu.allStop.isSome then refuseRelease (some st) .state id s
    else match s.cmu.couplings[id.toNat]? with
      | none => refuseRelease (some st) .state id s
      | some c =>
        if c.state = .slack ∨ c.state = .loaded then
          (if c.entry.locked then refuseRelease (some st) .locked id s
           else
             reportStatus (some st) .armed id
               (modCoupling id.toNat ({ · with failed := false })
                 (s.onCmu ({ · with release := .armed st id.toNat c.entry.node (s.now + Config.armTime) }))))
        else refuseRelease (some st) .state id s

/-- The failure of the release in progress (R94). A return to HIGH or OVER hands COUPLING-HIGH or COUPLING-OVER before RELEASE-FAILED,
as R94 tells them without ordering them: the order is the model's choice (log entry 84). -/
def releaseFails (s : State) : State :=
  match s.cmu.release with
  | .idle => s
  | .armed _ _ _ _ => s
  | .releasing st i node _ _ =>
    let s1 := s.onCmu ({ · with release := .idle })
    match s1.cmu.couplings[i]? with
    | none => s1
    | some c =>
      let back := c.tension.elim .slack (tensionState s1.cmu.params c.entry)
      let s2 := enterState i back
        (modCoupling i (fun c => { c with missed := 0, good := 0, failed := true }) s1)
      reportStatus (some st) .releaseFailed (byteOf i) (raiseAlarm .releaseFailed (.coupler node) s2)

/-- The PCK reports a RELEASE without acknowledge, dropped or flushed (R94). -/
def releaseFrameFailed (n : Nat) (s : State) : State :=
  match s.cmu.release with
  | .idle => s
  | .armed _ _ _ _ => s
  | .releasing _ _ _ _ m => if m = n then releaseFails s else s

/-- The checks of a matching go, in the order of R91 from the coupling's state on. -/
def goRefusal (c : Coupling) (s : State) : Option StatusOutcome :=
  if ¬(c.state = .slack ∨ c.state = .loaded) then some .state
  else if s.pck.state ≠ .run then some .portDown
  else if c.tension.elim true (fun t => decide (releaseThreshold c.entry < t)) then some .tension
  else if (limitParams s.cmu.params).releaseLimit < absInt s.tau.dEff then some .thrust
  else none

/-- The six steps of an accepted go (R91). A RELEASE dropped as it is handed fails after the sixth (log entry
21). -/
def enterReleasing (st : Fin 4) (i : Nat) (c : Coupling) (s : State) : State :=
  let n := s.cmu.serial
  let s1 := s.onCmu fun u =>
    { u with release := .releasing st i c.entry.node (s.now + Config.releaseAnswerTime) n, serial := n + 1 }
  let s2 := enterState i .releasing s1
  match handPort .k (releaseFrame c.entry.node) (.cmuRelease n) s2 with
  | (s3, true) => reportStatus (some st) .releaseSent (byteOf i) s3
  | (s3, false) => releaseFails (reportStatus (some st) .releaseSent (byteOf i) s3)

/-- RELEASE-GO from the station in command (R91). -/
def goRelease (st : Fin 4) (id complement : Byte) (s : State) : State :=
  match s.cmu.release with
  | .idle => refuseRelease (some st) .notArmed id s
  | .releasing _ _ _ _ _ => refuseRelease (some st) .notArmed id s
  | .armed _ i _ _ =>
    if id.toNat = i ∧ complement.toNat = 255 - id.toNat then
      match s.cmu.couplings[i]? with
      | none => refuseRelease (some st) .state id s
      | some c =>
        match goRefusal c s with
        | some o => refuseRelease (some st) o id s
        | none => enterReleasing st i c s
    else refuseRelease (some st) .mismatch id s

/-- A class 6 frame (R88). The detail of a refused frame is its first payload byte, which is the coupling index of a well-formed
one; for a frame without one or of an unknown kind R203 gives no value (DESIGN CHOICE, log entry 63: the first byte, or 255). -/
def classSix (f : Frame) (s : State) : State :=
  let id := f.payload.headD 255
  let sender := findStation s f.node
  match sender with
  | none => refuseRelease none .notInCommand id s
  | some st =>
    if s.csu.inCommand = some st then
      match f.kind.toNat, f.payload with
      | 1, [c] => armRelease st c s
      | 2, [c, x] => goRelease st c x s
      | _, _ => refuseRelease (some st) .format id s
    else refuseRelease (some st) .notInCommand id s

/-- The coupling of a node. -/
def couplingOfNode (c : Cmu) (node : Nat) : Option (Nat × Coupling) :=
  match c.couplings.findIdx? (·.entry.node == node) with
  | none => none
  | some i => c.couplings[i]?.map fun x => (i, x)

/-- A well-formed RELEASE-DONE that R93 does not take (R95). -/
def lateDone (node : Node) (opened : Bool) (s : State) : State :=
  let unsolicited := s.onCmu fun c => { c with unsolicitedReport := satInc c.unsolicitedReport }
  match couplingOfNode s.cmu node.toNat with
  | none => unsolicited
  | some (i, c) =>
    if isHolding c.state && c.failed && opened then
      reportStatus s.csu.inCommand .releaseLate (byteOf i)
        (enterState i .released (modCoupling i ({ · with failed := false }) s))
    else unsolicited

/-- RELEASE-DONE (R93). -/
def releaseDoneFrame (node : Node) (result : Byte) (s : State) : State :=
  if result = 1 ∨ result = 2 then
    match s.cmu.release with
    | .releasing st i n _ _ =>
      if n = node.toNat then
        (if result = 1 then
          reportStatus (some st) .releaseComplete (byteOf i)
            (enterState i .released (s.onCmu ({ · with release := .idle })))
         else releaseFails s)
      else lateDone node (result == 1) s
    | .idle => lateDone node (result == 1) s
    | .armed _ _ _ _ => lateDone node (result == 1) s
  else s.onCmu fun c => { c with malformedReport := satInc c.malformedReport }

/-- A class 4 frame the FSW delivers (R68, R93). R68 names the kinds POLL, RELEASE and above 4; kind 0 is discarded and counted
with them (DESIGN CHOICE, log entry 60). -/
def classFour (f : Frame) (s : State) : State :=
  match f.kind.toNat, f.payload with
  | 2, [a, b, x] => reportFrame f.node (beNat [a, b]) x s
  | 4, [r] => releaseDoneFrame f.node r s
  | _, _ => s.onCmu fun c => { c with malformedReport := satInc c.malformedReport }

/-- K goes ISOLATED: a release in progress fails (R74, R94). -/
def segmentKIsolated (s : State) : State := releaseFails s

/-! ## MAKEUP-CONFIRM (R81) -/

/-- The fault cleared, its list emptied, each BREAKAWAY cleared (R81), in the order in which they were raised: the order is the
model's choice (log entry 8). -/
def confirmMakeup (s : State) : State :=
  clearAllOf .breakaway (s.onCmu fun c =>
    { c with causes := { breakaway := false, makeupCommit := false, couplingCommit := false }, breakaways := [] })

/-! ## Values after a reset (R67, R87) -/

/-- The CMU with the tables of the active banks. With MAKEUP loaded and COUPLING unloaded R65 says that the attached count is 0
and R67 that n_att is the number of listed units; R67 is taken until the first completion (DESIGN CHOICE, log entry 62). -/
def Cmu.afterReset (units : List UnitEntry) (table : Option CouplingTable) (now : Nat) : Cmu :=
  let t := table.getD { params := CouplingParams.default, couplings := [] }
  let list := sortUnits units
  { Cmu.initial with
    units := list.map fun e => { entry := e, attached := true }, params := t.params,
    couplings := t.couplings.map newCoupling,
    roundTimer := some (now + Config.ms (limitParams t.params).period),
    nAtt := (list.filter (·.id != 0)).length,
    headroom := if t.couplings.isEmpty then 1000 else (limitParams t.params).hSilent }

/-! ## Meanings -/

/-- POLL_ROUND_TIMER_EXPIRY (R73): the timer restarts with the T_poll in force at the expiry. -/
def execPollRoundTimerExpiry (s : State) : Host.Outcome State Fault Refusal :=
  .next (whenRunning s fun s => onExpiry s.cmu.roundTimer s fun s =>
    let s1 := s.onCmu ({ · with roundTimer := timerFor s (Config.ms (limitParams s.cmu.params).period) })
    match s1.cmu.round with
    | none => settleRound (beginRound s1)
    | some _ => s1.onCmu fun c => { c with roundOverrun := satInc c.roundOverrun, startMarked := true })

/-- REPORT (R68, R70). -/
def execReport (node : Node) (tension : BitVec 16) (flags : Byte) (s : State) : Host.Outcome State Fault Refusal :=
  .next (whenRunning s (reportFrame node tension.toNat flags))

/-- A malformed class 4 frame (R68, R93). -/
def execMalformedReport (frame : Frame) (s : State) : Host.Outcome State Fault Refusal :=
  .next (whenRunning s (classFour frame))

/-- POLL_ANSWER_TIMER_EXPIRY: the poll is missed (R73). -/
def execPollAnswerTimerExpiry (s : State) : Host.Outcome State Fault Refusal :=
  .next (whenRunning s fun s => onExpiry s.cmu.answer s pollMissed)

/-- RECOMPUTE_COMPLETION (R77). -/
def execRecomputeCompletion (s : State) : Host.Outcome State Fault Refusal :=
  .next (whenRunning s completeRecompute)

/-- RELEASE-ARM (R88, R89). -/
def execReleaseArm (node : Node) (coupling : Byte) (s : State) : Host.Outcome State Fault Refusal :=
  .next (whenRunning s (classSix { cls := 6, node := node, kind := 1, payload := [coupling] }))

/-- RELEASE-GO (R88, R91). -/
def execReleaseGo (node : Node) (coupling complement : Byte) (s : State) : Host.Outcome State Fault Refusal :=
  .next (whenRunning s (classSix { cls := 6, node := node, kind := 2, payload := [coupling, complement] }))

/-- A class 6 frame of another kind or length (R88). -/
def execReleaseFrameUnknownKind (frame : Frame) (s : State) : Host.Outcome State Fault Refusal :=
  .next (whenRunning s (classSix frame))

/-- RELEASE-DONE (R93, R95). -/
def execReleaseDone (node : Node) (result : Byte) (s : State) : Host.Outcome State Fault Refusal :=
  .next (whenRunning s (releaseDoneFrame node result))

/-- ARM_TIMER_EXPIRY (R90). -/
def execArmTimerExpiry (s : State) : Host.Outcome State Fault Refusal :=
  .next (whenRunning s fun s =>
    match s.cmu.release with
    | .armed _ _ _ d => onExpiry (some d) s (endArm .armExpired)
    | .idle => s
    | .releasing _ _ _ _ _ => s)

/-- RELEASE_ANSWER_TIMER_EXPIRY (R94). -/
def execReleaseAnswerTimerExpiry (s : State) : Host.Outcome State Fault Refusal :=
  .next (whenRunning s fun s =>
    match s.cmu.release with
    | .releasing _ _ _ d _ => onExpiry (some d) s releaseFails
    | .idle => s
    | .armed _ _ _ _ => s)

end Sys2Proof.Machine
end

