-- ==== Sys2Proof/Machine/Engines.lean ====
section
/-! DEFINITION. The engine and rudder records: the gear machine, the setpoint slots, availability, fuel caps, the
seed at a join and the ALLOC swap of the PIU (chapter 3). -/

namespace Sys2Proof.Machine

/-- The engine slots X1 and X2, the rudder groups RS, RF, XS, by their indices. -/
def isX (i : Fin 6) : Bool := decide (4 ≤ i.val)
def rs : Fin 3 := 0
def rf : Fin 3 := 1
def xs : Fin 3 := 2

/-- Whether a gear may be engaged: the last feedback rpm at or below the shift rpm limit, and the shift dwell
passed since neutral-since; with feedback rpm none it may not (R51). -/
def engages (e : EngineEntry) (r : EngineRec) (now : Nat) : Bool :=
  match r.feedback with
  | none => false
  | some fb => decide (fb.rpm ≤ e.shiftLimit) && decide (r.neutralSince + Config.ms e.shiftDwell ≤ now)

/-- The gear machine: the commanded gear and neutral-since time it answers to a wanted gear (R51). -/
def gearMachine (e : EngineEntry) (r : EngineRec) (wanted : Gear) (now : Nat) : Gear × Nat :=
  match r.gear, wanted with
  | .neutral, .neutral => (.neutral, r.neutralSince)
  | .neutral, .ahead => (if engages e r now then .ahead else .neutral, r.neutralSince)
  | .neutral, .astern => (if engages e r now then .astern else .neutral, r.neutralSince)
  | .ahead, .ahead => (.ahead, r.neutralSince)
  | .astern, .astern => (.astern, r.neutralSince)
  | .ahead, .neutral => (.neutral, now)
  | .ahead, .astern => (.neutral, now)
  | .astern, .neutral => (.neutral, now)
  | .astern, .ahead => (.neutral, now)

/-- The greatest commanded rpm of a gear. -/
def maxOf (e : EngineEntry) (g : Gear) : Nat :=
  match g with
  | .ahead => e.maxAhead
  | .astern => e.maxAstern
  | .neutral => e.idle

/-- The bound of a fuel cap in a gear (R34). -/
def capBound (e : EngineEntry) (g : Gear) (c : Nat) : Nat := e.idle + (maxOf e g - e.idle) * c / 1000

/-- An rpm lowered to the bound of the record's fuel cap (R34, R59). -/
def underCap (e : EngineEntry) (r : EngineRec) (g : Gear) (rpm : Nat) : Nat :=
  match r.cap with
  | none => rpm
  | some c => min rpm (capBound e g c)

/-- A slot write of gear and rpm; every write sets the fresh flag (R52). -/
def slotWritten (r : EngineRec) (g : Gear × Nat) (rpm : Nat) : EngineRec :=
  { r with gear := g.1, neutralSince := g.2, rpm := rpm, filled := true, fresh := true }

/-- The slot written NEUTRAL at idle through the gear machine (R50). -/
def neutralWritten (e : EngineEntry) (now : Nat) (r : EngineRec) : EngineRec :=
  slotWritten r (gearMachine e r .neutral now) e.idle

/-- An engine's availability changed, with its good-feedback run; leaving AVAILABLE writes the slot NEUTRAL at idle
at once (R50). -/
def setAvail (i : Fin 6) (a : EngineAvail) (run : Nat) (s : State) : State :=
  let e := engineOf s i
  onEngine i (fun r =>
    let r' := { r with avail := a, run := run }
    if r.avail = .available && a != .available then neutralWritten e s.now r' else r') s

/-- A fuel cap written by the FAU; a slot in gear above the bound is lowered to it at once (R36). -/
def writeCap (i : Fin 6) (cap : Option Nat) (s : State) : State :=
  let e := engineOf s i
  onEngine i (fun r =>
    let r' := { r with cap := cap }
    match cap with
    | none => r'
    | some c =>
      if r.filled && r.gear != .neutral && decide (capBound e r.gear c < r.rpm) then
        { r' with rpm := capBound e r.gear c, fresh := true }
      else r') s

/-- The lineup tank copied into a record (R109). -/
def writeLineup (i : Fin 6) (tank : Fin 8) (s : State) : State := onEngine i ({ · with lineup := tank }) s

/-! ## Availability (R48) -/

/-- A taken ENGINE-FB moves the availability, by the shutdown flag and the gear reported (R48). -/
def moveAvail (i : Fin 6) (shutdown neutral : Bool) (s : State) : State :=
  let r := s.piu.engines[i]
  let rejoin := if neutral then 1 else 0
  match r.avail with
  | .unconfigured => s
  | .lost =>
    if shutdown then
      raiseAlarm .engineFault (.engine i) (clearAlarm .engineLost (.engine i) (setAvail i .faulted 0 s))
    else clearAlarm .engineLost (.engine i) (setAvail i .rejoining rejoin s)
  | .faulted =>
    if shutdown then s
    else clearAlarm .engineFault (.engine i) (setAvail i .rejoining rejoin s)
  | .rejoining =>
    if shutdown then raiseAlarm .engineFault (.engine i) (setAvail i .faulted 0 s)
    else if neutral then
      (if r.run + 1 < 3 then setAvail i .rejoining (r.run + 1) s else setAvail i .available 3 s)
    else setAvail i .rejoining 0 s
  | .available =>
    if shutdown then raiseAlarm .engineFault (.engine i) (setAvail i .faulted 0 s) else s

/-- A record that becomes UNCONFIGURED: its slot emptied, its timer stopped, its alarms cleared (R46). R46 empties the slot, and the
commanded gear and rpm that READ-RECORD shows have no value for none: the record keeps the last ones (DESIGN CHOICE, log entry
89). -/
def unconfigureEngine (i : Fin 6) (s : State) : State :=
  let s1 := onEngine i (fun r =>
    { r with retiring := none, avail := .unconfigured, filled := false, fresh := false, timer := none }) s
  clearAlarm .engineWarning (.engine i) (clearAlarm .engineFault (.engine i) (clearAlarm .engineLost (.engine i) s1))

/-- The record a node's ENGINE-FB goes to: the first configured or retiring one with that feedback node (R44). -/
def engineByFeedback (s : State) (node : Node) : Option (Fin 6) :=
  (List.finRange 6).find? fun i =>
    ((engineEntry s i).configured || (s.piu.engines[i].retiring).isSome) &&
      (engineOf s i).fbNode == node.toNat

def rudderByFeedback (s : State) (node : Node) : Option (Fin 3) :=
  (List.finRange 3).find? fun i => (rudderOf s i).configured && (rudderOf s i).fbNode == node.toNat

/-! ## Rudder slots and deviation (R62) -/

/-- The deviation of a group evaluated with the latest angles: above 50 it starts a stopped deviation timer, at 50 or
below it stops it and clears RUDDER-FAULT. No evaluation while a value is none or the record is LOST. -/
def evalDeviation (i : Fin 3) (s : State) : State :=
  let r := s.piu.rudders[i]
  match r.avail, r.angle, r.feedback with
  | .available, some a, some fb =>
    if 50 < absInt (a - fb.angle) then
      (if r.deviation = none then onRudder i ({ · with deviation := timerFor s Config.deviationTime }) s else s)
    else clearAlarm .rudderFault (.rudder i) (onRudder i ({ · with deviation := none }) s)
  | _, _, _ => s

/-- A rudder slot written (R52), with its deviation evaluated. -/
def writeAngle (i : Fin 3) (angle : Int) (s : State) : State :=
  evalDeviation i (onRudder i (fun r => { r with angle := some angle, fresh := true }) s)

/-- An angle moved toward the wanted one by at most the slew (R39). -/
def moveAngle (prev wanted : Int) (slew : Nat) : Int :=
  if prev < wanted then min (prev + slew) wanted else max (prev - slew) wanted

/-- The angle a group moves from: its slot, or its last feedback, or 0 (R39). -/
def startAngle (r : RudderRec) : Int := r.angle.getD (r.feedback.elim 0 (·.angle))

/-- The record of a group becomes LOST, its deviation timer stopped (R61, R62). -/
def rudderLost (i : Fin 3) (s : State) : State :=
  onRudder i (fun r => { r with avail := .lost, deviation := none }) s

/-! ## Joins (R56, R57) -/

/-- X1 or X2 made LOST when the lead leaves JOINED: no ENGINE-LOST, ENGINE-FAULT cleared (R56). -/
def loseX (i : Fin 6) (s : State) : State :=
  if (engineEntry s i).configured then
    let s1 := if s.piu.engines[i].avail = .faulted then clearAlarm .engineFault (.engine i) s else s
    setAvail i .lost 0 s1
  else s

/-- X1 goes first: the order of the two ENGINE-FAULT clears is the model's choice (log entry 84). -/
def loseXEngines (s : State) : State := loseX 5 (loseX 4 s)

/-- A reported rpm limited to the range of its gear (R57, R59). -/
def rpmInGear (e : EngineEntry) (g : Gear) (rpm : Nat) : Nat := limitNat rpm e.idle (maxOf e g)

/-- The seed of one X record at a join (R57). -/
def seedX (i : Fin 6) (s : State) : State :=
  let e := engineEntry s i
  if e.configured then
    onEngine i (fun r =>
      match r.feedback with
      | none => neutralWritten e s.now r
      | some fb =>
        if under s fb.time Config.feedbackTime && !fb.shutdown then
          let since := if fb.gear = .neutral then s.now else r.neutralSince
          slotWritten { r with avail := .available, run := 3 } (fb.gear, since)
            (underCap e r fb.gear (rpmInGear e fb.gear fb.rpm))
        else neutralWritten e s.now r) s
  else s

def seedXEngines (s : State) : State := seedX 5 (seedX 4 s)

/-! ## The ALLOC swap at the PIU (R46) -/

/-- A record made LOST by a commit: run 0, the feedback timer restarted, ENGINE-FAULT cleared, no ENGINE-LOST. -/
def loseByCommit (i : Fin 6) (s : State) : State :=
  let s1 := if s.piu.engines[i].avail = .faulted then clearAlarm .engineFault (.engine i) s else s
  onEngine i ({ · with timer := timerFor s Config.feedbackTime }) (setAvail i .lost 0 s1)

/-- One engine record at the swap, from its old entry as used; the new table is in force. A retiring record holds that entry, which
READ-RECORD shows (log entry 73). The slot stays as it is: on a JOINED helper the rpm of a mapped engine meets the new idle and
maximum only at the next frame from H (log entry 72). -/
def swapEngine (old : EngineEntry) (i : Fin 6) (s : State) : State :=
  let new := engineEntry s i
  match old.configured, new.configured with
  | true, true => if old.fbNode = new.fbNode then s else loseByCommit i s
  | true, false => onEngine i ({ · with retiring := some old }) s
  | false, true => loseByCommit i (onEngine i ({ · with retiring := none }) s)
  | false, false => s

/-- One rudder record at the swap; one that leaves the table clears RUDDER-LOST before RUDDER-FAULT, the model's choice (log entry
56). -/
def swapRudder (old : RudderEntry) (i : Fin 3) (s : State) : State :=
  let new := rudderOf s i
  match old.configured, new.configured with
  | true, true =>
    if old.fbNode = new.fbNode then s else rudderLost i s
  | true, false =>
    clearAlarm .rudderFault (.rudder i) (clearAlarm .rudderLost (.rudder i)
      (onRudder i (fun r => { r with avail := .unconfigured, angle := none, fresh := false, timer := none,
                                      deviation := none }) s))
  | false, true =>
    onRudder i (fun r => { r with avail := .lost, timer := timerFor s Config.feedbackTime, deviation := none }) s
  | false, false => s

/-- Every record at the swap, from the old table as used. R46 does not order the ALARM clears of the records: they go from E1 to X2
and then from RS to XS, the model's choice (log entry 56). -/
def piuSwap (old : Option AllocTable) (s : State) : State :=
  let s1 := (List.finRange 6).foldl (fun s i => swapEngine (old.elim noEngine (·.engines[i])) i s) s
  (List.finRange 3).foldl (fun s i => swapRudder (old.elim noRudder (·.rudders[i])) i s) s1

end Sys2Proof.Machine
end

