-- ==== Sys2Proof/Machine/Station.lean ====
section
/-! DEFINITION. The command station unit: station records, targets, staleness, transfers, all-stop, the helper join, and
the meanings of its commands (chapter 1). -/

namespace Sys2Proof.Machine

/-! ## Targets and staleness (R5, R6) -/

/-- An accepted HELM younger than 300 ms. -/
def helmFresh (s : State) (i : Fin 4) : Bool :=
  s.csu.stations[i].last.elim false fun h => under s h.time Config.freshTime

/-- The targets formed from the station in command (R5). The last T of an AUTOPILOT that has sent none is free (log
entry 10). -/
def formTargets (s : State) : State :=
  match s.csu.inCommand with
  | none => s.onCsu fun c => { c with dStar := 0, tStar := 0 }
  | some i =>
    if s.csu.allStop.isSome then s.onCsu fun c => { c with dStar := 0, tStar := 0 }
    else match (stationOf s i).kind, s.csu.stations[i].last with
      | .manual, some h => s.onCsu fun c => { c with dStar := h.d, tStar := h.t }
      | .manual, none => s
      | .autopilot, some h => s.onCsu fun c => { c with dStar := c.dAp, tStar := clampSym h.t (turnLimitOf s) }
      | .autopilot, none =>
        (s.onCsu fun c =>
          { c with dStar := c.dAp, tStar := clampSym (Config.freeTurn s.freeCount).toInt (turnLimitOf s) }).tickFree

/-- The phase returns to FRESH (R6). -/
def endStale (s : State) : State :=
  clearAllOf .commandStale (s.onCsu fun c => { c with phase := .fresh, staleHold := none })

/-! ## Presence (R3) -/

/-- The helm values of a station become none. -/
def forgetHelm (r : Station) : Station := { r with last := none, freshness := none }

/-- A class 1 frame from a configured station renews its presence (R3). R3 and R14 name no outcome for a silent station in
command that is heard again: it is reported PRESENT-ON (DESIGN CHOICE, log entry 52). -/
def renewPresence (i : Fin 4) (s : State) : State :=
  let s1 := onStation i ({ · with presence := timerFor s Config.presenceTime }) s
  let r := s1.csu.stations[i]
  if r.state = .absent then report i .presentOn (onStation i ({ · with state := .present }) s1)
  else if r.silent then report i .presentOn (onStation i ({ · with silent := false }) s1)
  else s1

/-- The pending request is over; its station takes the state given. -/
def endRequest (r : Fin 4) (state : StationState) (s : State) : State :=
  onStation r ({ · with state := state }) (s.onCsu fun c => { c with request := none, transfer := none })

/-- A station's presence timer has expired (R3, R9). A REQUESTING station that goes ABSENT is reported by CANCELLED alone, with no
ABSENT-ON (DESIGN CHOICE, log entry 53). -/
def presenceLost (i : Fin 4) (s : State) : State :=
  let s1 := onStation i ({ · with presence := none }) s
  match s.csu.stations[i].state with
  | .absent => s1
  | .present => report i .absentOn (onStation i (fun r => forgetHelm { r with state := .absent }) s1)
  | .requesting => report i .cancelled (onStation i forgetHelm (endRequest i .absent s1))
  | .inCommand => report i .silent (onStation i ({ · with silent := true }) s1)

def countUnknown (s : State) : State := s.onCsu fun c => { c with unknownNode := satInc c.unknownNode }

/-! ## HELM (R4) -/

def demandMax : Int := 1000

def acceptHelm (i : Fin 4) (d t : Int) (seq : Nat) (s : State) : State :=
  let s1 := onStation i (fun r =>
    { r with last := some { d := d, t := t, seq := seq, time := s.now }, freshness := timerFor s Config.freshTime }) s
  if s1.csu.inCommand = some i then formTargets (endStale s1) else s1

def stationHelm (i : Fin 4) (d t : Int) (seq : Nat) (s : State) : State :=
  let d1 := clampSym d demandMax
  let t1 := clampSym t demandMax
  let s1 := if d1 = d ∧ t1 = t then s else s.onCsu fun c => { c with helmClamp := satInc c.helmClamp }
  if s1.csu.stations[i].last.elim false (·.seq == seq) then
    s1.onCsu fun c => { c with helmRepeat := satInc c.helmRepeat }
  else acceptHelm i d1 t1 seq s1

/-! ## Transfers (R7 to R11) -/

/-- The handle match (R7). -/
def handleMatch (s : State) (i : Fin 4) : Bool :=
  match s.csu.stations[i].last with
  | none => false
  | some h =>
    helmFresh s i &&
      (match (stationOf s i).kind with
        | .manual => decide (absInt (h.d - s.tau.dEff) ≤ 50) && decide (absInt (h.t - s.tau.tEff) ≤ 100)
        | .autopilot => decide (absInt (clampSym h.t (turnLimitOf s) - s.tau.tEff) ≤ 100))

/-- The station that was in command becomes PRESENT, or ABSENT when its presence timer has expired (R11). -/
def leaveCommand (o : Fin 4) (s : State) : State :=
  onStation o (fun r =>
    match r.presence with
    | none => forgetHelm { r with state := .absent, silent := false }
    | some _ => { r with state := .present, silent := false }) s

/-- The outcome that reports the old holder's change of state (log entry 22). -/
def leaveOutcome (r : Station) : StatusOutcome := if r.presence.isSome then .presentOn else .absentOn

/-- A grant (R11); `given` when a GIVE made it. Out of HOLD or ZERO the ALARM frame that clears COMMAND-STALE is handed before
GRANTED: the order of these frames is the model's choice (log entry 8). -/
def grant (i : Fin 4) (given : Bool) (s : State) : State :=
  let old := s.csu.inCommand
  let s1 := match old with
    | none => s
    | some o => leaveCommand o s
  let s2 := onStation i (fun r =>
    { r with state := .inCommand, silent := false,
             freshness := if helmFresh s i then r.freshness else timerFor s Config.freshTime }) s1
  let auto := (stationOf s i).kind == .autopilot
  let s3 := endStale (s2.onCsu fun c =>
    { c with inCommand := some i, request := none, transfer := none, dAp := if auto then c.dStar else c.dAp })
  let s4 := report i .granted s3
  let s5 := match old with
    | none => s4
    | some o => report o (if given then .given else leaveOutcome s.csu.stations[o]) s4
  cancelArm s5

/-- Command is stale: HOLD or ZERO. -/
def isStale (s : State) : Bool := s.csu.phase != .fresh

/-- TAKE by the rows of R8. -/
def stationTake (i : Fin 4) (s : State) : State :=
  let manual := (stationOf s i).kind == .manual
  match s.csu.stations[i].state with
  | .inCommand => report i .state s
  | .requesting =>
    if manual && isStale s then
      (if handleMatch s i then grant i false s else report i .mismatch (endRequest i .present s))
    else report i .requesting s
  | .present | .absent =>
    if s.csu.request.isSome then report i .busy s
    else if manual && (s.csu.inCommand.isNone || isStale s) then
      (if handleMatch s i then grant i false s else report i .mismatch s)
    else if s.csu.inCommand.isNone then report i .notPermitted s
    else report i .requesting (onStation i ({ · with state := .requesting })
      (s.onCsu fun c => { c with request := some i, transfer := timerFor s Config.transferTime }))

/-- GIVE (R9). -/
def stationGive (i : Fin 4) (s : State) : State :=
  if s.csu.inCommand = some i then
    match s.csu.request with
    | none => report i .state s
    | some r =>
      if handleMatch s r then grant r true s else report r .mismatch (endRequest r .present s)
  else report i .notInCommand s

/-- TAKE-FORCE (R10). Where another station's request is pending, its SUPERSEDED is handed before the frames of the grant, so that it
names the old holder as the station in command (log entry 8). -/
def stationForce (i : Fin 4) (s : State) : State :=
  let e := stationOf s i
  if s.csu.inCommand = some i then report i .state s
  else if e.force && e.kind == .manual then
    (match s.csu.request with
      | none => grant i false s
      | some r => if r = i then grant i false s else grant i false (report r .superseded (endRequest r .present s)))
  else report i .notPermitted s

/-! ## Joins (R15 to R19) -/

/-- A class 7 frame of the CSU to the link. -/
def sendJoin (f : Frame) (s : State) : State := (handLink f .csu s).1

/-- A part leaves JOINED: LOCAL, the X engines of a lead LOST, HELPER-UNJOINED raised, UNJOINED reported (R19, R56). The ENGINE-FAULT
clears of the X records are handed before the raise of HELPER-UNJOINED: the order is the model's choice (log entry 84). -/
def leaveJoined (detail : Byte) (s : State) : State :=
  let s1 := s.onCsu fun c => { c with join := .localMode, setpointLoss := none, hold := none }
  let s2 := match s1.role with
    | .lead => loseXEngines s1
    | .helper => s1
  reportStatus s2.csu.inCommand .unjoined detail (raiseAlarm .helperUnjoined .none s2)

/-- The link goes DOWN or to ROLE-MISMATCH (R19); no reason was sent, so the detail is 255 (log entry 23). -/
def joinLinkLost (s : State) : State := if isJoined s then leaveJoined 255 s else s

/-- A helper in OFFERING returns to LOCAL. -/
def endOffer (s : State) : State := s.onCsu fun c => { c with join := .localMode, joinAnswer := none }

/-- JOIN-GIVE (R15). -/
def stationJoinGive (i : Fin 4) (s : State) : State :=
  match s.role with
  | .lead => report i .notPermitted s
  | .helper =>
    if s.csu.inCommand = some i then
      (if s.csu.join = .localMode ∧ s.csu.allStop = none ∧ s.hlc.state = .up ∧ classOpen s 7 = true then
        report i .joinPending
          ((sendJoin joinOfferFrame s).onCsu fun c =>
            { c with join := .offering, joinAnswer := timerFor s Config.joinAnswerTime })
       else report i .state s)
    else report i .notInCommand s

/-- TAKE-BACK (R19). -/
def stationTakeBack (i : Fin 4) (s : State) : State :=
  match s.role with
  | .lead => report i .notPermitted s
  | .helper =>
    if s.csu.inCommand = some i then
      (if isJoined s then leaveJoined (reasonByte .takeBack) (sendJoin (unjoinFrame .takeBack) s)
       else report i .state s)
    else report i .notInCommand s

/-- One of X1, X2 and XS is configured. -/
def anyXConfigured (s : State) : Bool :=
  (engineEntry s 4).configured || (engineEntry s 5).configured || (rudderOf s 2).configured

/-- The first failing reason of an offer (R16). -/
def offerRefusal (s : State) : Option UnjoinReason :=
  if s.csu.inCommand.isNone then some .noCommand
  else if !anyXConfigured s then some .noXSlot
  else if classOpen s 7 && classOpen s 2 then none
  else some .queueClosed

def countIgnored (s : State) : State := s.onCsu fun c => { c with class7Ignored := satInc c.class7Ignored }

/-- JOIN-OFFER (R16). R14 does not say which station the report of a join names: the one in command or none (DESIGN CHOICE, log
entry 54; the same in `takeAccept`, `takeUnjoin`, `stopJoin` and `execJoinAnswerTimerExpiry`). -/
def takeOffer (s : State) : State :=
  match s.role with
  | .helper => countIgnored s
  | .lead =>
    match offerRefusal s with
    | none =>
      let s1 := sendJoin joinAcceptFrame (seedXEngines s)
      let s2 := clearAlarm .helperUnjoined .none (s1.onCsu ({ · with join := .joined }))
      if isJoined s then s2 else reportStatus s2.csu.inCommand .joined 255 s2
    | some r =>
      let s1 := if isJoined s then leaveJoined (reasonByte r) s else s
      sendJoin (unjoinFrame r) s1

/-- JOIN-ACCEPT (R17); the station named is log entry 54's. -/
def takeAccept (s : State) : State :=
  if s.role = .helper ∧ s.csu.join = .offering then
    let s1 := s.onCsu fun c =>
      { c with join := .joined, joinAnswer := none, setpointLoss := timerFor s Config.setpointLossTime }
    reportStatus s1.csu.inCommand .joined 255 (clearAlarm .helperUnjoined .none s1)
  else countIgnored s

/-- UNJOIN (R17, R19); the station named is log entry 54's. -/
def takeUnjoin (reason : Byte) (s : State) : State :=
  match s.csu.join with
  | .localMode => countIgnored s
  | .offering => reportStatus s.csu.inCommand .unjoined reason (endOffer s)
  | .joined | .holding => leaveJoined reason s

/-- A setpoint frame taken from H (R18). -/
def setpointTaken (s : State) : State :=
  if isJoined s then
    s.onCsu fun c =>
      { c with join := .joined, hold := none, setpointLoss := timerFor s Config.setpointLossTime }
  else s

/-! ## All-stop (R12, R13) -/

def stopStation (c : StopCause) : Option (Fin 4) :=
  match c with
  | .busBreak => none
  | .station i => some i

/-- All-stop ends a helper's join or offer; the station named is log entry 54's. -/
def stopJoin (s : State) : State :=
  match s.role with
  | .lead => s
  | .helper =>
    match s.csu.join with
    | .localMode => s
    | .offering =>
      reportStatus s.csu.inCommand .unjoined (reasonByte .allStop) (sendJoin (unjoinFrame .allStop) (endOffer s))
    | .joined | .holding => leaveJoined (reasonByte .allStop) (sendJoin (unjoinFrame .allStop) s)

/-- A raise of all-stop; a further one changes nothing. ARM-CANCELLED, ALL-STOP-ON and UNJOINED are handed in this order, the
model's choice (log entry 8). -/
def raiseAllStop (cause : StopCause) (s : State) : State :=
  match s.csu.allStop with
  | some _ => s
  | none =>
    let s1 := s.onCsu fun c => { c with allStop := some cause, dStar := 0, tStar := 0, dAp := 0 }
    stopJoin (reportStatus (stopStation cause) .allStopOn 255 (cancelArm s1))

/-- A class 0 ALL-STOP frame (R3, R12). -/
def allStopFrame (node : Node) (s : State) : State :=
  match findStation s node with
  | none => countUnknown s
  | some i => if s.csu.stations[i].state = .absent then countUnknown s else raiseAllStop (.station i) s

/-- The check of a clear (R13). -/
def clearPasses (s : State) (i : Fin 4) : Bool :=
  match (stationOf s i).kind with
  | .autopilot => true
  | .manual => helmFresh s i && (s.csu.stations[i].last.elim false fun h => decide (absInt h.d ≤ 50))

/-- ALL-STOP-CLEAR (R13): the targets are formed at once, in HOLD too, but stay 0 in ZERO
(R6, log entry 24). -/
def stationClear (i : Fin 4) (s : State) : State :=
  if s.csu.inCommand = some i then
    (if s.csu.allStop = none then report i .state s
     else if clearPasses s i then
      (let s1 := s.onCsu ({ · with allStop := none })
       report i .allStopOff (if s1.csu.phase = .zero then s1 else formTargets s1))
     else report i .mismatch s)
  else report i .notInCommand s

/-! ## Frames (R3) -/

/-- A class 1 frame from a node: counted when it is no configured station's, acted on after the presence is renewed
otherwise. -/
def stationFrame (node : Node) (k : Fin 4 → State → State) (s : State) : State :=
  match findStation s node with
  | none => countUnknown s
  | some i => k i (renewPresence i s)

def helmFrame (node : Node) (d t : Int) (seq : Nat) (s : State) : State :=
  stationFrame node (fun i => stationHelm i d t seq) s

/-- A class 0 frame the FSW delivers; an ALL-STOP is taken whatever its payload (log entry 15). -/
def classZero (f : Frame) (s : State) : State := if f.kind = 1 then allStopFrame f.node s else countUnknown s

/-- A class 1 frame the FSW delivers. -/
def classOne (f : Frame) (s : State) : State :=
  match f.kind.toNat with
  | 1 =>
    (match f.payload with
      | [a, b, c, d, x] => helmFrame f.node (signed16 (beNat [a, b])) (signed16 (beNat [c, d])) x.toNat s
      | _ => countUnknown s)
  | 2 => stationFrame f.node stationTake s
  | 3 => stationFrame f.node stationGive s
  | 4 => stationFrame f.node stationForce s
  | 5 => stationFrame f.node stationTakeBack s
  | 6 => stationFrame f.node stationJoinGive s
  | 7 => stationFrame f.node stationClear s
  | _ => countUnknown s

/-- A class 7 frame the FSW delivers; one of another kind or length is discarded and counted (log entry 25). -/
def classSeven (f : Frame) (s : State) : State :=
  match f.kind.toNat, f.payload with
  | 1, [] => takeOffer s
  | 2, [] => takeAccept s
  | 3, [r] => takeUnjoin r s
  | _, _ => countIgnored s

/-! ## The ALLOC swap at the CSU (R1) -/

/-- A station whose entry was replaced. The ARM-CANCELLED of a removed holder stands right after its REMOVED and before
the frames of later stations, and the ALARM frame that clears COMMAND-STALE where the holder is removed stands before the CANCELLED of
a requester and the holder's REMOVED (log entry 56). -/
def removeStation (i : Fin 4) (s : State) : State :=
  let r := s.csu.stations[i]
  let s1 := onStation i (fun _ => Station.initial) s
  match r.state with
  | .absent => s1
  | .present => report i .removed s1
  | .requesting =>
    report i .removed (report i .cancelled (s1.onCsu fun c => { c with request := none, transfer := none }))
  | .inCommand =>
    let s2 := endStale (s1.onCsu fun c => { c with inCommand := none, dStar := 0, tStar := 0 })
    let s3 := match s2.csu.request with
      | none => s2
      | some q => report q .cancelled (endRequest q .present s2)
    cancelArm (report i .removed s3)

/-- One entry at the swap, from its old entry as used. -/
def swapStation (old : StationEntry) (i : Fin 4) (s : State) : State :=
  let new := stationOf s i
  if old.configured && new.configured && old.node == new.node then
    (if s.csu.inCommand = some i ∧ old.kind = .manual ∧ new.kind = .autopilot then
      s.onCsu fun c => { c with dAp := c.dStar }
     else s)
  else removeStation i s

def csuSwap (old : Option AllocTable) (s : State) : State :=
  (List.finRange 4).foldl (fun s i => swapStation (old.elim noStation (·.stations[i])) i s) s

/-! ## Meanings -/

/-- ALL_STOP (R3, R12). -/
def execAllStop (node : Node) (s : State) : Host.Outcome State Fault Refusal :=
  .next (whenRunning s (allStopFrame node))

/-- HELM (R4). -/
def execHelm (node : Node) (d t : BitVec 16) (seq : Byte) (s : State) : Host.Outcome State Fault Refusal :=
  .next (whenRunning s (helmFrame node d.toInt t.toInt seq.toNat))

/-- TAKE (R8). -/
def execTake (node : Node) (s : State) : Host.Outcome State Fault Refusal :=
  .next (whenRunning s (stationFrame node stationTake))

/-- GIVE (R9). -/
def execGive (node : Node) (s : State) : Host.Outcome State Fault Refusal :=
  .next (whenRunning s (stationFrame node stationGive))

/-- TAKE-FORCE (R10). -/
def execTakeForce (node : Node) (s : State) : Host.Outcome State Fault Refusal :=
  .next (whenRunning s (stationFrame node stationForce))

/-- TAKE-BACK (R19). -/
def execTakeBack (node : Node) (s : State) : Host.Outcome State Fault Refusal :=
  .next (whenRunning s (stationFrame node stationTakeBack))

/-- JOIN-GIVE (R15). -/
def execJoinGive (node : Node) (s : State) : Host.Outcome State Fault Refusal :=
  .next (whenRunning s (stationFrame node stationJoinGive))

/-- ALL-STOP-CLEAR (R13). -/
def execAllStopClear (node : Node) (s : State) : Host.Outcome State Fault Refusal :=
  .next (whenRunning s (stationFrame node stationClear))

/-- A class 0 or class 1 frame the CSU classifies as from an unknown node (R3). -/
def execUnknownNodeFrame (frame : Frame) (s : State) : Host.Outcome State Fault Refusal :=
  .next (whenRunning s fun s => if frame.cls = 0 then classZero frame s else classOne frame s)

/-- JOIN-OFFER (R16). -/
def execJoinOffer (s : State) : Host.Outcome State Fault Refusal := .next (whenRunning s takeOffer)

/-- JOIN-ACCEPT (R17). -/
def execJoinAccept (s : State) : Host.Outcome State Fault Refusal := .next (whenRunning s takeAccept)

/-- UNJOIN (R17, R19). -/
def execUnjoin (reason : Byte) (s : State) : Host.Outcome State Fault Refusal :=
  .next (whenRunning s (takeUnjoin reason))

/-- PRESENCE_TIMER_EXPIRY (R3). -/
def execPresenceTimerExpiry (station : Fin 4) (s : State) : Host.Outcome State Fault Refusal :=
  .next (whenRunning s fun s => onExpiry s.csu.stations[station].presence s (presenceLost station))

/-- FRESHNESS_TIMER_EXPIRY: the command of the station in command is stale (R6). -/
def execFreshnessTimerExpiry (station : Fin 4) (s : State) : Host.Outcome State Fault Refusal :=
  .next (whenRunning s fun s => onExpiry s.csu.stations[station].freshness s fun s =>
    let s1 := onStation station ({ · with freshness := none }) s
    if s1.csu.inCommand = some station ∧ s1.csu.phase = .fresh then
      raiseAlarm .commandStale (.station station)
        (s1.onCsu fun c => { c with phase := .hold, staleHold := timerFor s1 Config.staleHoldTime })
    else s1)

/-- STALE_HOLD_TIMER_EXPIRY: ZERO (R6). -/
def execStaleHoldTimerExpiry (s : State) : Host.Outcome State Fault Refusal :=
  .next (whenRunning s fun s => onExpiry s.csu.staleHold s fun s =>
    s.onCsu fun c => { c with staleHold := none, phase := .zero, dStar := 0, tStar := 0, dAp := 0 })

/-- TRANSFER_TIMER_EXPIRY: the request ends TIMEOUT (R9). -/
def execTransferTimerExpiry (s : State) : Host.Outcome State Fault Refusal :=
  .next (whenRunning s fun s => onExpiry s.csu.transfer s fun s =>
    match s.csu.request with
    | none => s.onCsu ({ · with transfer := none })
    | some r => report r .timeout (endRequest r .present s))

/-- JOIN_ANSWER_TIMER_EXPIRY (R17); the station named is log entry 54's. -/
def execJoinAnswerTimerExpiry (s : State) : Host.Outcome State Fault Refusal :=
  .next (whenRunning s fun s => onExpiry s.csu.joinAnswer s fun s =>
    let s1 := sendJoin (unjoinFrame .timeout) (endOffer s)
    reportStatus s1.csu.inCommand .timeout 255 s1)

/-- SETPOINT_LOSS_TIMER_EXPIRY: HOLDING (R18). -/
def execSetpointLossTimerExpiry (s : State) : Host.Outcome State Fault Refusal :=
  .next (whenRunning s fun s => onExpiry s.csu.setpointLoss s fun s =>
    s.onCsu fun c => { c with join := .holding, setpointLoss := none, hold := timerFor s Config.holdTime })

/-- HOLD_TIMER_EXPIRY (R18, R19). -/
def execHoldTimerExpiry (s : State) : Host.Outcome State Fault Refusal :=
  .next (whenRunning s fun s => onExpiry s.csu.hold s fun s =>
    leaveJoined (reasonByte .holdExpired) (sendJoin (unjoinFrame .holdExpired) s))

end Sys2Proof.Machine
end

