-- ==== Sys2Proof/Machine/Allocation.lean ====
section
/-! DEFINITION. The thrust allocation unit: the ALLOC swap and the allocation cycle (chapter 2). -/

namespace Sys2Proof.Machine

/-! ## Stages A and B (R25 to R28) -/

/-- The target clamp (R25). -/
def targetClamp (s : State) (t : AllocTable) : Int × Int :=
  if s.csu.allStop.isSome then (0, 0)
  else if makeupFault s then (clampSym s.csu.dStar t.cF, s.csu.tStar)
  else (s.csu.dStar, s.csu.tStar)

/-- Band k: the lowest of 0, 1 and 2 whose upper bound is at least n_att, and 3 when none is (R23). -/
def bandOf (t : AllocTable) (n : Nat) : Fin 4 :=
  if n ≤ t.bandUpper[0] then 0 else if n ≤ t.bandUpper[1] then 1 else if n ≤ t.bandUpper[2] then 2 else 3

/-- The rates of a cycle (R26). -/
structure Rates where
  ahead : Nat
  astern : Nat
  down : Nat
  deriving DecidableEq, Repr

def ratesOf (s : State) (t : AllocTable) : Rates :=
  let k := bandOf t s.cmu.nAtt
  { ahead := t.rAhead[k], astern := max t.deltaMin (t.rAstern[k] * s.cmu.headroom / 1000),
    down := if s.csu.allStop.isSome then t.rStop else t.rDown }

/-- The step of D_eff toward D_t, by the rows of R27. -/
def stepThrust (r : Rates) (d target : Int) : Int :=
  if target = d then d
  else if 0 < d ∧ target < d then max (max (d - r.down) target) 0
  else if d < 0 ∧ d < target then min (min (d + r.down) target) 0
  else if d < target then min (d + r.ahead) target
  else max (d - r.astern) target

/-- The step of T_eff toward T_t (R28). -/
def stepTurn (rate : Nat) (x target : Int) : Int :=
  if x < target then min (x + rate) target else if target < x then max (x - rate) target else x

/-! ## Stage C (R29, R30) -/

/-- A configured engine that counts in W_av. -/
def countsAvailable (s : State) (t : AllocTable) (i : Fin 6) : Bool :=
  t.engines[i].configured && s.piu.engines[i].avail == .available &&
    !(s.role == .lead && s.csu.join == .localMode && isX i)

/-- The sum of the weights of the engines that a test picks. -/
def weightSum (t : AllocTable) (p : Fin 6 → Bool) : Nat :=
  (((List.finRange 6).filter p).map fun i => t.engines[i].wt).sum

def wCfg (t : AllocTable) : Nat := weightSum t fun i => t.engines[i].configured
def wAv (s : State) (t : AllocTable) : Nat := weightSum t (countsAvailable s t)

/-- The share factor s. -/
def shareFactor (t : AllocTable) (cfg av : Nat) : Nat := min (1000 * cfg / av) t.sMax

/-- An engine that takes a share: it counts in W_av, and W_av is above 0. -/
def takesShare (s : State) (t : AllocTable) (i : Fin 6) : Bool :=
  countsAvailable s t i && decide (0 < wAv s t)

/-- The share e of an engine (R30); divisions truncate toward zero. -/
def shareOf (s : State) (t : AllocTable) (d turn : Int) (i : Fin 6) : Int :=
  if takesShare s t i then
    let factor : Int := shareFactor t (wCfg t) (wAv s t)
    clampSym (((t.engines[i].wt : Int) * d * factor).tdiv 1000000 + (t.engines[i].wr * turn).tdiv 1000) 1000
  else 0

/-! ## Stages D and E (R32 to R35) -/

/-- The wanted gear of a share, with the deadband b, in the order of R32: at b = 0 a share of 0 meets both the AHEAD and the
ASTERN case, and the first is taken (log entry 29). -/
def wantedGear (b : Nat) (e : Int) : Gear :=
  if absInt e < b then .neutral else if (b : Int) ≤ e then .ahead else .astern

/-- The rpm target in a gear (R33). -/
def rpmTarget (b : Nat) (x : EngineEntry) (g : Gear) (e : Int) : Nat :=
  match g with
  | .neutral => x.idle
  | .ahead => x.idle + (x.maxAhead - x.idle) * (absInt e - b) / (1000 - b)
  | .astern => x.idle + (x.maxAstern - x.idle) * (absInt e - b) / (1000 - b)

/-- The rpm a slot moves from: its own, raised to idle; idle when it is empty (R35). -/
def prevRpm (x : EngineEntry) (r : EngineRec) : Nat := if r.filled then max r.rpm x.idle else x.idle

/-- The cycle's write of one configured engine with its share (R32 to R35). -/
def cycleEngine (b : Nat) (x : EngineEntry) (e : Int) (now : Nat) (r : EngineRec) : EngineRec :=
  let g := gearMachine x r (wantedGear b e) now
  let target := match g.1 with
    | .neutral => x.idle
    | .ahead => underCap x r .ahead (rpmTarget b x .ahead e)
    | .astern => underCap x r .astern (rpmTarget b x .astern e)
  slotWritten r g (min target (prevRpm x r + x.slew))

/-- The write of one engine record in a full cycle: a retiring one NEUTRAL at the old idle (R24), a configured one by its
share, NEUTRAL at idle when it takes none (R31, R40). -/
def fullEngine (s : State) (t : AllocTable) (d turn : Int) (i : Fin 6) (r : EngineRec) : EngineRec :=
  match r.retiring with
  | some old => neutralWritten old s.now r
  | none =>
    if takesShare s t i then cycleEngine t.deadband t.engines[i] (shareOf s t d turn i) s.now r
    else if t.engines[i].configured then neutralWritten t.engines[i] s.now r
    else r

/-- An engine that the lead drives while the helper is JOINED. -/
def mappedSlot (t : AllocTable) (i : Fin 6) : Bool := decide (i.val < 4) && t.engines[i].source != .own

/-- The write of one engine record while the helper is JOINED (R41). -/
def joinedEngine (s : State) (t : AllocTable) (i : Fin 6) (r : EngineRec) : EngineRec :=
  match r.retiring with
  | some old => neutralWritten old s.now r
  | none =>
    if t.engines[i].configured && !mappedSlot t i then neutralWritten t.engines[i] s.now r else r

/-! ## Stage F (R37 to R39) -/

/-- The wanted angle of a group: RS and XS steer, RF flanks with its sign reversed while the boat backs. -/
def wantedAngle (x : RudderEntry) (i : Fin 3) (d turn : Int) : Int :=
  let k : Int := if i = rf ∧ d < 0 then -(x.gainAstern : Int) else x.gain
  clampSym ((k * turn).tdiv 1000) x.limit

/-- The write of one configured group, moved toward a wanted angle by at most its slew. -/
def cycleRudder (t : AllocTable) (wanted : Fin 3 → Int) (s : State) (i : Fin 3) : State :=
  if t.rudders[i].configured then
    writeAngle i (moveAngle (startAngle s.piu.rudders[i]) (wanted i) t.rudders[i].slew) s
  else s

/-- While the helper is JOINED a group mapped from XS is left, and every other moves toward 0 (R41). -/
def joinedRudder (t : AllocTable) (s : State) (i : Fin 3) : State :=
  if i = rs ∧ t.rudders[i].fromXs = true then s else cycleRudder t (fun _ => 0) s i

/-! ## The cycle (R20, R31, R40 to R42) -/

def anyConfigured (t : AllocTable) : Bool := (List.finRange 6).any fun i => t.engines[i].configured

/-- NO-PROPULSION follows W_av while an engine is configured, and is cleared while none is (R29, R31). -/
def noPropulsion (t : AllocTable) (s : State) : State :=
  syncAlarm .noPropulsion .none (anyConfigured t && wAv s t == 0) s

/-- Stages C to F and the slot writes. The spec does not order the NO-PROPULSION frame (R31) and the RUDDER-FAULT clears of the
rudder writes (R62) of one cycle, nor those clears among themselves: they go from RS over RF to XS, and NO-PROPULSION goes last (DESIGN
CHOICE, log entry 55). -/
def fullStages (t : AllocTable) (d turn : Int) (s : State) : State :=
  let s1 := s.onPiu fun p =>
    { p with engines := Vector.ofFn fun i => fullEngine s t d turn i p.engines[i] }
  let s2 := (List.finRange 3).foldl (cycleRudder t fun i => wantedAngle t.rudders[i] i d turn) s1
  noPropulsion t s2

/-- What a JOINED helper writes. The RUDDER-FAULT clears of its groups go in the same order (log entry 55). -/
def joinedStages (t : AllocTable) (s : State) : State :=
  let s1 := s.onPiu fun p => { p with engines := Vector.ofFn fun i => joinedEngine s t i p.engines[i] }
  (List.finRange 3).foldl (joinedRudder t) s1

/-- One cycle on the table in force; while ALLOC is unloaded it does nothing (R22). -/
def runCycle (s : State) : State :=
  match allocOf s with
  | none => s
  | some t =>
    let target := targetClamp s t
    let d := stepThrust (ratesOf s t) s.tau.dEff target.1
    let turn := stepTurn t.rTurn s.tau.tEff target.2
    let s1 := s.onTau fun u => { u with dEff := d, tEff := turn }
    if s.role = .helper ∧ isJoined s = true then joinedStages t s1 else fullStages t d turn s1

/-- The ALLOC swap at the start of a cycle: the CSU, the PIU and the TAU take the table (R1, R24, R46), a lead that has
lost its X slots leaves JOINED (R19), and the commit is answered (R194). The spec states no order for their frames: the CSU's
reports go first, then the PIU's alarms, then the lead's UNJOINED (DESIGN CHOICE, log entry 56). -/
def allocSwap (s : State) : State :=
  let old := allocOf s
  let s1 := s.onTau fun u => { u with alloc := activeAlloc s, swapWaiting := false }
  let s2 := piuSwap old (csuSwap old s1)
  let s3 :=
    if s2.role = .lead ∧ isJoined s2 = true ∧ anyXConfigured s2 = false then
      leaveJoined (reasonByte .noXSlot) (sendJoin (unjoinFrame .noXSlot) s2)
    else s2
  answerCommit .alloc s3

/-- ALLOCATION_CYCLE (R20). -/
def execAllocationCycle (s : State) : Host.Outcome State Fault Refusal :=
  .next (whenRunning s fun s => onExpiry s.tau.timer s fun s =>
    let s1 := s.onTau ({ · with timer := timerFor s Config.cycleTime })
    runCycle (if s1.tau.swapWaiting then allocSwap s1 else s1))

end Sys2Proof.Machine
end

