-- ==== Sys2Proof/Machine/Store.lean ====
section
/-! DEFINITION. The nonvolatile store controller: the running of operations, the arbiter, checkpoints and their ring,
interruptions and the start-up scan (chapter 7). The ends of the MGU's operations stand with the management unit. -/

namespace Sys2Proof.Machine

/-! ## Banks and operations -/

def bankAt (s : State) (b : BankId) : Bank := s.nvs.banks[bankIx b]

def onBank (b : BankId) (f : Bank → Bank) (s : State) : State :=
  s.onNvs fun n => { n with banks := updAt n.banks (bankIx b) f }

def onSlot (i : Fin 8) (f : Slot → Slot) (s : State) : State :=
  s.onNvs fun n => { n with slots := updAt n.slots i f }

/-- The lock flag of a bank and its lock state. -/
def setLock (b : BankId) (f : LockFlag) (locked : Bool) (s : State) : State :=
  s.onNvs fun n => { n with flags := n.flags.set (bankIx b) f, locked := n.locked.set (bankIx b) locked }

/-- The running time of an operation (section 7.2). -/
def opTime (op : StoreOp) : Nat :=
  match op with
  | .bankErase _ => Config.bankEraseTime
  | .blankCheck _ => Config.blankCheckTime
  | .loadProgram _ _ _ => Config.loadProgramTime
  | .headerFields _ _ _ => Config.headerProgramTime
  | .markWord _ _ => Config.headerProgramTime
  | .commitCheck _ => Config.commitCheckTime
  | .lockProgram _ => Config.lockProgramTime
  | .lockErase _ => Config.lockEraseTime
  | .slotErase => Config.slotEraseTime
  | .slotProgram => Config.slotProgramTime

/-- The operations of a checkpoint; every other one is the MGU's (section 7.2). -/
def isSlotOp (op : StoreOp) : Bool :=
  match op with
  | .slotErase | .slotProgram => true
  | .bankErase _ | .blankCheck _ | .loadProgram _ _ _ | .headerFields _ _ _ | .markWord _ _ | .commitCheck _
  | .lockProgram _ | .lockErase _ => false

/-- What holds from the start of an operation: an erase takes the header first, so the bank is no longer marked and
is not blank until the erase ends well; a bank is locked from the start of its LOCK-PROGRAM (R122, R191). -/
def startEffect (op : StoreOp) (s : State) : State :=
  match op with
  | .bankErase b =>
    onBank b (fun x => { cells := x.cells.filter fun c => decide (32 ≤ c.1), torn := true, markTorn := false }) s
  | .lockProgram b => s.onNvs fun n => { n with locked := n.locked.set (bankIx b) true }
  | .blankCheck _ | .loadProgram _ _ _ | .headerFields _ _ _ | .markWord _ _ | .commitCheck _ | .lockErase _
  | .slotErase | .slotProgram => s

/-- An operation runs from now to its deadline. -/
def runOp (op : StoreOp) (s : State) : State :=
  s.onNvs ({ · with current := some { op := op, deadline := s.now + opTime op } })

def startOp (op : StoreOp) (s : State) : State := runOp op (startEffect op s)

/-- An operation of the MGU: it starts when the store is free, and waits otherwise (R123). -/
def handOp (op : StoreOp) (s : State) : State :=
  match s.nvs.current with
  | none => startOp op s
  | some _ => s.onNvs ({ · with waitingOp := some op })

/-! ## Checkpoints (R124 to R128) -/

/-- The slot after the newest, or slot 0 (R127). -/
def nextSlot (n : Option Newest) : Fin 8 := n.elim 0 fun x => x.slot + 1

/-- The MGU told that the checkpoint owing the close answer has ended (R128). -/
def tellClose (owed written : Bool) (s : State) : State :=
  if owed then finishLong (if written then .ok else .programFailed) [] s else s

/-- A checkpoint starts with the SLOT-ERASE of its first slot; at the highest sequence it ends unwritten at once
(R127). -/
def startCheckpoint (w : WaitingCheckpoint) (s : State) : State :=
  let slot := nextSlot s.nvs.newest
  let last := s.nvs.newest.elim 0 (·.seq)
  if last = Config.sequenceMax then tellClose w.owed false (raiseAlarm .storeFail (.slot slot) s)
  else
    let c : Checkpoint := { snapshot := w.snapshot, owed := w.owed, slot := slot, seq := last + 1, failures := 0 }
    runOp .slotErase (s.onNvs ({ · with checkpoint := some c }))

/-- A running bank erase is suspended with the time left to it (R126). -/
def suspendErase (b : BankId) (deadline : Nat) (s : State) : State :=
  s.onNvs fun n =>
    { n with suspended := some { bank := b, remaining := deadline - s.now }, current := none,
             eraseSuspend := satInc n.eraseSuspend }

/-- A suspended erase goes on for the time left to it. -/
def resumeErase (s : State) : State :=
  match s.nvs.suspended with
  | none => s
  | some e =>
    s.onNvs fun n =>
      { n with suspended := none, current := some { op := .bankErase e.bank, deadline := s.now + e.remaining } }

/-- A suspended erase resumes when the checkpoint it made way for ended as it started (R125, R127). -/
def resumeIfFree (s : State) : State :=
  match s.nvs.current with
  | none => resumeErase s
  | some _ => s

/-- The waiting checkpoint starts. -/
def startWaiting (s : State) : State :=
  match s.nvs.waiting with
  | none => s
  | some w => startCheckpoint w (s.onNvs ({ · with waiting := none }))

/-- The store given to the next operation when one has ended, by the rows of R125. -/
def giveStore (s : State) : State :=
  match s.nvs.suspended, s.nvs.waiting, s.nvs.waitingOp with
  | some _, some _, _ => resumeIfFree (startWaiting s)
  | some _, none, _ => resumeErase s
  | none, some _, some (.bankErase b) =>
    let s1 := startEffect (.bankErase b) (s.onNvs ({ · with waitingOp := none }))
    resumeIfFree (startWaiting (suspendErase b (s1.now + Config.bankEraseTime) s1))
  | none, _, some op => startOp op (s.onNvs ({ · with waitingOp := none }))
  | none, some _, none => startWaiting s
  | none, none, none => s

/-- What replaces a waiting snapshot: the closing mark stays while the new open flag is clear, and a close answer stays
owed (R124). -/
def replaceWaiting (w : WaitingCheckpoint) (p : Snapshot) (owed : Bool) : WaitingCheckpoint :=
  { snapshot := { p with closing := (p.closing || w.snapshot.closing) && !p.isOpen }, owed := w.owed || owed }

/-- A checkpoint request with its snapshot (R124). -/
def requestCheckpoint (p : Snapshot) (owed : Bool) (s : State) : State :=
  match s.nvs.waiting with
  | some w =>
    s.onNvs fun n =>
      { n with waiting := some (replaceWaiting w p owed), replacedSnapshot := satInc n.replacedSnapshot }
  | none =>
    match s.nvs.current with
    | none => startCheckpoint { snapshot := p, owed := owed } s
    | some ⟨.bankErase b, d⟩ =>
      resumeIfFree (startCheckpoint { snapshot := p, owed := owed } (suspendErase b d s))
    | some _ => s.onNvs ({ · with waiting := some { snapshot := p, owed := owed } })

/-- The running operation has ended. -/
def opEnded (s : State) : State := s.onNvs ({ · with current := none })

/-- A checkpoint ends, written or not, and the store goes on (R125, R128). -/
def checkpointEnds (c : Checkpoint) (written : Bool) (s : State) : State :=
  giveStore (tellClose c.owed written (s.onNvs fun n => { n with current := none, checkpoint := none }))

/-- The slots one checkpoint may try: seven beside the newest, or all eight with no newest (R128). -/
def slotTries (n : Option Newest) : Nat := n.elim 8 fun _ => 7

/-- A slot fails (R128). -/
def slotFails (c : Checkpoint) (s : State) : State :=
  let s2 := raiseAlarm .storeFail (.slot c.slot) (s.onNvs fun n => { n with slotFailure := satInc n.slotFailure })
  if c.failures + 1 < slotTries s2.nvs.newest then
    runOp .slotErase (s2.onNvs fun n =>
      { n with checkpoint := some { c with slot := c.slot + 1, failures := c.failures + 1 } })
  else checkpointEnds c false s2

/-- A slot is written: it is the newest; at the first slot tried every STORE-FAIL is cleared (R127, R128). -/
def slotWrittenEnd (c : Checkpoint) (s : State) : State :=
  let s1 := onSlot c.slot (fun _ => { cells := slotCells c.snapshot c.seq, torn := false }) s
  let s2 := s1.onNvs ({ · with newest := some { slot := c.slot, seq := c.seq } })
  checkpointEnds c true (if c.failures = 0 then clearAllOf .storeFail s2 else s2)

/-- The bank of an open load context, as the context is aborted: not blank from now until an erase of it ends well, whatever its bytes
read (R193). R122 calls a bank blank when every byte reads 255; where both speak of one bank, R193 is taken (DESIGN CHOICE, log entry
91). -/
def spoilLoad (s : State) : State :=
  match s.mgu.load with
  | none => s
  | some c => onBank c.bank ({ · with torn := true }) s

/-! ## Interruption and scan (R130, R131, R133) -/

/-- The bytes of a program that did not end well: each bit is the old one or the programmed one (R133). -/
def tornProgram (m : Memory) (a : Nat) (bytes : List Byte) (count : Nat) : Memory :=
  memProgramAll m a (bytes.mapIdx fun i v => v ||| Config.freeTorn count i)

/-- The bytes of an erase that did not end well: each bit is the old one or erased (R133). -/
def tornErase (m : Memory) (count : Nat) : Memory :=
  m.foldl (fun acc c => memWrite acc c.1 (c.2 ||| Config.freeTorn count c.1)) m

/-- An erase of a bank that did not end well. -/
def tearErase (b : BankId) (s : State) : State :=
  (onBank b (fun x => { x with torn := true, cells := tornErase x.cells s.freeCount }) s).tickFree

/-- A program of a bank's body or header fields that did not end well. -/
def tearProgram (b : BankId) (a : Nat) (bytes : List Byte) (s : State) : State :=
  (onBank b (fun x => { x with torn := true, cells := tornProgram x.cells a bytes s.freeCount }) s).tickFree

/-- A program of a mark word that did not end well: it reads bad whatever its bytes are (R133). -/
def tearMark (b : BankId) (number : Nat) (s : State) : State :=
  (onBank b (fun x =>
    { x with markTorn := true, cells := tornProgram x.cells 16 (markBytes number) s.freeCount }) s).tickFree

/-- A slot whose erase did not end well. -/
def tearSlotErase (c : Checkpoint) (s : State) : State :=
  (onSlot c.slot (fun x => { cells := tornErase x.cells s.freeCount, torn := true }) s).tickFree

/-- A slot whose program ran to its end and did not read back as written (R128). -/
def tearSlotProgram (c : Checkpoint) (s : State) : State :=
  (onSlot c.slot (fun x =>
    { cells := tornProgram x.cells 0 (memBytes (slotCells c.snapshot c.seq) 0 256) s.freeCount, torn := true }) s).tickFree

/-- The bytes of a slot program cut short: the record is written with its CRC last (R127), so the CRC has begun only where
bytes 0 to 94 are whole. -/
def cutRecord (m : Memory) (p : Snapshot) (seq count : Nat) : Memory :=
  let m1 := tornProgram m 0 (recordHead p seq) count
  if memBytes m1 0 95 == recordHead p seq then
    memProgramAll m1 252 ((memBytes (slotCells p seq) 252 4).mapIdx fun i v => v ||| Config.freeTorn count (252 + i))
  else m1

/-- A slot whose program was cut short. -/
def cutSlotProgram (c : Checkpoint) (s : State) : State :=
  (onSlot c.slot (fun x => { cells := cutRecord x.cells c.snapshot c.seq s.freeCount, torn := true }) s).tickFree

/-- What an interrupted operation leaves in the store (R133). -/
def interruptOp (op : StoreOp) (s : State) : State :=
  match op with
  | .bankErase b => tearErase b s
  | .blankCheck _ => s
  | .commitCheck _ => s
  | .loadProgram b offset bytes => tearProgram b (32 + offset) bytes s
  | .headerFields b len crc => tearProgram b 0 (headerBytes b.kind len crc) s
  | .markWord b number => tearMark b number s
  | .lockProgram b => setLock b .partly true s
  | .lockErase b => setLock b .partly true s
  | .slotErase => s.nvs.checkpoint.elim s fun c => tearSlotErase c s
  | .slotProgram => s.nvs.checkpoint.elim s fun c => cutSlotProgram c s

/-- Everything the store was doing ends at once, with no result told (R133). -/
def interruptStore (s : State) : State :=
  let s1 := match s.nvs.current with
    | none => s
    | some r => interruptOp r.op s
  let s2 := match s1.nvs.suspended with
    | none => s1
    | some e => tearErase e.bank s1
  s2.onNvs fun n =>
    { n with current := none, suspended := none, waitingOp := none, checkpoint := none, waiting := none }

/-- The bank the scan finds active: the candidate with the higher commit number, A at equal numbers (R130). -/
def scanActive (banks : Vector Bank 10) (k : Kind) : Option Bool :=
  let a := banks[bankIx ⟨k, false⟩]
  let b := banks[bankIx ⟨k, true⟩]
  if bankCandidate k a then
    (if bankCandidate k b && decide (bankCommit a < bankCommit b) then some true else some false)
  else if bankCandidate k b then some true
  else none

/-- What the scan finds in the store (R130, R131). -/
def scanStore (n : Nvs) : Nvs :=
  { n with
    active := #v[scanActive n.banks .alloc, scanActive n.banks .window, scanActive n.banks .makeup,
      scanActive n.banks .coupling, scanActive n.banks .fuelmap],
    locked := n.flags.map (· != .erased), newest := newestSlot n.slots,
    replacedSnapshot := 0, eraseSuspend := 0, slotFailure := 0 }

/-- What a core reset reads again (R133). -/
def rereadSlots (n : Nvs) : Nvs :=
  { n with newest := newestSlot n.slots, replacedSnapshot := 0, eraseSuspend := 0, slotFailure := 0 }

/-! ## Meanings -/

/-- SLOT_ERASE_END (R127, R128). -/
def execSlotEraseEnd (ok : Bool) (s : State) : Host.Outcome State Fault Refusal :=
  .next (whenRunning s fun s =>
    match s.nvs.current, s.nvs.checkpoint with
    | some ⟨.slotErase, d⟩, some c =>
      let s1 := s.upTo d
      if ok then runOp .slotProgram (onSlot c.slot (fun _ => Slot.erased) s1) else slotFails c (tearSlotErase c s1)
    | _, _ => s)

/-- SLOT_PROGRAM_END (R127, R128). -/
def execSlotProgramEnd (ok : Bool) (s : State) : Host.Outcome State Fault Refusal :=
  .next (whenRunning s fun s =>
    match s.nvs.current, s.nvs.checkpoint with
    | some ⟨.slotProgram, d⟩, some c =>
      let s1 := s.upTo d
      if ok then slotWrittenEnd c s1 else slotFails c (tearSlotProgram c s1)
    | _, _ => s)

end Sys2Proof.Machine
end

