-- ==== Sys2Proof/Machine/Fuel.lean ====
section
/-! DEFINITION. The fuel accounting unit: meters, bookings, tanks, fuel caps, the voyage record, checkpoint requests, and
the meanings of its commands (chapter 6). -/

namespace Sys2Proof.Machine

/-! ## The FUELMAP table in force (R96) -/

def jumpLimit (s : State) : Nat := s.fau.table.elim 20000 fun t => limitNat t.jMax 1 1000000
def reserveCap (s : State) : Nat := s.fau.table.elim 700 fun t => limitNat t.cR 0 1000
def defaultLineup (t : Option FuelMap) : Vector (Fin 8) 4 := t.elim (Vector.replicate 4 0) (·.lineup)

/-- The greatest capacity and hysteresis: 2^47 − 1 ml (section 6.1). -/
def volumeMax : Nat := 140737488355327

def limitTank (k : TankEntry) : TankEntry :=
  let c := limitNat k.capacity 1 volumeMax
  { k with capacity := c, reserve := limitNat k.reserve 0 (c - 1), hysteresis := limitNat k.hysteresis 0 volumeMax }

/-- The entry of a tank that the table defines. -/
def tankEntry (s : State) (i : Fin 8) : Option TankEntry :=
  match s.fau.table with
  | none => none
  | some t => if t.tanks[i].defined then some (limitTank t.tanks[i]) else none

/-- The meter records of a table as used: each node within 1 to 62 (R96). -/
def usedMeters (t : Option FuelMap) : List MeterEntry :=
  t.elim [] fun t => t.meters.map fun e => { e with node := limitNat e.node 1 62 }

/-- A SUPPLY or RETURN record of the same engine and role. -/
def sameDuty (a b : MeterRole) : Bool :=
  match a, b with
  | .supply x, .supply y => x == y
  | .ret x, .ret y => x == y
  | _, _ => false

/-- A record that R96 ignores for an earlier one. -/
def ignoredAfter (earlier : List MeterEntry) (e : MeterEntry) : Bool :=
  earlier.any fun x => x.node == e.node || sameDuty x.role e.role

/-- A meter that starts UNSEEN (R117, R118). -/
def newMeter (e : MeterEntry) (unused : Bool) (now : Nat) : Meter :=
  { entry := e, unused := unused, state := .unseen, baseline := none, jumps := [], clean := 0, lastReport := none,
    carry := 0, silence := if unused then none else some (now + Config.silenceTime) }

/-- The records of a table, each with whether it is ignored. -/
def markIgnored (earlier : List MeterEntry) : List MeterEntry → List (MeterEntry × Bool)
  | [] => []
  | e :: rest => (e, ignoredAfter earlier e) :: markIgnored (earlier ++ [e]) rest

/-! ## Records and modes (R101) -/

def onMeter (i : Nat) (f : Meter → Meter) (s : State) : State :=
  s.onFau fun u => { u with meters := u.meters.modify i f }

def onAccount (e : Fin 4) (f : Account → Account) (s : State) : State :=
  s.onFau fun u => { u with accounts := updAt u.accounts e f }

def onTank (i : Fin 8) (f : Tank → Tank) (s : State) : State :=
  s.onFau fun u => { u with tanks := updAt u.tanks i f }

/-- The record a node's METER goes to. -/
def meterOfNode (s : State) (node : Node) : Option Nat :=
  s.fau.meters.findIdx? fun m => !m.unused && m.entry.node == node.toNat

/-- The meter of a duty. -/
def meterOfDuty (l : List Meter) (r : MeterRole) : Option Meter := l.find? fun m => !m.unused && m.entry.role == r

/-- METERED: the supply meter is RUNNING, and the return meter when there is one (R101). -/
def isMetered (l : List Meter) (e : Fin 4) : Bool :=
  match meterOfDuty l (.supply e) with
  | none => false
  | some m => m.state == .running && ((meterOfDuty l (.ret e)).elim true fun r => r.state == .running)

/-- Each engine that has passed from METERED to ESTIMATE: its pendings become 0 and its window is void (R101, R107). -/
def settleModes (old : List Meter) (s : State) : State :=
  s.onFau fun u =>
    { u with accounts := Vector.ofFn fun e =>
        let a := u.accounts[e]
        if isMetered old e && !isMetered u.meters e then
          { a with pendingSupply := 0, pendingReturn := 0, void := true }
        else a }

/-- An effect on the meters followed by the change of modes it makes. -/
def withModes (s : State) (f : State → State) : State := settleModes s.fau.meters (f s)

/-! ## Tanks and caps (R108, R109) -/

/-- The rows of R108. -/
def tankStateOf (k : TankEntry) (b : Int) (old : TankState) : TankState :=
  if b ≤ 0 then .empty
  else if b ≤ k.reserve then .reserve
  else if (k.reserve : Int) + k.hysteresis < b then .normal
  else match old with
    | .empty => .reserve
    | .reserve => .reserve
    | .normal => .normal

/-- The cap of an engine: c_r while its lineup tank is RESERVE or EMPTY. -/
def capOf (s : State) (e : Fin 4) : Option Nat :=
  match s.fau.tanks[s.fau.lineup[e]].state with
  | .normal => none
  | .reserve => some (reserveCap s)
  | .empty => some (reserveCap s)

def engineIx (e : Fin 4) : Fin 6 := ⟨e.val, by omega⟩

/-- The caps worked out again, each written when it differs from the one last written. -/
def updateCaps (s : State) : State :=
  (List.finRange 4).foldl (fun s e =>
    let c := capOf s e
    if c = s.piu.engines[engineIx e].cap then s else writeCap (engineIx e) c s) s

/-- The four caps and lineup copies written, after a reset (R109) and at a FUELMAP swap (R117). That the swap writes also a cap that
is the one last written is the model's reading (log entry 79). -/
def writeAllCaps (s : State) : State :=
  (List.finRange 4).foldl (fun s e =>
    writeCap (engineIx e) (capOf s e) (writeLineup (engineIx e) s.fau.lineup[e] s)) s

/-- The alarms of a tank follow its state and its flag. -/
def tankAlarms (i : Fin 8) (s : State) : State :=
  let t := s.fau.tanks[i]
  syncAlarm .tankOverfull (.tank i) t.overfull
    (syncAlarm .tankEmpty (.tank i) (t.state == .empty)
      (syncAlarm .tankReserve (.tank i) (t.state != .normal) s))

/-- A tank evaluated (R108). -/
def evalTank (i : Fin 8) (s : State) : State :=
  let s1 := match tankEntry s i with
    | none => onTank i (fun t => { t with state := .normal, overfull := false }) s
    | some k => onTank i (fun t =>
        { t with state := tankStateOf k t.balance t.state, overfull := decide ((k.capacity : Int) < t.balance) }) s
  tankAlarms i s1

/-- Every tank evaluated as from NORMAL and clear (R117, R118). -/
def evalAllTanks (s : State) : State :=
  let s1 := s.onFau fun u =>
    { u with tanks := u.tanks.map fun t => { t with state := .normal, overfull := false } }
  (List.finRange 8).foldl (fun s i => evalTank i s) s1

/-! ## Accounts (R103, R104, R115) -/

/-- A 48-bit quantity at its limit. -/
def limitAccount (x : Int) : Int := clampInt x Config.accountMin Config.accountMax

/-- SAT and FUEL-SAT when a sum lay beyond a limit (R115). -/
def saturated (x : Int) (s : State) : State :=
  if limitAccount x = x then s else raiseAlarm .fuelSat .none (s.onFau ({ · with sat := true }))

/-- A tank's balance moved by a volume. -/
def moveBalance (i : Fin 8) (v : Int) (s : State) : State :=
  let x := s.fau.tanks[i].balance + v
  saturated x (onTank i ({ · with balance := limitAccount x }) s)

/-- An engine's total increased by a volume. -/
def addTotal (e : Fin 4) (v : Int) (s : State) : State :=
  let x := s.fau.accounts[e].total + v
  saturated x (onAccount e ({ · with total := limitAccount x }) s)

/-- A booked volume of an engine, in one step (R104). -/
def applyBooking (e : Fin 4) (v : Int) (s : State) : State :=
  let tank := s.fau.lineup[e]
  let s1 := moveBalance tank (-v) (addTotal e v s)
  let s2 := if isMetered s.fau.meters e then onAccount e (fun a => { a with metered := a.metered + v }) s1 else s1
  updateCaps (evalTank tank s2)

/-- A scaled unit: a millionth of a millilitre. -/
def million : Int := 1000000

/-- The booking of the net volume at a SUPPLY report (R103). -/
def bookNet (e : Fin 4) (s : State) : State :=
  let a := s.fau.accounts[e]
  let net := a.pendingSupply - a.pendingReturn + a.carry
  let bound := -((jumpLimit s : Int) * million)
  if 0 ≤ net then
    applyBooking e (net / million)
      (onAccount e (fun a => { a with pendingSupply := 0, pendingReturn := 0, carry := net % million }) s)
  else
    let s1 := onAccount e (fun a => { a with pendingSupply := 0, pendingReturn := 0, carry := max net bound }) s
    if net < bound then s1.onFau fun u => { u with carryBound := satInc u.carryBound } else s1

/-- The correction factor F of a clamped temperature (R100). -/
def factor (t : Int) : Int := 1000000 - 84 * (t - 150)

/-- The volume of an accepted delta placed by its meter's role (R102, R106). -/
def placeVolume (i : Nat) (m : Meter) (scaled : Int) (s : State) : State :=
  match m.entry.role with
  | .supply e =>
    if isMetered s.fau.meters e then
      bookNet e (onAccount e (fun a => { a with pendingSupply := a.pendingSupply + scaled }) s)
    else s
  | .ret e =>
    if isMetered s.fau.meters e then onAccount e (fun a => { a with pendingReturn := a.pendingReturn + scaled }) s
    else s
  | .transfer source dest =>
    let sum := scaled + m.carry
    let s1 := onMeter i ({ · with carry := (sum % million).toNat }) s
    if source = dest then s1
    else
      updateCaps (evalTank dest (evalTank source
        (moveBalance dest (sum / million) (moveBalance source (-(sum / million)) s1))))

/-- An accepted delta of a RUNNING meter corrected with its report's temperature (R100). Only here is a temperature
used, so that only here one out of range is clamped and counted (log entry 66). -/
def acceptVolume (i : Nat) (m : Meter) (delta : Nat) (t : Int) (s : State) : State :=
  let t1 := clampInt t (-200) 900
  let s1 := if t1 = t then s else s.onFau fun u => { u with temperatureClamp := satInc u.temperatureClamp }
  placeVolume i m (delta * factor t1) s1

/-! ## Meter reports (R97 to R99) -/

/-- A meter enters FAULT (R98). -/
def meterFaults (i : Nat) (node : Nat) (s : State) : State :=
  raiseAlarm .meterFault (.meter node) (onMeter i (fun m => { m with state := .fault, clean := 0, jumps := [] }) s)

/-- The delta of a report and the state after a free value was read for it: a FAULT meter without a baseline has no
stated delta (log entry 11). -/
def deltaOf (m : Meter) (totalizer : Nat) (s : State) : Nat × State :=
  match m.baseline with
  | some b => ((totalizer + 4294967296 - b) % 4294967296, s)
  | none => ((Config.freeDelta s.freeCount).toNat, s.tickFree)

/-- A report with both flags clear from a RUNNING or FAULT meter (R98, R99). -/
def cleanReport (i : Nat) (m : Meter) (totalizer : Nat) (t : Int) (s : State) : State :=
  let x := deltaOf m totalizer s
  let s1 := onMeter i ({ · with baseline := some totalizer }) x.2
  if jumpLimit s < x.1 then
    let s2 := s1.onFau fun u => { u with jump := satInc u.jump }
    match m.state with
    | .running =>
      if m.jumps.length + 1 < 3 then onMeter i (fun m => { m with jumps := m.jumps ++ [s.now] }) s2
      else meterFaults i m.entry.node s2
    | _ => onMeter i ({ · with clean := 0 }) s2
  else
    match m.state with
    | .running => acceptVolume i m x.1 t s1
    | _ =>
      if m.clean + 1 < 30 then onMeter i ({ · with clean := m.clean + 1 }) s1
      else clearAlarm .meterFault (.meter m.entry.node)
        (onMeter i (fun m => { m with state := .running, clean := 30 }) s1)

/-- A matched report handled by its flags and the meter's state (R97). -/
def matchedReport (i : Nat) (m : Meter) (totalizer : Nat) (t : Int) (flags : Byte) (s : State) : State :=
  let s0 := onMeter i (fun m =>
    { m with lastReport := some s.now, silence := timerFor s Config.silenceTime }) s
  let based := onMeter i ({ · with baseline := some totalizer }) s0
  if flag flags 0 then
    (match m.state with
      | .fault => onMeter i ({ · with clean := 0 }) based
      | _ => meterFaults i m.entry.node based)
  else if flag flags 1 then
    (match m.state with
      | .unseen => onMeter i ({ · with state := .running }) based
      | _ => based)
  else match m.state with
    | .unseen => onMeter i ({ · with state := .running }) based
    | _ => cleanReport i m totalizer t s0

/-- A well-formed METER (R97). -/
def meterFrame (node : Node) (totalizer : Nat) (t : Int) (flags : Byte) (s : State) : State :=
  match meterOfNode s node with
  | none => s.onFau fun u => { u with unknownMeter := satInc u.unknownMeter }
  | some i =>
    match s.fau.meters[i]? with
    | none => s
    | some m => withModes s (matchedReport i m totalizer t flags)

/-- A class 5 frame the FSW delivers (R97). -/
def classFive (f : Frame) (s : State) : State :=
  match f.kind.toNat, f.payload with
  | 1, [a, b, c, d, x, y, z] => meterFrame f.node (beNat [a, b, c, d]) (signed16 (beNat [x, y])) z s
  | _, _ => s.onFau fun u => { u with malformedMeter := satInc u.malformedMeter }

/-- A meter's silence timer ends and is not restarted (R98). -/
def meterSilent (i : Nat) (m : Meter) (s : State) : State :=
  let s1 := onMeter i ({ · with silence := none }) s
  match m.state with
  | .fault => onMeter i ({ · with clean := 0 }) s1
  | _ => withModes s1 (meterFaults i m.entry.node)

/-! ## The estimate (R105) -/

/-- The milliseconds from one arrival to another, at most 1000. -/
def elapsedMs (last : Option Nat) (now : Nat) : Nat :=
  last.elim 0 fun t => min 1000 (now / Config.usPerMs - t / Config.usPerMs)

/-- An ENGINE-FB handed by the PIU. -/
def engineFuel (e : Fin 4) (rate : Nat) (s : State) : State :=
  let a := s.fau.accounts[e]
  let s1 := onAccount e ({ · with lastFeedback := some s.now }) s
  match s.fau.table with
  | none => s1
  | some _ =>
    let num := a.residue + rate * elapsedMs a.lastFeedback s.now
    let est : Int := (num / 36000 : Nat)
    let s2 := onAccount e ({ · with residue := num % 36000 }) s1
    if isMetered s.fau.meters e then onAccount e (fun a => { a with estimated := a.estimated + est }) s2
    else applyBooking e est s2

/-! ## The window (R107) -/

/-- A window disagrees: |M − E| > 2000 and 100 × |M − E| > 15 × M. -/
def disagrees (m e : Int) : Bool :=
  decide (2000 < absInt (m - e)) && decide (15 * m < 100 * (absInt (m - e) : Int))

/-- One engine's window ends and the next starts. -/
def endWindow (s : State) (e : Fin 4) : State :=
  let a := s.fau.accounts[e]
  let s1 :=
    if a.void then onAccount e ({ · with disagree := 0 }) s
    else if disagrees a.metered a.estimated then
      (let n := min 3 (a.disagree + 1)
       let s2 := onAccount e ({ · with disagree := n }) s
       if n = 3 then raiseAlarm .fuelDisagree (.engine (engineIx e)) s2 else s2)
    else clearAlarm .fuelDisagree (.engine (engineIx e)) (onAccount e ({ · with disagree := 0 }) s)
  onAccount e (fun a => { a with metered := 0, estimated := 0, void := !isMetered s.fau.meters e }) s1

/-! ## Checkpoint requests and the management actions (R110 to R114) -/

def snapshotOf (u : Fau) (closing : Bool) : Snapshot :=
  { number := u.voyage.number, isOpen := u.voyage.isOpen, opening := u.voyage.opening,
    bunkered := u.voyage.bunkered, balances := u.tanks.map (·.balance), totals := u.accounts.map (·.total),
    lineup := u.lineup, sat := u.sat, closing := closing }

/-- SET-LINEUP on valid arguments (R110). -/
def setLineup (e : Fin 4) (tank : Fin 8) (s : State) : State :=
  updateCaps (writeLineup (engineIx e) tank (s.onFau fun u => { u with lineup := u.lineup.set e tank }))

/-- BUNKER on valid arguments (R111). -/
def takeBunker (tank : Fin 8) (v : Nat) (s : State) : State :=
  let x := s.fau.voyage.bunkered + v
  let s1 := moveBalance tank v s
  let s2 := saturated x (s1.onFau fun u => { u with voyage := { u.voyage with bunkered := limitAccount x } })
  let s3 := updateCaps (evalTank tank s2)
  requestCheckpoint (snapshotOf s3.fau false) false s3

/-- VOYAGE-OPEN while no voyage is open (R112); it clears ACCOUNT-GAP (R132). -/
def openVoyage (number : Nat) (soundings : Vector Nat 8) (s : State) : State :=
  let total : Int := (soundings.toList.sum : Nat)
  let s1 := s.onFau fun u =>
    { u with
      tanks := Vector.ofFn fun i => { u.tanks[i] with balance := (soundings[i] : Nat) },
      accounts := u.accounts.map fun a => { a with total := 0 },
      voyage := { number := number, isOpen := true, opening := total, bunkered := 0 },
      sat := false }
  let s2 := clearAllOf .accountGap (clearAlarm .fuelSat .none s1)
  let s3 := updateCaps ((List.finRange 8).foldl (fun s i => evalTank i s) s2)
  requestCheckpoint (snapshotOf s3.fau false) false s3

/-- VOYAGE-CLOSE while a voyage is open: the checkpoint owes the answer (R113). -/
def closeVoyage (s : State) : State :=
  let s1 := s.onFau fun u => { u with voyage := { u.voyage with isOpen := false } }
  requestCheckpoint (snapshotOf s1.fau true) true s1

/-! ## The FUELMAP swap (R117) -/

/-- The record of a new entry: the old one with its node and role kept, its last report time with it (log entry 74), or a new
one. -/
def swapMeter (old : List Meter) (now : Nat) (x : MeterEntry × Bool) : Meter :=
  if x.2 then newMeter x.1 true now
  else (old.find? fun m => !m.unused && m.entry == x.1).getD (newMeter x.1 false now)

def fuelSwap (s : State) : State :=
  let table := activeFuel s
  let old := s.fau.meters
  let new := (markIgnored [] (usedMeters table)).map (swapMeter old s.now)
  let gone := old.filter fun m => !m.unused && !new.any fun n => !n.unused && n.entry == m.entry
  let s1 := s.onFau fun u => { u with table := table, meters := new, lineup := defaultLineup table }
  let s2 := settleModes old s1
  let s3 := gone.foldl (fun s m => clearAlarm .meterFault (.meter m.entry.node) s) s2
  writeAllCaps (evalAllTanks s3)

/-! ## Resets (R118, R119) -/

/-- The records a table gives after a supply-on reset. -/
def firstMeters (t : Option FuelMap) (now : Nat) : List Meter :=
  (markIgnored [] (usedMeters t)).map fun x => newMeter x.1 x.2 now

/-- The accounts of a recovered snapshot, or zero accounts. -/
def Fau.afterSupply (t : Option FuelMap) (p : Option Snapshot) (now : Nat) : Fau :=
  let base := { Fau.initial with
    table := t, meters := firstMeters t now, lineup := defaultLineup t,
    windowTimer := some (now + Config.fuelWindowTime), checkpointTimer := some (now + Config.checkpointTime) }
  match p with
  | none => base
  | some p =>
    { base with
      tanks := p.balances.map fun b => { balance := b, state := .normal, overfull := false },
      accounts := p.totals.map fun t => { Account.initial with total := t },
      lineup := p.lineup,
      voyage := { number := p.number, isOpen := p.isOpen, opening := p.opening, bunkered := p.bunkered },
      sat := p.sat }

/-- A meter after a core reset: RUNNING with a baseline, UNSEEN without one. -/
def coreMeter (now : Nat) (m : Meter) : Meter :=
  if m.unused then m
  else
    { m with state := if m.baseline.isSome then .running else .unseen, jumps := [], clean := 0, lastReport := none,
             silence := some (now + Config.silenceTime) }

/-- The retained domain kept by a core reset (R119). -/
def Fau.afterCore (u : Fau) (now : Nat) : Fau :=
  { Fau.initial with
    table := u.table, meters := u.meters.map (coreMeter now), tanks := u.tanks, lineup := u.lineup,
    voyage := u.voyage, sat := u.sat,
    accounts := Vector.ofFn fun e =>
      { Account.initial with total := u.accounts[e].total, carry := u.accounts[e].carry,
                             residue := u.accounts[e].residue,
                             void := true },
    windowTimer := some (now + Config.fuelWindowTime), checkpointTimer := some (now + Config.checkpointTime) }

/-- The tanks evaluated, FUEL-SAT raised when SAT is set, and lineups and caps written, after either reset. -/
def fauStarts (s : State) : State :=
  let s1 := evalAllTanks s
  writeAllCaps (if s1.fau.sat then raiseAlarm .fuelSat .none s1 else s1)

/-! ## Meanings -/

/-- METER (R97). -/
def execMeter (node : Node) (totalizer : BitVec 32) (temperature : BitVec 16) (flags : Byte) (s : State) :
    Host.Outcome State Fault Refusal :=
  .next (whenRunning s (meterFrame node totalizer.toNat temperature.toInt flags))

/-- A class 5 frame of another kind or length, or of an unknown node (R97). -/
def execMalformedMeter (frame : Frame) (s : State) : Host.Outcome State Fault Refusal :=
  .next (whenRunning s (classFive frame))

/-- METER_SILENCE_TIMER_EXPIRY (R98). -/
def execMeterSilenceTimerExpiry (meter : Fin 12) (s : State) : Host.Outcome State Fault Refusal :=
  .next (whenRunning s fun s =>
    match s.fau.meters[meter.val]? with
    | none => s
    | some m => onExpiry m.silence s (meterSilent meter.val m))

/-- JUMP_LIST_AGE_OUT: a time leaves the list 10 minutes after it entered (R99). -/
def execJumpListAgeOut (meter : Fin 12) (s : State) : Host.Outcome State Fault Refusal :=
  .next (whenRunning s fun s =>
    match s.fau.meters[meter.val]? with
    | none => s
    | some m =>
      match m.jumps with
      | [] => s
      | t :: rest => onMeter meter.val ({ · with jumps := rest }) (s.upTo (t + Config.jumpListTime)))

/-- FUEL_WINDOW_TIMER_EXPIRY (R107). -/
def execFuelWindowTimerExpiry (s : State) : Host.Outcome State Fault Refusal :=
  .next (whenRunning s fun s => onExpiry s.fau.windowTimer s fun s =>
    (List.finRange 4).foldl endWindow (s.onFau ({ · with windowTimer := timerFor s Config.fuelWindowTime })))

/-- CHECKPOINT_TIMER_EXPIRY (R114). -/
def execCheckpointTimerExpiry (s : State) : Host.Outcome State Fault Refusal :=
  .next (whenRunning s fun s => onExpiry s.fau.checkpointTimer s fun s =>
    let s1 := s.onFau ({ · with checkpointTimer := timerFor s Config.checkpointTime })
    requestCheckpoint (snapshotOf s1.fau false) false s1)

end Sys2Proof.Machine
end

