-- ==== Sys2Proof/Machine/Propulsion.lean ====
section
/-! DEFINITION. The propulsion interface unit's commands: feedback, setpoints from H, timers and the refresh (chapter
3). -/

namespace Sys2Proof.Machine

/-! ## Feedback (R44, R47, R61) -/

def countUnknownFeedback (s : State) : State := s.onPiu fun p => { p with unknownFeedback := satInc p.unknownFeedback }

def countMalformedFeedback (s : State) : State :=
  s.onPiu fun p => { p with malformedFeedback := satInc p.malformedFeedback }

/-- The record stores a taken ENGINE-FB and restarts its timer. -/
def storeFeedback (i : Fin 6) (fb : EngineFeedback) (s : State) : State :=
  onEngine i (fun r => { r with feedback := some fb, timer := timerFor s Config.feedbackTime }) s

/-- ENGINE-WARNING by the overspeed and low oil flags of a taken ENGINE-FB (R47). -/
def warnEngine (i : Fin 6) (fb : EngineFeedback) (s : State) : State :=
  syncAlarm .engineWarning (.engine i) (fb.overspeed || fb.lowOil) s

/-- A retiring record leaves at its first neutral frame; every other one moves its availability (R46, R48). -/
def actOnFeedback (i : Fin 6) (fb : EngineFeedback) (s : State) : State :=
  let neutral := fb.gear == .neutral
  if s.piu.engines[i].retiring.isSome && neutral then unconfigureEngine i s
  else moveAvail i fb.shutdown neutral s

/-- The fuel rate of E1 to E4 handed to the FAU (R47). -/
def handFuelRate (i : Fin 6) (rate : Nat) (s : State) : State :=
  if h : i.val < 4 then engineFuel ⟨i.val, h⟩ rate s else s

/-- An ENGINE-FB taken by its record, in the order of R47. R47 raises ENGINE-WARNING at a taken frame and R46 clears it as a
retiring record becomes UNCONFIGURED, in no stated order: a frame that ends the record raises none (DESIGN CHOICE, log entry
57). -/
def takeEngineFb (i : Fin 6) (fb : EngineFeedback) (s : State) : State :=
  let s1 := handFuelRate i fb.rate (actOnFeedback i fb (storeFeedback i fb s))
  if s1.piu.engines[i].avail = .unconfigured then s1 else warnEngine i fb s1

/-- A well-formed ENGINE-FB (R44). -/
def engineFrame (node : Node) (rpm : Nat) (gear : Gear) (rate : Nat) (flags : Byte) (s : State) : State :=
  match engineByFeedback s node with
  | none => countUnknownFeedback s
  | some i =>
    takeEngineFb i { rpm := rpm, gear := gear, rate := rate, shutdown := flag flags 0, overspeed := flag flags 1,
                     lowOil := flag flags 2, time := s.now } s

/-- An ENGINE-FB with its gear byte (R47). -/
def engineFbFrame (node : Node) (rpm : Nat) (gear : Byte) (rate : Nat) (flags : Byte) (s : State) : State :=
  match gearOf gear with
  | none => countMalformedFeedback s
  | some g => engineFrame node rpm g rate flags s

/-- A RUDDER-FB taken by its record (R61, R62). Where one frame ends RUDDER-LOST and brings the deviation to 50 or below, the clear of
RUDDER-LOST is handed before that of RUDDER-FAULT: the order is the model's choice (log entry 84). -/
def takeRudderFb (i : Fin 3) (angle : Int) (s : State) : State :=
  let s1 := onRudder i (fun r =>
    { r with feedback := some { angle := angle, time := s.now }, timer := timerFor s Config.feedbackTime,
             avail := .available }) s
  evalDeviation i (clearAlarm .rudderLost (.rudder i) s1)

def rudderFbFrame (node : Node) (angle : Int) (s : State) : State :=
  match rudderByFeedback s node with
  | none => countUnknownFeedback s
  | some i => takeRudderFb i angle s

/-- A class 3 frame the FSW delivers (R47). -/
def classThree (f : Frame) (s : State) : State :=
  match f.kind.toNat, f.payload with
  | 1, [a, b, g, c, d, x] => engineFbFrame f.node (beNat [a, b]) g (beNat [c, d]) x s
  | 2, [a, b] => rudderFbFrame f.node (signed16 (beNat [a, b])) s
  | _, _ => countMalformedFeedback s

/-! ## Setpoints from H (R58, R59) -/

/-- The mapped engine record that a setpoint node names (R58). No check forbids two records with one setpoint node: the first of
E1 to E4 is named (DESIGN CHOICE, log entry 58). -/
def mappedEngine (s : State) (node : Node) : Option (Fin 6) :=
  (List.finRange 6).find? fun i =>
    decide (i.val < 4) && (engineEntry s i).configured && (engineEntry s i).source != .own &&
      (engineEntry s i).setNode == node.toNat

/-- RS is mapped and named by the node. -/
def mappedRudder (s : State) (node : Node) : Bool :=
  (rudderOf s 0).configured && (rudderOf s 0).fromXs && (rudderOf s 0).setNode == node.toNat

/-- The slot that an ENGINE-SET writes: NEUTRAL at idle while the record is not AVAILABLE, otherwise what the gear machine
answers, the rpm limited to its range and the cap bound (R59). -/
def mappedWrite (e : EngineEntry) (r : EngineRec) (gear : Gear) (rpm now : Nat) : EngineRec :=
  if r.avail = .available then
    let g := gearMachine e r gear now
    slotWritten r g (if g.1 = .neutral then e.idle else underCap e r g.1 (rpmInGear e g.1 rpm))
  else neutralWritten e now r

/-- The slot is marked fresh by the frame's fresh flag or by a change of its values (R59). -/
def mappedFresh (old new : EngineRec) (fresh : Bool) : Bool :=
  fresh || old.fresh || !old.filled || old.gear != new.gear || old.rpm != new.rpm

def writeMappedEngine (i : Fin 6) (gear : Gear) (rpm : Nat) (fresh : Bool) (s : State) : State :=
  let e := engineEntry s i
  onEngine i (fun r =>
    let w := mappedWrite e r gear rpm s.now
    { w with fresh := mappedFresh r w fresh }) s

def writeMappedRudder (angle : Int) (fresh : Bool) (s : State) : State :=
  let a := clampSym angle (rudderOf s 0).limit
  evalDeviation 0 (onRudder 0 (fun r =>
    { r with angle := some a, fresh := fresh || r.fresh || r.angle != some a }) s)

def discardSetpoint (s : State) : State := s.onPiu fun p => { p with hDiscarded := satInc p.hDiscarded }

/-- A class 2 frame delivered from H. A frame of another kind, length or gear is no setpoint frame and is discarded like one
that fails the conditions (log entry 28). -/
def classTwo (f : Frame) (s : State) : State :=
  match s.role with
  | .lead => s
  | .helper =>
    match f.kind.toNat, f.payload with
    | 1, [g, a, b, _, x] =>
      (match gearOf g, mappedEngine s f.node with
        | some gear, some i =>
          if isJoined s && flag x 1 then
            writeMappedEngine i gear (beNat [a, b]) (flag x 0) (setpointTaken s)
          else discardSetpoint s
        | _, _ => discardSetpoint s)
    | 2, [a, b, _, x] =>
      if isJoined s && flag x 1 && mappedRudder s f.node then
        writeMappedRudder (signed16 (beNat [a, b])) (flag x 0) (setpointTaken s)
      else discardSetpoint s
    | _, _ => discardSetpoint s

/-! ## Timers (R49, R61, R62) -/

/-- 600 ms without ENGINE-FB (R49). Of an engine that was FAULTED the clear of ENGINE-FAULT is handed before the raise of ENGINE-LOST:
R49 names the raise first and section 3.10 the clear, neither as an order (DESIGN CHOICE, log entry 84). -/
def engineSilent (i : Fin 6) (s : State) : State :=
  let faulted := s.piu.engines[i].avail == .faulted
  let s1 := setAvail i .lost 0 (onEngine i ({ · with timer := none }) s)
  raiseAlarm .engineLost (.engine i) (if faulted then clearAlarm .engineFault (.engine i) s1 else s1)

/-- 600 ms without RUDDER-FB (R61). -/
def rudderSilent (i : Fin 3) (s : State) : State :=
  raiseAlarm .rudderLost (.rudder i) (rudderLost i (onRudder i ({ · with timer := none }) s))

/-! ## The refresh (R53, R54) -/

/-- The lead-joined flag: set over H by a lead that is JOINED. -/
def leadJoined (s : State) : Bool := s.role == .lead && isJoined s

def engineSetFrame (node : Nat) (r : EngineRec) (joined : Bool) : Frame :=
  { cls := 2, node := BitVec.ofNat 6 node, kind := 1,
    payload := gearByte r.gear :: beBytes 2 r.rpm ++ [byteOf r.seq, setpointFlags r.fresh joined] }

def rudderSetFrame (node : Nat) (r : RudderRec) (angle : Int) (joined : Bool) : Frame :=
  { cls := 2, node := BitVec.ofNat 6 node, kind := 2,
    payload := beInt 2 angle ++ [byteOf r.seq, setpointFlags r.fresh joined] }

/-- The frame of an engine slot handed to its destination; one that enters clears the fresh flag and takes the next
sequence. -/
def sendEngine (s : State) (i : Fin 6) : State :=
  let r := s.piu.engines[i]
  if r.filled then
    let f := engineSetFrame (engineOf s i).setNode r (isX i && leadJoined s)
    match (if isX i then handLink f .piu s else handPort .p f .piu s) with
    | (s1, true) => onEngine i (fun r => { r with fresh := false, seq := (r.seq + 1) % 256 }) s1
    | (s1, false) => s1
  else s

def sendRudder (s : State) (i : Fin 3) : State :=
  let r := s.piu.rudders[i]
  match r.angle with
  | none => s
  | some a =>
    let f := rudderSetFrame (rudderOf s i).setNode r a (i == xs && leadJoined s)
    match (if i = xs then handLink f .piu s else handPort .p f .piu s) with
    | (s1, true) => onRudder i (fun r => { r with fresh := false, seq := (r.seq + 1) % 256 }) s1
    | (s1, false) => s1

/-- A setpoint frame without acknowledge (R54). -/
def setpointFailed (s : State) : State := s.onPiu fun p => { p with unackedSetpoint := satInc p.unackedSetpoint }

/-! ## Values after a reset (R45) -/

def Piu.afterReset (t : Option AllocTable) (now : Nat) : Piu :=
  { Piu.initial with
    engines := Vector.ofFn fun i =>
      let e := t.elim noEngine (·.engines[i])
      { EngineRec.initial with
        avail := if e.configured then .lost else .unconfigured, neutralSince := now, rpm := e.idle,
        timer := if e.configured then some (now + Config.feedbackTime) else none },
    rudders := Vector.ofFn fun i =>
      let e := t.elim noRudder (·.rudders[i])
      { RudderRec.initial with
        avail := if e.configured then .lost else .unconfigured,
        timer := if e.configured then some (now + Config.feedbackTime) else none },
    refresh := some (now + Config.refreshTime) }

/-! ## Meanings -/

/-- ENGINE-FB (R47). -/
def execEngineFb (node : Node) (rpm : BitVec 16) (gear : Byte) (rate : BitVec 16) (flags : Byte) (s : State) :
    Host.Outcome State Fault Refusal :=
  .next (whenRunning s (engineFbFrame node rpm.toNat gear rate.toNat flags))

/-- RUDDER-FB (R61). -/
def execRudderFb (node : Node) (angle : BitVec 16) (s : State) : Host.Outcome State Fault Refusal :=
  .next (whenRunning s (rudderFbFrame node angle.toInt))

/-- A class 3 frame of another kind, length or gear (R47). -/
def execMalformedFeedback (frame : Frame) (s : State) : Host.Outcome State Fault Refusal :=
  .next (whenRunning s (classThree frame))

/-- A class 2 frame delivered from H (R58, R59). -/
def execHSetpointFrame (frame : Frame) (s : State) : Host.Outcome State Fault Refusal :=
  .next (whenRunning s (classTwo frame))

/-- ENGINE_FEEDBACK_TIMER_EXPIRY (R49). -/
def execEngineFeedbackTimerExpiry (engine : Fin 6) (s : State) : Host.Outcome State Fault Refusal :=
  .next (whenRunning s fun s => onExpiry s.piu.engines[engine].timer s (engineSilent engine))

/-- RUDDER_FEEDBACK_TIMER_EXPIRY (R61). -/
def execRudderFeedbackTimerExpiry (rudder : Fin 3) (s : State) : Host.Outcome State Fault Refusal :=
  .next (whenRunning s fun s => onExpiry s.piu.rudders[rudder].timer s (rudderSilent rudder))

/-- DEVIATION_TIMER_EXPIRY (R62). -/
def execDeviationTimerExpiry (rudder : Fin 3) (s : State) : Host.Outcome State Fault Refusal :=
  .next (whenRunning s fun s => onExpiry s.piu.rudders[rudder].deviation s fun s =>
    raiseAlarm .rudderFault (.rudder rudder) (onRudder rudder ({ · with deviation := none }) s))

/-- REFRESH_TIMER_EXPIRY: one frame for each slot that is not empty, in the order of R53. -/
def execRefreshTimerExpiry (s : State) : Host.Outcome State Fault Refusal :=
  .next (whenRunning s fun s => onExpiry s.piu.refresh s fun s =>
    let s1 := s.onPiu ({ · with refresh := timerFor s Config.refreshTime })
    (List.finRange 3).foldl sendRudder ((List.finRange 6).foldl sendEngine s1))

end Sys2Proof.Machine
end

