-- ==== Sys2Proof/Machine/Link.lean ====
section
/-! DEFINITION. The helper link controller: training, the link states and their alarms, credits, sending, and the meanings
of its commands but DATA, which meets the frame switch (chapter 10). -/

namespace Sys2Proof.Machine

/-! ## Lanes -/

def onLanes (f : LaneCtl → LaneCtl) (s : State) : State :=
  s.onHlc fun h => { h with lane0 := f h.lane0, lane1 := f h.lane1 }

def laneInUse (s : State) (l : Lane) : Bool := s.hlc.inUse.elim false fun x => laneSetHas x l

/-- The lane of a queue's frames: at width 2 the lower lane for Q0 and Q2 and the other for Q1 and Q3, at width 1 the one
lane in use (R170). -/
def laneOfQueue (s : State) (q : Fin 4) : Option Lane :=
  match s.hlc.inUse with
  | none => none
  | some x =>
    if x.h0 && x.h1 then some (if q.val % 2 = 0 then .h0 else .h1)
    else if x.h0 then some .h0
    else if x.h1 then some .h1
    else none

/-- A symbol of a received frame restarts the lane's loss timer; a part that is DOWN watches no lane. -/
def heardOn (l : Lane) (s : State) : State :=
  if s.hlc.state = .down then s else onLane l ({ · with loss := timerFor s Config.laneLossTime }) s

/-- The TS a side sends (R172, section 10.1). -/
def ownTs (s : State) : Ts :=
  let x := s.hlc.progress
  { role := s.role, fixed := x.good.isSome, good := x.good.getD ⟨false, false⟩, ready := x.chosen.isSome,
    chosen := x.chosen.getD ⟨false, false⟩ }

/-- A TS begins on each lane not marked bad, and a marked lane is silent (R170, R172). -/
def beginTs (ts : Ts) (s : State) : State :=
  onLanes (fun x => { x with out := if x.bad then .silent else .frame (.ts ts) }) s

/-! ## Queues (R178, R180, R181) -/

/-- A control frame placed on the lane of its queue. -/
def placeControl (q : Fin 4) (f : Control) (s : State) : State :=
  match laneOfQueue s q with
  | none => s
  | some l => onLane l (fun x => { x with control := x.control ++ [f] }) s

/-- A CREDIT-RETURN placed, unless one waits (R180). -/
def placeReturn (q : Fin 4) (s : State) : State :=
  match laneOfQueue s q with
  | none => s
  | some l =>
    if (laneOf s l).control.contains (.ret q) then s
    else onLane l (fun x => { x with control := x.control ++ [.ret q] }) s

/-- A new announce of a queue (R178). -/
def makeAnnounce (q : Fin 4) (s : State) : State :=
  let x := s.hlc.queues[q]
  let epoch := (x.epoch + 1) % 256
  let free := Config.linkDepth - x.rx.length
  placeControl q (.announce q epoch free)
    (onQueue q (fun x =>
      { x with epoch := epoch, announced := free, freed := 0, expected := 0, confirmed := false }) s)

/-- Entries freed at a queue: its freed total grows, and while UP an enabled queue's return is placed (R180). R180 places one also for
a PENDING queue with its own announce made; outside UP, where an enabled queue may still hold the announce of the last UP, the model
places none (DESIGN CHOICE, log entry 97). The total is kept mod 256 also here, and so in READ-STATUS, where R180 says it of the frames
(log entry 87). -/
def addFreed (q : Fin 4) (n : Nat) (s : State) : State :=
  let s1 := onQueue q (fun x => { x with freed := (x.freed + n) % 256 }) s
  if s1.hlc.state = .up ∧ s1.hlc.queues[q].state ≠ .disabled then placeReturn q s1 else s1

/-- An enabled queue becomes PENDING: no credit, the partner's announce forgotten, its own unconfirmed. -/
def pendQueue (x : LinkQueue) : LinkQueue :=
  match x.state with
  | .disabled => { x with credit := 0 }
  | .pending | .opened => { x with state := .pending, credit := 0, partner := none, confirmed := false }

def pendQueues (s : State) : State := s.onHlc fun h => { h with queues := h.queues.map pendQueue }

/-- The transmit queues flushed, each frame counted (R181). The FLUSHED reports act on nothing (R54, R162). -/
def flushLink (s : State) : State :=
  s.onHlc fun h =>
    { h with flushDrop := satAdd h.flushDrop ((h.queues.toList.map (·.tx.length)).sum),
             queues := h.queues.map fun x => { x with tx := [] } }

/-- A queue opens once the partner's announce is taken and its own is confirmed (R178). -/
def openIfDone (x : LinkQueue) : LinkQueue :=
  if x.confirmed && x.partner.isSome then { x with state := .opened } else x

/-! ## Link states (R172 to R176, R184) -/

/-- What a lane holds for one training; nothing is sent on it. The credit control frames that wait on it are discarded, where R176 says
only that the HLC stops sending them (log entry 86). -/
def laneTrains (x : LaneCtl) : LaneCtl :=
  { x with tsRun := 0, good := false, control := [], sending := none }

/-- A lane at DOWN: silent, unmarked, its error list empty; the control frames that wait on it are discarded (log entry 86). -/
def laneDown (x : LaneCtl) : LaneCtl := { LaneCtl.initial with crcError := x.crcError }

/-- The entry into DOWN, in the order of R175. -/
def enterDown (s : State) : State :=
  let old := s.hlc.state
  let s1 := (onLanes laneDown s).onHlc fun h =>
    { h with state := .down, inUse := none, training := none, goodFix := none, tsTimer := none,
             creditRefresh := none, progress := Training.initial }
  let s2 := joinLinkLost (pendQueues (flushLink s1))
  let s3 := match old with
    | .up | .retraining => raiseAlarm .linkDown .linkH s2
    | .roleMismatch => clearAlarm .linkRoleMismatch .linkH s2
    | .down | .training => s2
  s3.onHlc ({ · with retry := timerFor s3 Config.retryAfterDown })

/-- What TRAINING and RETRAINING start: the training timer, the fixing of the good set, and TS every 100 µs (R172). The
first TS goes out 100 µs after the entry, and a lane's output stays as it is until then (log entry 71). -/
def startTraining (state : LinkState) (s : State) : State :=
  (onLanes laneTrains s).onHlc fun h =>
    { h with state := state, progress := Training.initial, retry := none,
             training := timerFor s Config.trainingTime, goodFix := timerFor s Config.goodSetTime,
             tsTimer := timerFor s Config.tsPeriod, creditRefresh := none }

/-- The entry into TRAINING from DOWN (R172). -/
def enterTraining (s : State) : State := startTraining .training s

/-- A DATA frame cut short on a lane leaves its transmit queue (R176). -/
def cutShort (l : Lane) (s : State) : State :=
  match (laneOf s l).sending with
  | none => s
  | some q => onQueue q (fun x => { x with tx := x.tx.drop 1 }) s

/-- The entry into RETRAINING from UP (R176). -/
def enterRetraining (s : State) : State := startTraining .retraining (pendQueues (cutShort .h1 (cutShort .h0 s)))

/-- The entry into ROLE-MISMATCH (R173). The TS sent there carry the role; that they carry fixed no, ready no and empty sets is
the model's choice (log entry 85). -/
def enterRoleMismatch (s : State) : State :=
  let s1 := (onLanes laneTrains s).onHlc fun h =>
    { h with state := .roleMismatch, training := none, goodFix := none, progress := Training.initial }
  raiseAlarm .linkRoleMismatch .linkH (joinLinkLost (pendQueues (flushLink s1)))

/-- The alarms of the entry into UP (R184). A link that comes up at width 1 with the other lane unused raises LINK-DEGRADED for that
lane too, and both stay raised until width 2 (log entry 75). -/
def upAlarms (x : LaneSet) (s : State) : State :=
  let s1 := clearAlarm .linkDown .linkH s
  if x.h0 && x.h1 then clearAllOf .linkDegraded s1
  else raiseAlarm .linkDegraded (.lane (if x.h0 then .h1 else .h0)) s1

/-- The entry into UP with a chosen set: lanes in use send idle symbols and are watched, and each enabled queue is
announced (R172, R178). A lane not in use is silent, after the TS it may still send (log entries 26 and 88). The 20 ms loss watch of a
lane in use (R174, R175) starts anew here, also for a lane silent since before, where the spec does not say whether it runs on from the
lane's last symbol (DESIGN CHOICE, log entry 94). -/
def enterUp (x : LaneSet) (s : State) : State :=
  let lane := fun (used : Bool) (c : LaneCtl) =>
    { c with out := if used then .idleSymbols else .silent,
             loss := if used then timerFor s Config.laneLossTime else none }
  let s1 := s.onHlc fun h =>
    { h with state := .up, inUse := some x, training := none, goodFix := none, tsTimer := none,
             creditRefresh := timerFor s Config.creditRefreshTime, lane0 := lane x.h0 h.lane0,
             lane1 := lane x.h1 h.lane1 }
  let s2 := (List.finRange 4).foldl (fun s q =>
    if s.hlc.queues[q].state = .disabled then s else makeAnnounce q s) s1
  upAlarms x s2

/-- The side enters UP when it has sent a ready TS and has received one whose chosen set equals its own (R172). -/
def upIfAgreed (s : State) : State :=
  let x := s.hlc.progress
  match x.chosen with
  | none => s
  | some c => if x.readySent && x.partnerReady == some c then enterUp c s else s

/-- The chosen set formed from the own good set and the latest partner report; an empty one takes the link DOWN. UP asks for one
ready TS sent, whatever set it carried (R172). -/
def formChosen (s : State) : State :=
  let x := s.hlc.progress
  match x.good, x.partnerGood with
  | some g, some other =>
    let c := laneSetInter g other
    if laneSetEmpty c then enterDown s
    else
      upIfAgreed (s.onHlc fun h => { h with progress := { x with chosen := some c } })
  | _, _ => s

/-- What a TS of a partner with the other role tells (R172). -/
def noteTs (l : Lane) (ts : Ts) (s : State) : State :=
  let s1 := onLane l (fun x => { x with tsRun := min 4 (x.tsRun + 1), good := x.good || decide (3 ≤ x.tsRun) }) s
  let s2 := s1.onHlc fun h =>
    { h with progress := { h.progress with
        roleSeen := true,
        partnerGood := if ts.fixed then some ts.good else h.progress.partnerGood,
        partnerReady := if ts.ready then some ts.chosen else h.progress.partnerReady } }
  let x := s2.hlc.progress
  if x.chosen.isNone || (ts.ready && x.chosen != some ts.chosen) then formChosen s2 else upIfAgreed s2

/-- A valid TS in TRAINING or RETRAINING: the first compares the roles (R173). -/
def trainingTs (l : Lane) (ts : Ts) (s : State) : State :=
  if !s.hlc.progress.roleSeen && ts.role == s.role then enterRoleMismatch s else noteTs l ts s

/-- A valid TS by the link state. The TS that starts a training is its first (log entry 27). -/
def takeTs (l : Lane) (ts : Ts) (s : State) : State :=
  match s.hlc.state with
  | .down => trainingTs l ts (heardOn l (enterTraining s))
  | .up => trainingTs l ts (heardOn l (enterRetraining s))
  | .training | .retraining => trainingTs l ts (heardOn l s)
  | .roleMismatch => heardOn l s

/-- A lane is marked bad while UP. At width 1 it is the one lane in use, and the retraining finds a width of 0: no lane enters its
good set, also not a lane that is not marked (R174, log entry 82). -/
def markBad (l : Lane) (s : State) : State :=
  let atWidth1 := s.hlc.inUse.elim false fun x => laneSetWidth x == 1
  (enterRetraining (onLane l ({ · with bad := true }) s)).onHlc fun h =>
    { h with progress := { h.progress with spent := atWidth1 } }

/-- A received link frame with a bad CRC or length (R170, R174); in a training it breaks the run of TS. That a bad length enters the
lane's error list as a bad CRC does is the model's reading (log entry 81). -/
def badLinkFrame (l : Lane) (s : State) : State :=
  let s1 := onLane l (fun x => { x with crcError := satInc x.crcError, tsRun := 0 }) (heardOn l s)
  if s1.hlc.state = .up ∧ laneInUse s1 l = true then
    let s2 := onLane l (fun x => { x with errors := x.errors ++ [s.now] }) s1
    if (laneOf s2 l).errors.length < 8 then s2 else markBad l s2
  else s1

/-- A received frame other than a TS: it is heard, and breaks a run of TS. -/
def otherFrame (l : Lane) (s : State) : State := onLane l ({ · with tsRun := 0 }) (heardOn l s)

/-! ## Credit frames (R178, R180) -/

def takeAnnounce (q : Fin 4) (epoch free : Nat) (s : State) : State :=
  let x := s.hlc.queues[q]
  if x.state = .disabled then s
  else if free = 255 then makeAnnounce q (onQueue q pendQueue s)
  else if x.partner = some epoch then placeControl q (.confirm q epoch) s
  else placeControl q (.confirm q epoch)
    (onQueue q (fun x =>
      openIfDone { x with credit := free, sendSeq := 0, lastReturn := 0, partner := some epoch }) s)

def takeConfirm (q : Fin 4) (epoch : Nat) (s : State) : State :=
  let x := s.hlc.queues[q]
  if x.state ≠ .disabled ∧ x.epoch = epoch then onQueue q (fun x => openIfDone { x with confirmed := true }) s else s

def takeReturn (q : Fin 4) (epoch total : Nat) (s : State) : State :=
  let x := s.hlc.queues[q]
  if x.state = .opened ∧ x.partner = some epoch then
    onQueue q (fun x =>
      { x with credit := x.credit + (total + 256 - x.lastReturn) % 256, lastReturn := total }) s
  else s

/-- A credit frame acts while the link is UP only (R176, R178). -/
def whenUp (s : State) (k : State → State) : State := if s.hlc.state = .up then k s else s

/-! ## Sending (R170, R179) -/

/-- A control frame as it goes on the lane: a return takes the epoch and total of the moment (R180). -/
def controlFrame (s : State) (f : Control) : LinkFrame :=
  match f with
  | .announce q epoch free => .announce q epoch free
  | .confirm q epoch => .confirm q epoch
  | .ret q => .ret q s.hlc.queues[q].epoch s.hlc.queues[q].freed

def sendControl (l : Lane) (s : State) : State :=
  let x := laneOf s l
  if laneInUse s l && x.sending.isNone then
    match x.control with
    | [] => s
    | f :: rest => onLane l (fun x => { x with control := rest, out := .frame (controlFrame s f) }) s
  else s

/-- The queue a lane sends from: the lowest-numbered of its queues that is OPEN, holds a frame and has credit (R179). -/
def sendableQueue (s : State) (l : Lane) : Option (Fin 4) :=
  (List.finRange 4).find? fun q =>
    let x := s.hlc.queues[q]
    laneOfQueue s q == some l && x.state == .opened && !x.tx.isEmpty && decide (0 < x.credit)

def sendData (l : Lane) (s : State) : State :=
  let x := laneOf s l
  if laneInUse s l && x.sending.isNone && x.control.isEmpty then
    match sendableQueue s l with
    | none => s
    | some q =>
      let y := s.hlc.queues[q]
      match y.tx with
      | [] => s
      | e :: _ =>
        onLane l (fun x => { x with sending := some q, out := .frame (.data q y.sendSeq e.frame) })
          (onQueue q (fun y => { y with credit := y.credit - 1, sendSeq := (y.sendSeq + 1) % 256 }) s)
  else s

def endData (l : Lane) (s : State) : State :=
  match (laneOf s l).sending with
  | none => s
  | some q =>
    onLane l (fun x => { x with sending := none, out := .idleSymbols })
      (onQueue q (fun y => { y with tx := y.tx.drop 1 }) s)

/-! ## Changes of the WINDOW table (R182) -/

/-- A frame of a disabled queue on a lane is cut off: the lane goes idle, and the frame counts as flushed. R182 leaves this open; it
is the model's choice (log entry 83). -/
def stopSending (q : Fin 4) (l : Lane) (s : State) : State :=
  if (laneOf s l).sending = some q then onLane l (fun x => { x with sending := none, out := .idleSymbols }) s else s

/-- An enabled queue becomes DISABLED (R182). That the withdrawn announce leaves the freed total and the expected sequence is the
model's reading (log entry 42). -/
def disableQueue (q : Fin 4) (s : State) : State :=
  let x := s.hlc.queues[q]
  let s1 := s.onHlc fun h =>
    { h with flushDrop := satAdd h.flushDrop x.tx.length, disabledDrop := satAdd h.disabledDrop x.rx.length }
  let s2 := onQueue q (fun x =>
    { x with state := .disabled, tx := [], rx := [], credit := 0, partner := none, confirmed := false }) s1
  let s3 := stopSending q .h1 (stopSending q .h0 s2)
  whenUp s3 fun s =>
    let epoch := (x.epoch + 1) % 256
    placeControl q (.announce q epoch 255) (onQueue q ({ · with epoch := epoch }) s)

def enableQueue (q : Fin 4) (s : State) : State :=
  whenUp (onQueue q ({ · with state := .pending }) s) (makeAnnounce q)

/-- The H queue enables of a table: Q0 always, Q1 to Q3 none while WINDOW is unloaded. -/
def queueEnabled (t : Option WindowTable) (q : Fin 4) : Bool := t.elim (q == 0) (·.enables[q])

/-- The new enables taken at a WINDOW swap, in queue order. -/
def swapEnables (s : State) : State :=
  (List.finRange 4).foldl (fun s q =>
    let on := queueEnabled s.fsw.table q
    let off := s.hlc.queues[q].state == .disabled
    if on && off then enableQueue q s else if !on && !off then disableQueue q s else s) s

/-! ## Values after a reset (R171) -/

def Hlc.afterReset (t : Option WindowTable) (now : Nat) : Hlc :=
  { Hlc.initial with
    queues := Vector.ofFn fun q => LinkQueue.initial (if queueEnabled t q then .pending else .disabled),
    retry := some (now + Config.retryAfterReset) }

/-! ## Meanings -/

/-- RETRY_TIMER_EXPIRY (R172). -/
def execRetryTimerExpiry (s : State) : Host.Outcome State Fault Refusal :=
  .next (whenRunning s fun s => onExpiry s.hlc.retry s enterTraining)

/-- TS_RECEIVED (R172, R173, R176). -/
def execTsReceived (lane : Lane) (ts : Ts) (s : State) : Host.Outcome State Fault Refusal :=
  .next (whenRunning s (takeTs lane ts))

/-- TS_SEND_TIMER: a TS on each lane not marked bad (R172). Where the partner's equal ready TS has come before, the ready TS that goes
out here makes the agreement whole and the side enters UP; it goes out whole on its lanes all the same, for the partner's own
agreement. That a TS counts as sent from the moment it begins is the model's choice (log entry 88). -/
def execTsSendTimer (s : State) : Host.Outcome State Fault Refusal :=
  .next (whenRunning s fun s => onExpiry s.hlc.tsTimer s fun s =>
    let ts := ownTs s
    let s1 := s.onHlc fun h =>
      { h with tsTimer := timerFor s Config.tsPeriod,
               progress := { h.progress with readySent := h.progress.readySent || ts.ready } }
    beginTs ts (upIfAgreed s1))

/-- GOOD_SET_FIX: the good lanes not marked bad, 2 ms after the entry (R172, R176), and no lane in a spent retraining, whose chosen
set is then empty and takes the link DOWN (R174, log entry 82). -/
def execGoodSetFix (s : State) : Host.Outcome State Fault Refusal :=
  .next (whenRunning s fun s => onExpiry s.hlc.goodFix s fun s =>
    let usable := fun (x : LaneCtl) => x.good && !x.bad && !s.hlc.progress.spent
    formChosen (s.onHlc fun h =>
      { h with goodFix := none,
               progress := { h.progress with good := some ⟨usable h.lane0, usable h.lane1⟩ } }))

/-- TRAINING_TIMER_EXPIRY (R175). -/
def execTrainingTimerExpiry (s : State) : Host.Outcome State Fault Refusal :=
  .next (whenRunning s fun s => onExpiry s.hlc.training s enterDown)

/-- LANE_LOSS_TIMER_EXPIRY: while UP a lane in use is marked bad when the other lane in use delivers; with no lane
delivering the link goes DOWN (R174, R175). -/
def execLaneLossTimerExpiry (lane : Lane) (otherDelivers : Bool) (s : State) : Host.Outcome State Fault Refusal :=
  .next (whenRunning s fun s => onExpiry (laneOf s lane).loss s fun s =>
    let s1 := onLane lane ({ · with loss := none }) s
    let other := otherDelivers && laneInUse s1 (otherLane lane)
    match s1.hlc.state with
    | .up => if laneInUse s1 lane then (if other then markBad lane s1 else enterDown s1) else s1
    | .retraining => if laneInUse s1 lane && !other then enterDown s1 else s1
    | .roleMismatch => if otherDelivers then s1 else enterDown s1
    | .down | .training => s1)

/-- A link frame with a bad CRC or a length above 8 (R170, R174). -/
def execLinkFrameCrcError (lane : Lane) (s : State) : Host.Outcome State Fault Refusal :=
  .next (whenRunning s (badLinkFrame lane))

/-- LANE_ERROR_AGE_OUT: a time leaves the list 1000 ms after it entered (R174). -/
def execLaneErrorAgeOut (lane : Lane) (s : State) : Host.Outcome State Fault Refusal :=
  .next (whenRunning s fun s =>
    match (laneOf s lane).errors with
    | [] => s
    | t :: rest => onLane lane ({ · with errors := rest }) (s.upTo (t + Config.laneErrorTime)))

/-- CREDIT-ANNOUNCE (R178). -/
def execCreditAnnounce (lane : Lane) (queue : Fin 4) (epoch free : Byte) (s : State) :
    Host.Outcome State Fault Refusal :=
  .next (whenRunning s fun s => whenUp (otherFrame lane s) (takeAnnounce queue epoch.toNat free.toNat))

/-- CREDIT-CONFIRM (R178). -/
def execCreditConfirm (lane : Lane) (queue : Fin 4) (epoch : Byte) (s : State) : Host.Outcome State Fault Refusal :=
  .next (whenRunning s fun s => whenUp (otherFrame lane s) (takeConfirm queue epoch.toNat))

/-- CREDIT-RETURN (R180). -/
def execCreditReturn (lane : Lane) (queue : Fin 4) (epoch total : Byte) (s : State) :
    Host.Outcome State Fault Refusal :=
  .next (whenRunning s fun s => whenUp (otherFrame lane s) (takeReturn queue epoch.toNat total.toNat))

/-- CREDIT_REFRESH_TIMER_EXPIRY: the unconfirmed announces again, and a return for each OPEN queue (R178, R180). -/
def execCreditRefreshTimerExpiry (s : State) : Host.Outcome State Fault Refusal :=
  .next (whenRunning s fun s => onExpiry s.hlc.creditRefresh s fun s =>
    let s1 := s.onHlc ({ · with creditRefresh := timerFor s Config.creditRefreshTime })
    (List.finRange 4).foldl (fun s q =>
      let x := s.hlc.queues[q]
      match x.state with
      | .disabled => s
      | .pending => if x.confirmed then s else placeControl q (.announce q x.epoch x.announced) s
      | .opened => placeReturn q (if x.confirmed then s else placeControl q (.announce q x.epoch x.announced) s)) s1)

/-- LINK_CONTROL_SEND: a waiting control frame goes on the lane (R170). -/
def execLinkControlSend (lane : Lane) (s : State) : Host.Outcome State Fault Refusal :=
  .next (whenRunning s fun s => whenUp s (sendControl lane))

/-- DATA_SEND (R179). -/
def execDataSend (lane : Lane) (s : State) : Host.Outcome State Fault Refusal :=
  .next (whenRunning s fun s => whenUp s (sendData lane))

/-- DATA_SEND_END: the frame sent whole leaves its queue (R179). -/
def execDataSendEnd (lane : Lane) (s : State) : Host.Outcome State Fault Refusal :=
  .next (whenRunning s fun s => whenUp s (endData lane))

end Sys2Proof.Machine
end

