-- ==== Sys2Proof/Machine/Switch.lean ====
section
/-! DEFINITION. The taking side of the frame switch: the arbiter and the WINDOW swap, with the meaning of DATA, whose
placement the arbiter may meet (R153, R154, R165, R166, R179). -/

namespace Sys2Proof.Machine

/-! ## The arbiter (R153) -/

/-- The ports in the order the arbiter looks at them, from the one after the last served. -/
def turnsAfter (x : PortName) : List PortName :=
  match x with
  | .w => [.p, .k, .h, .w]
  | .p => [.k, .h, .w, .p]
  | .k => [.h, .w, .p, .k]
  | .h => [.w, .p, .k, .h]

/-- The receive queues of a port; a DISABLED queue of the link holds no frame. -/
def rxOf (s : State) (x : PortName) (q : Fin 4) : List Frame :=
  match x with
  | .w => s.pcw.rx[q]
  | .p => s.pcp.rx[q]
  | .k => s.pck.rx[q]
  | .h => if s.hlc.queues[q].state = .disabled then [] else s.hlc.queues[q].rx

/-- The head frame of a port's lowest-numbered non-empty queue. -/
def nextOf (s : State) (x : PortName) : Option (PortName × Fin 4 × Frame) :=
  (List.finRange 4).findSome? fun q => (rxOf s x q).head?.map fun f => (x, q, f)

/-- The frame whose turn it is. -/
def nextTurn (s : State) : Option (PortName × Fin 4 × Frame) := (turnsAfter s.fsw.lastServed).findSome? (nextOf s)

def dropRx (q : Fin 4) (c : PortCtl) : PortCtl := { c with rx := updAt c.rx q (·.drop 1) }

/-- The entry that a take frees; one of the link counts toward the credits returned (R154, R180). -/
def freeEntry (x : PortName) (q : Fin 4) (s : State) : State :=
  match x with
  | .w => s.onPort .w (dropRx q)
  | .p => s.onPort .p (dropRx q)
  | .k => s.onPort .k (dropRx q)
  | .h => addFreed q 1 (onQueue q (fun y => { y with rx := y.rx.drop 1 }) s)

/-- The arbiter takes a frame when the switch is free and one waits; its switching lasts 200 µs (R153, R154). -/
def arbiterTake (s : State) : State :=
  match s.fsw.inSwitch with
  | some _ => s
  | none =>
    match nextTurn s with
    | none => s
    | some (x, q, f) =>
      (freeEntry x q s).onFsw fun w =>
        { w with inSwitch := some { frame := f, ingress := x, deadline := s.now + Config.switchingTime },
                 lastServed := x }

/-! ## The WINDOW swap (R165, R166) -/

/-- The new windows, defaults and node set, and in the same event the class maps of the ports and the enables of the link;
then the commit's response. -/
def windowSwap (s : State) : State :=
  let s1 := s.onFsw fun w =>
    { w with table := activeWindow s, commit := activeCommit s .window, swapWaiting := false }
  answerCommit .window (swapEnables s1)

/-- A WINDOW commit marked for its swap: at once while the switch is free, at the end of the switching otherwise. -/
def markWindow (s : State) : State :=
  match s.fsw.inSwitch with
  | none => windowSwap s
  | some _ => s.onFsw ({ · with swapWaiting := true })

/-! ## DATA (R179) -/

/-- A DATA frame that follows the sequence: placed by the own H class map, discarded when the map differs, dropped when the
queue is full. -/
def placeData (q : Fin 4) (f : Frame) (s : State) : State :=
  if classQueue s .h f.cls ≠ q then addFreed q 1 (s.onHlc fun h => { h with mapMismatch := satInc h.mapMismatch })
  else if s.hlc.queues[q].rx.length < Config.linkDepth then onQueue q (fun x => { x with rx := x.rx ++ [f] }) s
  else addFreed q 1 (onQueue q (fun x => { x with overrun := satInc x.overrun }) s)

/-- A gap of `g` lost frames. -/
def noteGap (q : Fin 4) (g : Nat) (s : State) : State :=
  if g = 0 then s else addFreed q g (onQueue q (fun x => { x with lostFrames := satAdd x.lostFrames g }) s)

/-- A DATA frame while UP (R179). -/
def takeData (q : Fin 4) (seq : Nat) (f : Frame) (s : State) : State :=
  let x := s.hlc.queues[q]
  if x.state = .disabled then
    placeControl q (.announce q x.epoch 255) (s.onHlc fun h => { h with disabledDrop := satInc h.disabledDrop })
  else
    let g := (seq + 256 - x.expected) % 256
    if 32 < g then enterRetraining (s.onHlc fun h => { h with sequenceError := satInc h.sequenceError })
    else
      let s1 := noteGap q g s
      placeData q f (onQueue q (fun x => { x with expected := (seq + 1) % 256 }) s1)

/-- DATA; a payload above 8 bytes is a bad length (R170, R179). -/
def execData (lane : Lane) (queue : Fin 4) (seq : Byte) (frame : Frame) (s : State) :
    Host.Outcome State Fault Refusal :=
  .next (whenRunning s fun s =>
    if 8 < frame.payload.length then badLinkFrame lane s
    else arbiterTake (whenUp (otherFrame lane s) (takeData queue seq.toNat frame)))

end Sys2Proof.Machine
end

