-- ==== Sys2Proof/Machine/Reset.lean ====
section
/-! DEFINITION. Supply and resets: the loss of supply, the start-up scan, the core reset, and the values every unit takes
(R2, R21, R45, R67, R118, R119, R130 to R133, R152, R167, R171, R199, R204). -/

namespace Sys2Proof.Machine

/-! ## What the units take at a reset -/

/-- Every unit but the FAU and the NVS at its reset values, with the tables of the active banks; times count from now, and
the raised set is empty. The sticky fault record is the one given. -/
def unitsReset (sticky : Vector Bool 27) (s : State) : State :=
  let alloc := activeAlloc s
  let window := activeWindow s
  { s with
    power := .run, origin := s.now, csu := Csu.initial,
    tau := { Tau.initial with alloc := alloc, timer := timerFor s Config.cycleTime },
    piu := Piu.afterReset (alloc.map limitAlloc) s.now,
    cmu := Cmu.afterReset ((activeMakeup s).getD []) (activeCoupling s) s.now,
    pcw := PortCtl.initial, pcp := PortCtl.initial, pck := PortCtl.initial,
    fsw := { Fsw.initial with table := window, commit := activeCommit s .window },
    hlc := Hlc.afterReset window s.now,
    mgu := { Mgu.initial with sticky := sticky, summary := timerFor s Config.summaryTime } }

/-! ## The core reset (R133, R199) -/

/-- The core reset begins: an open load context is aborted (R193), the store is interrupted and every unit is quiet, its volatile state
gone; the retained domain (the FAU's accounts and the sticky fault record) stays, and so do the active banks and the lock state. -/
def startCoreReset (s : State) : State :=
  let s1 := interruptStore (spoilLoad s)
  { s1 with
    power := .coreReset, csu := Csu.initial, tau := Tau.initial, piu := Piu.initial, cmu := Cmu.initial,
    fau := { s1.fau with windowTimer := none, checkpointTimer := none },
    pcw := PortCtl.initial, pcp := PortCtl.initial, pck := PortCtl.initial, fsw := Fsw.initial,
    hlc := Hlc.initial, mgu := { Mgu.initial with sticky := s1.mgu.sticky } }

/-- The core reset ends: the slots are read again, and the units start (R119, R133). -/
def endCoreReset (s : State) : State :=
  let s1 := unitsReset s.mgu.sticky (s.onNvs rereadSlots)
  fauStarts (s1.onFau fun u => u.afterCore s1.now)

/-! ## Supply (R130 to R133) -/

/-- What survives a loss of supply: the banks, the lock flags and the slots, as an interruption leaves them. -/
def storeOnly (n : Nvs) : Nvs := { Nvs.initial with banks := n.banks, flags := n.flags, slots := n.slots }

/-- The supply is lost: the store is interrupted (R133), everything else is gone. R193 names no abort here: the bank of an open load
context is left as its bytes stand (log entry 91). -/
def loseSupply (s : State) : State :=
  let s1 := interruptStore s
  { s1 with
    power := .off, csu := Csu.initial, tau := Tau.initial, piu := Piu.initial, cmu := Cmu.initial,
    fau := Fau.initial, nvs := storeOnly s1.nvs, pcw := PortCtl.initial, pcp := PortCtl.initial,
    pck := PortCtl.initial, fsw := Fsw.initial, hlc := Hlc.initial, mgu := Mgu.initial }

/-- ACCOUNT-GAP unless the recovered slot carries the closing flag; its subject is that slot, or none (R132). -/
def accountGap (s : State) : State :=
  match s.nvs.newest with
  | none => raiseAlarm .accountGap .none s
  | some n =>
    if (slotSnapshot s.nvs.slots[n.slot]).closing then s else raiseAlarm .accountGap (.slot n.slot) s

/-- The scan ends: it hands the tables, the lock states and the recovered snapshot, the units take their reset values, and
ACCOUNT-GAP is raised when due, after the alarms of the FAU's start (R118, R130 to R132; the order is log entry 8). -/
def endScan (s : State) : State :=
  let s0 := s.onNvs scanStore
  let s1 := unitsReset (Vector.replicate 27 false) s0
  let recovered := s1.nvs.newest.map fun n => slotSnapshot s1.nvs.slots[n.slot]
  let s2 := s1.onFau fun _ => Fau.afterSupply (activeFuel s1) recovered s1.now
  accountGap (fauStarts s2)

/-! ## Meanings -/

/-- SUPPLY_ON: the strap is sampled and the scan begins (R130). -/
def execSupplyOn (strap : Role) (s : State) : Host.Outcome State Fault Refusal :=
  .next (match s.power with
    | .off => { s with power := .scan, role := strap }
    | .scan | .run | .coreReset => s)

/-- START_UP_SCAN_END (R130 to R132). A RESET pin asserted during the scan starts a core reset at its end (log entry 30). -/
def execStartUpScanEnd (s : State) : Host.Outcome State Fault Refusal :=
  .next (match s.power with
    | .scan => if s.resetPin then startCoreReset (endScan s) else endScan s
    | .off | .run | .coreReset => s)

/-- SUPPLY_LOSS (R133). -/
def execSupplyLoss (s : State) : Host.Outcome State Fault Refusal :=
  .next (match s.power with
    | .off => s
    | .scan | .run | .coreReset => loseSupply s)

/-- RESET_PIN_ASSERT: the core reset begins at once (R199). -/
def execResetPinAssert (s : State) : Host.Outcome State Fault Refusal :=
  .next (match s.power with
    | .run => { startCoreReset s with resetPin := true }
    | .off | .scan | .coreReset => { s with resetPin := true })

/-- RESET_PIN_RELEASE: the core reset may now end (R199). -/
def execResetPinRelease (s : State) : Host.Outcome State Fault Refusal := .next { s with resetPin := false }

/-- CORE_RESET_END: the slots are read and the units start; not while the pin is asserted (R133, R199). -/
def execCoreResetEnd (s : State) : Host.Outcome State Fault Refusal :=
  .next (match s.power with
    | .coreReset => if s.resetPin then s else endCoreReset s
    | .off | .scan | .run => s)

end Sys2Proof.Machine
end

