-- ==== Sys2Proof/Machine/Ports.lean ====
section
/-! DEFINITION. The segment port controllers' commands: receiving, sending, faults of the line, and the reply window of K
(chapter 8). -/

namespace Sys2Proof.Machine

/-! ## Receiving (R137 to R139) -/

/-- A taken frame at a full queue (R139). -/
def overrun (seg : Segment) (q : Fin 4) (s : State) : State :=
  let old := (s.port seg).overrunFlag[q]
  let s1 := s.onPort seg fun c =>
    { c with overrun := updAt c.overrun q satInc, overrunFlag := c.overrunFlag.set q true }
  if old then s1 else raiseAlarm .queueOverrun (.portQueue seg q) s1

/-- A taken frame placed by the class map in force (R138). -/
def placeFrame (seg : Segment) (f : Frame) (s : State) : State :=
  let q := classQueue s (segPort seg) f.cls
  if (s.port seg).rx[q].length < Config.segmentDepth then
    s.onPort seg fun c => { c with rx := updAt c.rx q (· ++ [f]) }
  else overrun seg q s

/-- What the port makes of the checks on a frame it followed to its acknowledge slot (R137). -/
structure Checks where
  crc : Bool
  delimiter : Bool
  deriving DecidableEq, Repr

def checksOf (header : BitVec 16) (length : BitVec 4) (payload : List Byte) (crc : BitVec 16) (delimiter : Bool) :
    Checks :=
  { crc := payload.length == length.toNat && frameCrc header length payload == crc, delimiter := delimiter }

/-- A frame followed (R137). A length of 9 to 15 ends the following at the length field. A start bit has closed an open
reply window as answered (R148). -/
def followFrame (seg : Segment) (header : BitVec 16) (length : BitVec 4) (payload : List Byte) (crc : BitVec 16)
    (delimiter : Bool) (s : State) : State :=
  let s0 := s.onPort seg fun c => { c with window := none, acked := false, line := .busy }
  if 8 < length.toNat then s0.onPort seg fun c => { c with busError := satInc c.busError, line := .waitIdle }
  else
    let x := checksOf header length payload crc delimiter
    let s1 := if x.crc then s0 else s0.onPort seg fun c => { c with crcError := satInc c.crcError }
    let s2 := if x.delimiter then s1 else s1.onPort seg fun c => { c with busError := satInc c.busError }
    if x.crc && x.delimiter then
      arbiterTake (placeFrame seg (frameOf header payload) (s2.onPort seg ({ · with acked := true })))
    else s2

/-- The port follows a frame it is not sending: in RUN, and not while it waits to see the bus idle (R135, R137). -/
def follows (c : PortCtl) : Bool := c.state == .run && c.line != .waitIdle && c.sending.isNone

/-! ## Sending (R141 to R143) -/

/-- The lowest-numbered non-empty transmit queue. -/
def offerQueue (c : PortCtl) : Option (Fin 4) := (List.finRange 4).find? fun q => !c.tx[q].isEmpty

/-- A port offers at bus idle in RUN, outside an open reply window (R141, R149). -/
def mayOffer (c : PortCtl) : Bool :=
  c.state == .run && c.line == .idle && c.sending.isNone && c.window.isNone

/-- What the originator does at the report that its frame ended without acknowledge, or was flushed (section 8.4): FAILED
counts an unacknowledged setpoint (R54); a POLL is missed (R73), a RELEASE fails (R94), and the end of the response to
RESET-CORE begins the core reset (R199). -/
def frameLost (failed : Bool) (o : Origin) (s : State) : State :=
  match o with
  | .piu => if failed then setpointFailed s else s
  | .cmuPoll n => pollFailed n s
  | .cmuRelease n => releaseFrameFailed n s
  | .mguReset => startCoreReset s
  | .mgu => s
  | .csu => s
  | .fsw => s

/-- A POLL that the PCK sent and that was acknowledged opens the reply window, 4 ms from the end of its trailer (R148). -/
def openWindow (seg : Segment) (f : Frame) (s : State) : State :=
  if seg = .k ∧ f.cls = 4 ∧ f.kind = 1 then
    s.onPort .k ({ · with window := timerFor s (Config.trailerTime + Config.replyWindowTime) })
  else s

/-- What the originator does at ACKNOWLEDGED. -/
def frameAcked (seg : Segment) (e : TxEntry) (s : State) : State :=
  match e.origin with
  | .cmuPoll n => openWindow seg e.frame (pollSent n s)
  | .mguReset => startCoreReset s
  | .piu | .cmuRelease _ | .mgu | .csu | .fsw => openWindow seg e.frame s

/-- The frame being sent ends: it leaves its queue, and `k` acts on it. -/
def endSending (seg : Segment) (f : PortCtl → PortCtl) (k : TxEntry → State → State) (s : State) : State :=
  match (s.port seg).sending with
  | none => s
  | some q =>
    let s1 := s.onPort seg fun c => f { c with sending := none, tx := updAt c.tx q (·.drop 1) }
    match (s.port seg).tx[q] with
    | [] => s1
    | e :: _ => k e s1

/-- FAILED for the frame being sent. -/
def failSending (seg : Segment) (f : PortCtl → PortCtl) (s : State) : State :=
  endSending seg f (fun e => frameLost true e.origin) s

/-! ## Isolation (R145) -/

/-- The transmit queues emptied, each frame counted; the entries in the order they are reported, Q0 first and each oldest
first. -/
def flushPort (seg : Segment) (s : State) : List TxEntry × State :=
  let l := (s.port seg).tx.toList.flatten
  (l, s.onPort seg fun c =>
    { c with tx := Vector.replicate 4 [], sending := none, flushDrop := satAdd c.flushDrop l.length })

/-- The FLUSHED reports, while the part runs. -/
def reportFlushed (l : List TxEntry) (s : State) : State :=
  l.foldl (fun s e => whenRunning s (frameLost false e.origin)) s

/-- An open reply window closes as missed, and the CMU is told (R145, R148). -/
def closeWindow (seg : Segment) (s : State) : State :=
  if (s.port seg).window.isSome then pollMissed (s.onPort seg ({ · with window := none })) else s

/-- The port enters ISOLATED, in the order of R145. -/
def isolatePort (seg : Segment) (s : State) : State :=
  let s1 := s.onPort seg fun c => { c with state := .isolated, line := .waitIdle }
  let x := flushPort seg (closeWindow seg s1)
  whenRunning (reportFlushed x.1 x.2) fun s =>
    let s2 := raiseAlarm .portIsolated (.port seg)
      (s.onPort seg ({ · with isolation := timerFor s Config.isolationTime }))
    match seg with
    | .k => segmentKIsolated s2
    | .w | .p => s2

/-- A port that detects line events: in RUN or RESTART (R144, R146). -/
def detects (c : PortCtl) : Bool := c.state != .isolated

/-! ## Meanings -/

/-- RECEIVE_FRAME (R137). -/
def execReceiveFrame (port : Segment) (header : BitVec 16) (length : BitVec 4) (payload : List Byte)
    (crc : BitVec 16) (delimiter : Bool) (s : State) : Host.Outcome State Fault Refusal :=
  .next (whenRunning s fun s =>
    if follows (s.port port) then followFrame port header length payload crc delimiter s else s)

/-- FRAME_OFFER (R141). -/
def execFrameOffer (port : Segment) (s : State) : Host.Outcome State Fault Refusal :=
  .next (whenRunning s fun s =>
    if mayOffer (s.port port) then
      (match offerQueue (s.port port) with
        | none => s
        | some q => s.onPort port fun c => { c with sending := some q, line := .busy })
    else s)

/-- ARBITRATION_LOSS: the frame stays at its queue's head (R136). -/
def execArbitrationLoss (port : Segment) (s : State) : Host.Outcome State Fault Refusal :=
  .next (whenRunning s fun s =>
    match (s.port port).sending with
    | none => s
    | some _ => s.onPort port fun c =>
      { c with sending := none, arbitrationLoss := satInc c.arbitrationLoss })

/-- ACKNOWLEDGE_SLOT (R142). -/
def execAcknowledgeSlot (port : Segment) (dominant : Bool) (s : State) : Host.Outcome State Fault Refusal :=
  .next (whenRunning s fun s =>
    if dominant then endSending port id (frameAcked port) s
    else failSending port (fun c => { c with ackFailure := satInc c.ackFailure }) s)

/-- BIT_ERROR: the frame ends FAILED (R143). The port does not follow the frame that another node may still send, but
waits for bus idle (log entry 69). -/
def execBitError (port : Segment) (s : State) : Host.Outcome State Fault Refusal :=
  .next (whenRunning s (failSending port fun c => { c with busError := satInc c.busError, line := .waitIdle }))

/-- DOMINANT_RUN_NINTH_BIT: the frame sent or followed is abandoned, and the port waits for bus idle (R143). The run's start
has closed an open reply window (R148). -/
def execDominantRunNinthBit (port : Segment) (s : State) : Host.Outcome State Fault Refusal :=
  .next (whenRunning s fun s =>
    if detects (s.port port) then
      failSending port id (s.onPort port fun c => { c with line := .waitIdle, window := none })
    else s)

/-- DOMINANT_RUN_END: a run of 9 to 16 bit times counts a bus error (R143). -/
def execDominantRunEnd (port : Segment) (s : State) : Host.Outcome State Fault Refusal :=
  .next (whenRunning s fun s =>
    if detects (s.port port) then s.onPort port fun c => { c with busError := satInc c.busError } else s)

/-- BREAK: all-stop on W, a bus error on P and K (R144). -/
def execBusBreak (port : Segment) (s : State) : Host.Outcome State Fault Refusal :=
  .next (whenRunning s fun s =>
    if detects (s.port port) then
      (match port with
        | .w => raiseAllStop .busBreak (s.onPort .w fun c => { c with breaks := satInc c.breaks })
        | .p => s.onPort .p fun c => { c with busError := satInc c.busError }
        | .k => s.onPort .k fun c => { c with busError := satInc c.busError })
    else s)

/-- STUCK_BUS (R145, R147). -/
def execStuckBus (port : Segment) (s : State) : Host.Outcome State Fault Refusal :=
  .next (whenRunning s fun s => if detects (s.port port) then isolatePort port s else s)

/-- ISOLATION_TIMER_EXPIRY: RESTART (R146). -/
def execIsolationTimerExpiry (port : Segment) (s : State) : Host.Outcome State Fault Refusal :=
  .next (whenRunning s fun s => onExpiry (s.port port).isolation s fun s =>
    s.onPort port fun c => { c with isolation := none, state := .restart })

/-- PORT_RESTART: RUN, the bus idle at once (R147). -/
def execPortRestart (port : Segment) (s : State) : Host.Outcome State Fault Refusal :=
  .next (whenRunning s fun s =>
    match (s.port port).state with
    | .restart => clearAlarm .portIsolated (.port port) (s.onPort port fun c => { c with state := .run, line := .idle })
    | .run => s
    | .isolated => s)

/-- REPLY_WINDOW_ANSWERED: a start bit closes the open window, and the answering frame is on the bus, so that the port
follows it and contends again at the next bus idle (R148, R149). -/
def execReplyWindowAnswered (s : State) : Host.Outcome State Fault Refusal :=
  .next (whenRunning s fun s =>
    if s.pck.window.isSome then
      s.onPort .k fun c => { c with window := none, line := if c.line == .waitIdle then .waitIdle else .busy }
    else s)

/-- REPLY_WINDOW_EXPIRY: the window closes as missed (R148). -/
def execReplyWindowExpiry (s : State) : Host.Outcome State Fault Refusal :=
  .next (whenRunning s fun s => onExpiry s.pck.window s (closeWindow .k))

/-- BUS_IDLE: a port in RUN takes the bus as idle, and may follow and start frames again (R135). -/
def execBusIdle (port : Segment) (s : State) : Host.Outcome State Fault Refusal :=
  .next (whenRunning s fun s =>
    let c := s.port port
    if c.state == .run && c.sending.isNone then s.onPort port ({ · with line := .idle }) else s)

end Sys2Proof.Machine
end

