-- ==== Sys2Proof/Machine/Reads.lean ====
section
/-! DEFINITION. The management unit's read requests: IDENTIFY, READ-RECORD, READ-STATUS, COUNTER-READ and COUNTER-CLEAR, with
the encodings of R197 (section 11.6). Where a chapter does not fix an encoding, log entry 31 gives the one taken. -/

namespace Sys2Proof.Machine

/-! ## Encodings (R197) -/

/-- Named values are positions counted from 0, numbers 2, 4 or 8 bytes. -/
def n1 (x : Nat) : List Byte := [byteOf x]
def n2 (x : Nat) : List Byte := beBytes 2 x
def n4 (x : Nat) : List Byte := beBytes 4 x
def i2 (x : Int) : List Byte := beInt 2 x
def i8 (x : Int) : List Byte := beInt 8 x
def yes (b : Bool) : List Byte := [boolByte b]

/-- A field that can be none: a presence byte, then the field, or zeros of its width. -/
def opt {α : Type} (width : Nat) (enc : α → List Byte) (x : Option α) : List Byte :=
  match x with
  | none => 0 :: List.replicate width 0
  | some v => 1 :: enc v

/-- A list of varying length: a count byte and its entries. -/
def counted {α : Type} (enc : α → List Byte) (l : List α) : List Byte := byteOf l.length :: l.flatMap enc

/-- A time: milliseconds from the end of the last reset (R197). The clock counts microseconds; R197 does not say how a time that is no
whole number of milliseconds is sent, and the model rounds it down (DESIGN CHOICE, log entry 95). -/
def timeBytes (s : State) (t : Nat) : List Byte := n4 ((t - s.origin) / Config.usPerMs)

/-- The milliseconds left on a timer (R197), rounded down (DESIGN CHOICE, log entry 95). -/
def leftBytes (s : State) (deadline : Nat) : List Byte := n4 ((deadline - s.now) / Config.usPerMs)

/-- A fixed row of counters, 2 bytes each. -/
def row {n : Nat} (v : Vector Nat n) : List Byte := v.toList.flatMap n2

def stationIx (x : StationKind) : Nat :=
  match x with
  | .manual => 0 | .autopilot => 1

def sourceIx (x : XSource) : Nat :=
  match x with
  | .own => 0 | .x1 => 1 | .x2 => 2

def engineAvailIx (x : EngineAvail) : Nat :=
  match x with
  | .unconfigured => 0 | .lost => 1 | .rejoining => 2 | .available => 3 | .faulted => 4

def rudderAvailIx (x : RudderAvail) : Nat :=
  match x with
  | .unconfigured => 0 | .lost => 1 | .available => 2

def couplingKindIx (x : CouplingKind) : Nat :=
  match x with
  | .face => 0 | .foreAft => 1 | .side => 2 | .cross => 3

/-- UNUSED, which has no record, is 0. -/
def couplingStateIx (x : CouplingState) : Nat :=
  match x with
  | .slack => 1 | .loaded => 2 | .high => 3 | .over => 4 | .silent => 5 | .parted => 6 | .releasing => 7
  | .released => 8

def unitKindIx (x : UnitKind) : Nat :=
  match x with
  | .ownBoat => 0 | .helperBoat => 1 | .bargeLoaded => 2 | .bargeEmpty => 3

def tankStateIx (x : TankState) : Nat :=
  match x with
  | .normal => 0 | .reserve => 1 | .empty => 2

def meterStateIx (x : MeterState) : Nat :=
  match x with
  | .unseen => 0 | .running => 1 | .fault => 2

def actionIx (x : WindowAction) : Nat :=
  match x with
  | .deliver => 0 | .forward => 1 | .deliverAndForward => 2 | .drop => 3

def phaseIx (x : StalePhase) : Nat :=
  match x with
  | .fresh => 0 | .hold => 1 | .zero => 2

def portStateIx (x : PortState) : Nat :=
  match x with
  | .run => 0 | .isolated => 1 | .restart => 2

def queueStateIx (x : QueueState) : Nat :=
  match x with
  | .disabled => 0 | .pending => 1 | .opened => 2

/-- The operations in the order of section 7.2. -/
def opIx (x : StoreOp) : Nat :=
  match x with
  | .bankErase _ => 0 | .blankCheck _ => 1 | .loadProgram _ _ _ => 2 | .headerFields _ _ _ => 3
  | .markWord _ _ => 3 | .commitCheck _ => 4 | .lockProgram _ => 5 | .lockErase _ => 6 | .slotErase => 7
  | .slotProgram => 8

/-- The bank (2 × (kind − 1), plus 1 for B) or the slot an operation acts on. -/
def opPlace (s : State) (x : StoreOp) : Nat :=
  match x with
  | .bankErase b => (bankIx b).val
  | .blankCheck b => (bankIx b).val
  | .loadProgram b _ _ => (bankIx b).val
  | .headerFields b _ _ => (bankIx b).val
  | .markWord b _ => (bankIx b).val
  | .commitCheck b => (bankIx b).val
  | .lockProgram b => (bankIx b).val
  | .lockErase b => (bankIx b).val
  | .slotErase => s.nvs.checkpoint.elim 0 (·.slot.val)
  | .slotProgram => s.nvs.checkpoint.elim 0 (·.slot.val)

def portSetByte (x : PortSet) : Nat := x.w.toNat + 2 * x.p.toNat + 4 * x.k.toNat + 8 * x.h.toNat

def causeIx (x : StopCause) : Nat :=
  match x with
  | .busBreak => 0
  | .station i => 1 + i.val

/-! ## Records (R196) -/

/-- The entry of a record as stored; its nodes read 0 while ALLOC is unloaded. A retiring record shows its old entry as used, its
X-source with it (log entry 73). -/
def storedEngine (s : State) (i : Fin 6) : EngineEntry :=
  s.piu.engines[i].retiring.getD
    (s.tau.alloc.elim { noEngine with setNode := 0, fbNode := 0 } (·.engines[i]))

def storedRudder (s : State) (i : Fin 3) : RudderEntry :=
  s.tau.alloc.elim { noRudder with setNode := 0, fbNode := 0 } (·.rudders[i])

def storedStation (s : State) (i : Fin 4) : StationEntry :=
  s.tau.alloc.elim { noStation with node := 0 } (·.stations[i])

/-- The account of E1 to E4 (R120). Section 6.3 bounds neither the two pendings nor the two window sums; each is sent as 8 bytes
(log entry 31). -/
def accountBytes (s : State) (e : Fin 4) : List Byte :=
  let a := s.fau.accounts[e]
  i8 a.total ++ n1 (if isMetered s.fau.meters e then 0 else 1) ++ i8 a.pendingSupply ++ i8 a.pendingReturn ++
    i8 a.carry ++ n2 a.residue ++ i8 a.metered ++ i8 a.estimated ++ n2 a.disagree

def engineBytes (s : State) (i : Fin 6) : List Byte :=
  let r := s.piu.engines[i]
  let e := storedEngine s i
  let flags := fun (f : EngineFeedback → Bool) => yes (r.feedback.elim false f)
  n1 i.val ++ yes ((engineEntry s i).configured) ++ yes r.retiring.isSome ++ n1 e.setNode ++ n1 e.fbNode ++
    n1 (sourceIx e.source) ++ n1 (engineAvailIx r.avail) ++ [gearByte r.gear] ++ timeBytes s r.neutralSince ++
    n2 r.rpm ++ opt 2 (fun (f : EngineFeedback) => n2 f.rpm) r.feedback ++
    opt 1 (fun (f : EngineFeedback) => [gearByte f.gear]) r.feedback ++
    opt 2 (fun (f : EngineFeedback) => n2 f.rate) r.feedback ++ flags (·.shutdown) ++ flags (·.overspeed) ++
    flags (·.lowOil) ++ opt 4 (fun (f : EngineFeedback) => timeBytes s f.time) r.feedback ++ n2 r.run ++
    opt 2 n2 r.cap ++ n2 r.lineup.val ++ (if h : i.val < 4 then accountBytes s ⟨i.val, h⟩ else [])

def rudderBytes (s : State) (i : Fin 3) : List Byte :=
  let r := s.piu.rudders[i]
  let e := storedRudder s i
  n1 i.val ++ yes e.configured ++ n1 e.setNode ++ n1 e.fbNode ++ yes e.fromXs ++ n1 (rudderAvailIx r.avail) ++
    opt 2 i2 r.angle ++ opt 2 (fun (f : RudderFeedback) => i2 f.angle) r.feedback ++
    opt 4 (fun (f : RudderFeedback) => timeBytes s f.time) r.feedback

/-- A station's record (section 1.1); its helm age, the time since its last accepted HELM, is rounded down to whole milliseconds
(DESIGN CHOICE, log entry 95). -/
def stationBytes (s : State) (i : Fin 4) : List Byte :=
  let r := s.csu.stations[i]
  let e := storedStation s i
  yes e.configured ++ n1 e.node ++ n1 (stationIx e.kind) ++ yes e.force ++ [stationStateByte r.state] ++
    yes r.silent ++ opt 2 (fun (h : HelmRec) => i2 h.d) r.last ++ opt 2 (fun (h : HelmRec) => i2 h.t) r.last ++
    opt 2 (fun (h : HelmRec) => n2 h.seq) r.last ++
    opt 4 (fun (h : HelmRec) => n4 ((s.now - h.time) / Config.usPerMs)) r.last

/-- A coupling's static and live fields and its three bounds (R86). The high bound, 80% of L, is sent rounded down where it is no whole
number (DESIGN CHOICE, log entry 93). The failed-release mark, which R87 adds to the live part and no list places, stands last of the
live fields, after good reports and before the bounds (the model's choice, log entry 31). -/
def couplingBytes (s : State) (c : Coupling) : List Byte :=
  let e := c.entry
  n1 e.node ++ n1 e.unitA ++ n1 e.unitB ++ n1 (couplingKindIx e.kind) ++ n2 e.limit ++
    n2 (e.threshold.getD 65535) ++ yes e.locked ++ n1 (couplingStateIx c.state) ++ opt 2 n2 c.tension ++
    opt 1 yes c.brake ++ opt 1 yes c.hook ++ n2 c.missed ++ n2 c.good ++ yes c.failed ++
    n2 (slackBound s.cmu.params e) ++ n2 (partBound s.cmu.params e) ++ n2 (4 * tensionLimit e / 5)

def unitEntryBytes (u : UnitEntry) : List Byte := n1 u.id ++ n1 u.row ++ n1 u.column ++ n1 (unitKindIx u.kind)

def tankBytes (s : State) (i : Fin 8) : List Byte :=
  let k : TankEntry :=
    s.fau.table.elim { defined := false, capacity := 0, reserve := 0, hysteresis := 0 } (·.tanks[i])
  let t := s.fau.tanks[i]
  yes k.defined ++ beBytes 6 k.capacity ++ beBytes 6 k.reserve ++ beBytes 6 k.hysteresis ++ i8 t.balance ++
    n1 (tankStateIx t.state) ++ yes t.overfull

/-- The role of a meter with its two operands (R120). A SUPPLY or RETURN meter has no destination tank, and its byte
reads 0 (log entry 68). -/
def roleBytes (r : MeterRole) : List Byte :=
  match r with
  | .supply e => n1 0 ++ n1 e.val ++ n1 0
  | .ret e => n1 1 ++ n1 e.val ++ n1 0
  | .transfer a b => n1 2 ++ n1 a.val ++ n1 b.val

/-- The node a meter's place in the table in force holds. -/
def storedNode (s : State) (i : Nat) (m : Meter) : Nat :=
  (s.fau.table.bind (·.meters[i]?)).elim m.entry.node (·.node)

def meterBytes (s : State) (i : Nat) (m : Meter) : List Byte :=
  n1 (storedNode s i m) ++ roleBytes m.entry.role ++ n1 (meterStateIx m.state) ++ opt 4 n4 m.baseline ++
    n2 m.jumps.length ++ n2 m.clean ++ opt 4 (timeBytes s) m.lastReport ++ n4 m.carry

def windowBytes (w : Window) : List Byte :=
  yes w.valid ++ n1 (portSetByte w.ingress) ++ n2 w.base ++ n2 w.limit ++ n1 (actionIx w.action) ++
    n1 (portSetByte w.egress) ++ n1 w.offset

/-- A window while WINDOW is unloaded: not valid, its other fields 0. -/
def noWindow : Window :=
  { valid := false, ingress := ⟨false, false, false, false⟩, base := 0, limit := 0, action := .deliver,
    egress := ⟨false, false, false, false⟩, offset := 0 }

/-- The answer to a record that must exist. -/
def someRecord {α : Type} (enc : α → List Byte) (x : Option α) : Answer × List Byte :=
  match x with
  | none => (.refusedState, [])
  | some v => (.ok, enc v)

/-- The answer to an index within its range. -/
def indexed (n : Nat) (i : Nat) (k : Fin n → Answer × List Byte) : Answer × List Byte :=
  if h : i < n then k ⟨i, h⟩ else (.badArgument, [])

/-- READ-RECORD: type and index (R196). The record of an ignored meter (R96) is answered OK too, UNSEEN and with empty
live fields (log entry 67). -/
def recordAnswer (s : State) (type index : Nat) : Answer × List Byte :=
  match type with
  | 0 => indexed 6 index fun i => (.ok, engineBytes s i)
  | 1 => indexed 3 index fun i => (.ok, rudderBytes s i)
  | 2 => indexed 4 index fun i => (.ok, stationBytes s i)
  | 3 => indexed 62 index fun i => someRecord (couplingBytes s) s.cmu.couplings[i.val]?
  | 4 => indexed 48 index fun i =>
      someRecord (fun (u : TowUnit) => unitEntryBytes u.entry ++ yes u.attached)
        (s.cmu.units.find? fun u => u.entry.id == i.val)
  | 5 => indexed 8 index fun i => (.ok, tankBytes s i)
  | 6 => indexed 12 index fun i => someRecord (meterBytes s i.val) s.fau.meters[i.val]?
  | 7 => indexed 32 index fun i => (.ok, windowBytes (s.fsw.table.elim noWindow (·.windows[i])))
  | _ => (.badArgument, [])

/-! ## Status areas (R196) -/

def stationOpt (x : Option (Fin 4)) : List Byte := opt 1 (fun (i : Fin 4) => n1 i.val) x

def commandArea (s : State) : List Byte :=
  let c := s.csu
  stationOpt c.inCommand ++ n1 (phaseIx c.phase) ++ stationOpt c.request ++ yes c.allStop.isSome ++
    opt 1 (fun x => n1 (causeIx x)) c.allStop ++ i2 c.dAp ++ i2 c.dStar ++ i2 c.tStar ++ [joinByte c.join]

/-- The causes present, in the order BREAKAWAY, MAKEUP-COMMIT, COUPLING-COMMIT. -/
def causeList (x : FaultCauses) : List Nat :=
  (if x.breakaway then [0] else []) ++ (if x.makeupCommit then [1] else []) ++
    (if x.couplingCommit then [2] else [])

/-- The phase of the release state, with the coupling, the station and the time left (R87). -/
def releaseBytes (s : State) : List Byte :=
  match s.cmu.release with
  | .idle => n1 0 ++ opt 2 n2 none ++ stationOpt none ++ opt 4 n4 none
  | .armed st i _ d => n1 1 ++ opt 2 n2 (some i) ++ stationOpt (some st) ++ opt 4 (leftBytes s) (some d)
  | .releasing st i _ d _ => n1 2 ++ opt 2 n2 (some i) ++ stationOpt (some st) ++ opt 4 (leftBytes s) (some d)

def stateCount (c : Cmu) (x : CouplingState) : Nat := c.couplings.countP (·.state == x)

/-- The count of couplings in each state, UNUSED first. -/
def couplingCounts (c : Cmu) : List Byte :=
  n2 (62 - c.couplings.length) ++
    [CouplingState.slack, .loaded, .high, .over, .silent, .parted, .releasing, .released].flatMap
      fun x => n2 (stateCount c x)

/-- The make-up area (R86, R87). The make-up fault is a flag, 1 for set, and the release state follows R86's list (log entry 31). The
attached flags, which the chapter's table of published values gives READ-STATUS to read and R86's list does not name, are left out:
READ-RECORD of a unit shows them (DESIGN CHOICE, log entry 96). -/
def makeupArea (s : State) : List Byte :=
  let c := s.cmu
  n2 c.nAtt ++ n2 c.headroom ++ yes (makeupFault s) ++ counted n1 (causeList c.causes) ++
    counted unitEntryBytes c.breakaways ++
    n1 (if c.recompute.isNone then 0 else if c.recomputePending then 2 else 1) ++
    n1 (if c.round.isNone then 0 else 1) ++ opt 2 (fun (r : Round) => n2 r.poll.index) c.round ++
    couplingCounts c ++ releaseBytes s

def fuelArea (s : State) : List Byte :=
  let v := s.fau.voyage
  n2 v.number ++ yes v.isOpen ++ i8 v.opening ++ i8 v.bunkered ++ yes s.fau.sat ++
    s.fau.lineup.toList.flatMap (fun t => n2 t.val) ++
    (List.finRange 4).flatMap fun e => n1 (if isMetered s.fau.meters e then 0 else 1)

/-- The store area (R134). "A checkpoint waits with the closing mark or the close answer owed" is three yes/no bytes:
one waits, its closing mark, its owed answer. Each field that can be none carries a presence byte of its own, also where
several are none together. Both are the model's choices (log entry 31). The remaining time of a suspended erase is rounded down (log
entry 95). -/
def storeArea (s : State) : List Byte :=
  let n := s.nvs
  [Kind.alloc, .window, .makeup, .coupling, .fuelmap].flatMap (fun k =>
      opt 1 (fun (b : Bool) => n1 b.toNat) n.active[kindIx k] ++ opt 4 (fun b => n4 (bankCommit b)) (activeBank s k)) ++
    n.locked.toList.flatMap yes ++
    opt 1 (fun (r : RunningOp) => n1 (opIx r.op)) n.current ++
    opt 2 (fun (r : RunningOp) => n2 (opPlace s r.op)) n.current ++
    opt 4 (fun (r : RunningOp) => leftBytes s r.deadline) n.current ++
    opt 2 (fun (e : Suspended) => n2 (bankIx e.bank).val) n.suspended ++
    opt 4 (fun (e : Suspended) => n4 (e.remaining / Config.usPerMs)) n.suspended ++
    yes n.waitingOp.isSome ++ yes n.waiting.isSome ++
    yes (n.waiting.elim false (·.snapshot.closing)) ++ yes (n.waiting.elim false (·.owed)) ++
    opt 2 (fun (x : Newest) => n2 x.slot.val) n.newest ++ opt 4 (fun (x : Newest) => n4 x.seq) n.newest

/-- The switch area (R169). Its loaded flag and commit number are those of the table the FSW uses, so that they are 0
between the mark word of a first WINDOW commit and its swap (log entry 70). The frame in the switch is two fields, its ingress port
and its header, each behind a presence byte (log entry 31). -/
def switchArea (s : State) : List Byte :=
  yes s.fsw.table.isSome ++ opt 4 n4 (s.fsw.table.map fun _ => s.fsw.commit) ++ yes s.fsw.swapWaiting ++
    opt 1 (fun (x : InSwitch) => n1 (portIx x.ingress).val) s.fsw.inSwitch ++
    opt 2 (fun (x : InSwitch) => n2 (headerOf x.frame).toNat) s.fsw.inSwitch ++
    n1 (portIx s.fsw.lastServed).val ++
    [PortName.w, .p, .k, .h].flatMap fun x => (List.finRange 4).flatMap fun q => n2 (rxOf s x q).length

def laneBytes (s : State) (l : Lane) : List Byte := yes (laneOf s l).bad ++ n2 (laneOf s l).errors.length

def linkQueueBytes (x : LinkQueue) : List Byte :=
  n1 (queueStateIx x.state) ++ n2 x.credit ++ n2 x.rx.length ++ n2 x.tx.length ++ n2 x.epoch ++
    opt 2 n2 x.partner ++ n2 x.freed

/-- The link area (R185). R197 gives no form for a set of lanes: the lanes in use are two yes/no bytes, H0 then H1, both no while
there is none (log entry 31). -/
def linkArea (s : State) : List Byte :=
  [linkStateByte s.hlc.state] ++ opt 2 (fun (x : LaneSet) => n2 (laneSetWidth x)) s.hlc.inUse ++
    yes (laneInUse s .h0) ++ yes (laneInUse s .h1) ++ laneBytes s .h0 ++ laneBytes s .h1 ++
    s.hlc.queues.toList.flatMap linkQueueBytes

def portArea (s : State) (seg : Segment) : List Byte :=
  let c := s.port seg
  n1 (portStateIx c.state) ++ opt 4 (leftBytes s) c.isolation ++
    c.rx.toList.flatMap (fun l => n2 l.length) ++ c.tx.toList.flatMap (fun l => n2 l.length) ++
    c.overrunFlag.toList.flatMap yes ++ (if seg = .k then yes c.window.isSome else [])

/-- A raised pair: the alarm by its position among the named codes, the subject type by its position, and the
subject's number, which a none subject does not hold (R197; the layout is log entry 31). -/
def raisedBytes (x : Alarm × Subject) : List Byte :=
  n1 (alarmIx x.1).val ++ [subjectType x.2] ++ opt 2 n2 (subjectNumber x.2)

/-- The alarms area: the sticky fault record in the order of the codes, then the raised set in the order its pairs were raised (the
order is log entry 31's). -/
def alarmArea (s : State) : List Byte := s.mgu.sticky.toList.flatMap yes ++ counted raisedBytes s.mgu.raised

/-- The load context: the kind by its position, and the other fields as numbers (R197). The running CRC is the register as it stands
and not its complement, which LOAD-END compares (DESIGN CHOICE, log entry 92). -/
def loadBytes (x : LoadCtx) : List Byte :=
  n1 (kindIx x.bank.kind).val ++ n1 x.bank.isB.toNat ++ n2 x.node.toNat ++ n2 x.count ++ n2 x.next ++ n2 x.taken ++
    n4 x.crc.toNat

/-- The next part is one more than the soundings taken. -/
def assemblyBytes (x : Assembly) : List Byte :=
  n2 x.number ++ n2 (x.soundings.length + 1) ++ counted n4 x.soundings

/-- The management area: the request in the slot by its position in the list of section 11.2, which stands in the
order of the kinds 1 to 20, the load context and the assembly (the layout is log entry 31). -/
def managementArea (s : State) : List Byte :=
  opt 1 (fun (r : LongReq) => n1 (longKind r.op - 1)) s.mgu.slot ++ opt 14 loadBytes s.mgu.load ++
    opt 5 assemblyBytes s.mgu.assembly

/-- READ-STATUS by its area. -/
def statusAnswer (s : State) (area : Nat) : Answer × List Byte :=
  match area with
  | 0 => (.ok, commandArea s)
  | 1 => (.ok, makeupArea s)
  | 2 => (.ok, fuelArea s)
  | 3 => (.ok, storeArea s)
  | 4 => (.ok, switchArea s)
  | 5 => (.ok, linkArea s)
  | 6 => (.ok, portArea s .w)
  | 7 => (.ok, portArea s .p)
  | 8 => (.ok, portArea s .k)
  | 9 => (.ok, alarmArea s)
  | 10 => (.ok, managementArea s)
  | _ => (.badArgument, [])

/-! ## Counters (R196) -/

def portCounters (c : PortCtl) : List Byte :=
  n2 c.crcError ++ n2 c.busError ++ n2 c.arbitrationLoss ++ n2 c.ackFailure ++ n2 c.flushDrop ++ row c.txDrop ++
    row c.overrun

def linkCounters (h : Hlc) : List Byte :=
  n2 h.lane0.crcError ++ n2 h.lane1.crcError ++ row (h.queues.map (·.lostFrames)) ++ n2 h.sequenceError ++
    n2 h.mapMismatch ++ row (h.queues.map (·.overrun)) ++ row (h.queues.map (·.txDrop)) ++ n2 h.disabledDrop ++
    n2 h.flushDrop

/-- COUNTER-READ by its block. -/
def counterAnswer (s : State) (block : Nat) : Answer × List Byte :=
  match block with
  | 0 => (.ok, portCounters s.pcw ++ n2 s.pcw.breaks)
  | 1 => (.ok, portCounters s.pcp)
  | 2 => (.ok, portCounters s.pck)
  | 3 => (.ok, linkCounters s.hlc)
  | 4 => (.ok, row s.fsw.windowDrop ++ row s.fsw.defaultDrop ++ row s.fsw.undeliverable ++ row s.fsw.refused ++
      row s.fsw.egressDrop)
  | 5 => (.ok, n2 s.csu.helmClamp ++ n2 s.csu.helmRepeat ++ n2 s.csu.unknownNode ++ n2 s.csu.class7Ignored)
  | 6 => (.ok, n2 s.piu.unknownFeedback ++ n2 s.piu.malformedFeedback ++ n2 s.piu.unackedSetpoint ++
      n2 s.piu.hDiscarded)
  | 7 => (.ok, n2 s.cmu.roundOverrun ++ n2 s.cmu.malformedReport ++ n2 s.cmu.unsolicitedReport ++
      n2 s.cmu.tensionClamp ++ n2 s.cmu.coalesced)
  | 8 => (.ok, n2 s.fau.unknownMeter ++ n2 s.fau.malformedMeter ++ n2 s.fau.jump ++ n2 s.fau.temperatureClamp ++
      n2 s.fau.carryBound)
  | 9 => (.ok, n2 s.nvs.replacedSnapshot ++ n2 s.nvs.eraseSuspend ++ n2 s.nvs.slotFailure)
  | 10 => (.ok, n2 s.mgu.malformedRequest ++ n2 s.mgu.responseDrop ++ n2 s.mgu.statusDrop)
  | _ => (.badArgument, [])

def clearPort (c : PortCtl) : PortCtl :=
  { c with crcError := 0, busError := 0, arbitrationLoss := 0, ackFailure := 0, flushDrop := 0,
           txDrop := Vector.replicate 4 0, overrun := Vector.replicate 4 0, breaks := 0 }

def clearLink (h : Hlc) : Hlc :=
  { h with lane0 := { h.lane0 with crcError := 0 }, lane1 := { h.lane1 with crcError := 0 },
           queues := h.queues.map fun x => { x with lostFrames := 0, overrun := 0, txDrop := 0 },
           sequenceError := 0, mapMismatch := 0, disabledDrop := 0, flushDrop := 0 }

def clearSwitch (w : Fsw) : Fsw :=
  { w with windowDrop := Vector.replicate 4 0, defaultDrop := Vector.replicate 4 0,
           undeliverable := Vector.replicate 4 0, refused := Vector.replicate 4 0,
           egressDrop := Vector.replicate 4 0 }

/-- One block's counters set to 0 (R196). -/
def clearBlock (s : State) (block : Nat) : State :=
  match block with
  | 0 => s.onPort .w clearPort
  | 1 => s.onPort .p clearPort
  | 2 => s.onPort .k clearPort
  | 3 => s.onHlc clearLink
  | 4 => s.onFsw clearSwitch
  | 5 => s.onCsu fun c => { c with helmClamp := 0, helmRepeat := 0, unknownNode := 0, class7Ignored := 0 }
  | 6 => s.onPiu fun p =>
      { p with unknownFeedback := 0, malformedFeedback := 0, unackedSetpoint := 0, hDiscarded := 0 }
  | 7 => s.onCmu fun c =>
      { c with roundOverrun := 0, malformedReport := 0, unsolicitedReport := 0, tensionClamp := 0, coalesced := 0 }
  | 8 => s.onFau fun u =>
      { u with unknownMeter := 0, malformedMeter := 0, jump := 0, temperatureClamp := 0, carryBound := 0 }
  | 9 => s.onNvs fun n => { n with replacedSnapshot := 0, eraseSuspend := 0, slotFailure := 0 }
  | 10 => s.onMgu fun m => { m with malformedRequest := 0, responseDrop := 0, statusDrop := 0 }
  | _ => s

/-! ## Requests -/

/-- The MGU takes a request unless it has taken RESET-CORE (R199). -/
def whenServing (s : State) (k : State → State) : State :=
  whenRunning s fun s => if s.mgu.resetting then s else k s

/-- The loaded kinds: bit k − 1 for kind k. -/
def loadedKinds (s : State) : Nat :=
  [Kind.alloc, .window, .makeup, .coupling, .fuelmap].foldl (fun n k =>
    n + (if s.nvs.active[kindIx k].isSome then 2 ^ (kindIx k).val else 0)) 0

def roleByte (r : Role) : Nat :=
  match r with
  | .lead => 0 | .helper => 1

/-- The data of IDENTIFY (R196); the loaded kinds are those with an active bank in the store (R186, log entry 70). -/
def identifyBytes (s : State) : List Byte :=
  n2 410 ++ n1 (roleByte s.role) ++ n1 (loadedKinds s) ++ n1 (s.mgu.load.elim 0 fun x => kindNumber x.bank.kind) ++
    n1 (s.mgu.slot.elim 0 fun r => longKind r.op)

def serveIdentify (node : Node) (s : State) : State := respond node 1 .ok (identifyBytes s) s

def serveRecord (node : Node) (type index : Byte) (s : State) : State :=
  let x := recordAnswer s type.toNat index.toNat
  respond node 2 x.1 x.2 s

def serveStatus (node : Node) (area : Byte) (s : State) : State :=
  let x := statusAnswer s area.toNat
  respond node 3 x.1 x.2 s

def serveCounters (node : Node) (block : Byte) (s : State) : State :=
  let x := counterAnswer s block.toNat
  respond node 4 x.1 x.2 s

def serveClear (node : Node) (block : Byte) (s : State) : State :=
  if block = 255 then respond node 5 .ok [] ((List.range 11).foldl clearBlock s)
  else if block.toNat ≤ 10 then respond node 5 .ok [] (clearBlock s block.toNat)
  else respond node 5 .badArgument [] s

/-! ## Meanings -/

/-- IDENTIFY (R196). -/
def execIdentify (node : Node) (s : State) : Host.Outcome State Fault Refusal :=
  .next (whenServing s (serveIdentify node))

/-- READ-RECORD (R196). -/
def execReadRecord (node : Node) (type index : Byte) (s : State) : Host.Outcome State Fault Refusal :=
  .next (whenServing s (serveRecord node type index))

/-- READ-STATUS (R196). -/
def execReadStatus (node : Node) (area : Byte) (s : State) : Host.Outcome State Fault Refusal :=
  .next (whenServing s (serveStatus node area))

/-- COUNTER-READ (R196). -/
def execCounterRead (node : Node) (block : Byte) (s : State) : Host.Outcome State Fault Refusal :=
  .next (whenServing s (serveCounters node block))

/-- COUNTER-CLEAR (R196). -/
def execCounterClear (node : Node) (block : Byte) (s : State) : Host.Outcome State Fault Refusal :=
  .next (whenServing s (serveClear node block))

end Sys2Proof.Machine
end

