-- ==== Sys2Proof/Machine/Manage.lean ====
section
/-! DEFINITION. The management unit: the long-operation slot, erase, load, commit and lock requests, account requests,
RESET-CORE, CLEAR-STICKY and SUMMARY (chapter 11). -/

namespace Sys2Proof.Machine

/-! ## The slot and the load context (R190, R192, R193) -/

/-- The request takes the slot. -/
def takeSlot (node : Node) (op : LongOp) (s : State) : State :=
  s.onMgu ({ · with slot := some { node := node, op := op } })

/-- A long request: BUSY while the slot is taken, otherwise its own checks. -/
def longRequest (node : Node) (kind : Nat) (s : State) (k : State → State) : State :=
  match s.mgu.slot with
  | some _ => respond node kind .busy [] s
  | none => k s

/-- A bank argument outside its range is BAD-ARGUMENT. -/
def withBank (node : Node) (kind : Nat) (x : Option BankId) (s : State) (k : BankId → State) : State :=
  match x with
  | none => respond node kind .badArgument [] s
  | some b => k b

def isActive (s : State) (b : BankId) : Bool := s.nvs.active[kindIx b.kind] == some b.isB
def isLocked (s : State) (b : BankId) : Bool := s.nvs.locked[bankIx b]
def isLoading (s : State) (b : BankId) : Bool := s.mgu.load.elim false (·.bank == b)

/-- The context is aborted: gone, its idle timer stopped. The bank keeps the bytes programmed and is not blank, also where every byte of
it reads 255 (R193; log entry 91). -/
def abortLoad (s : State) : State := (spoilLoad s).onMgu fun m => { m with load := none, loadIdle := none }

def stopIdle (s : State) : State := s.onMgu ({ · with loadIdle := none })

/-- The frames a context expects: the byte count divided by 6, rounded up. -/
def expectedFrames (count : Nat) : Nat := (count + 5) / 6

/-! ## Requests on banks (R191 to R195) -/

def serveErase (node : Node) (kind bank : Byte) (s : State) : State :=
  longRequest node 7 s fun s => withBank node 7 (bankOf kind bank) s fun b =>
    if isActive s b || isLoading s b then respond node 7 .refusedState [] s
    else if isLocked s b then respond node 7 .locked [] s
    else handOp (.bankErase b) (takeSlot node (.erase b) s)

def serveBlank (node : Node) (kind bank : Byte) (s : State) : State :=
  longRequest node 8 s fun s => withBank node 8 (bankOf kind bank) s fun b =>
    if isLoading s b then respond node 8 .refusedState [] s
    else handOp (.blankCheck b) (takeSlot node (.blankCheck b) s)

def serveLoadBegin (node : Node) (kind bank : Byte) (count : Nat) (s : State) : State :=
  longRequest node 9 s fun s => withBank node 9 (bankOf kind bank) s fun b =>
    if 4064 < count then respond node 9 .badArgument [] s
    else if s.mgu.load.isSome then respond node 9 .busy [] s
    else if isActive s b then respond node 9 .refusedState [] s
    else if isLocked s b then respond node 9 .locked [] s
    else handOp (.blankCheck b) (takeSlot node (.loadBegin b count) s)

/-- A request of the open context: from another node BUSY, with no context open SEQUENCE (R193). -/
def ofContext (node : Node) (kind : Nat) (s : State) (k : LoadCtx → State) : State :=
  match s.mgu.load with
  | none => respond node kind .sequence [] s
  | some c => if c.node = node then k c else respond node kind .busy [] s

def serveLoadData (node : Node) (seq : Nat) (bytes : List Byte) (s : State) : State :=
  longRequest node 10 s fun s => ofContext node 10 s fun c =>
    if seq = c.next ∧ c.next < expectedFrames c.count then
      let l := bytes.take (c.count - 6 * seq)
      handOp (.loadProgram c.bank (6 * seq) l) (takeSlot node (.loadData l) (stopIdle s))
    else respond node 10 .sequence [] (abortLoad s)

def serveLoadEnd (node : Node) (crc : BitVec 32) (s : State) : State :=
  longRequest node 11 s fun s => ofContext node 11 s fun c =>
    if c.next < expectedFrames c.count then respond node 11 .sequence [] (abortLoad s)
    else if ~~~c.crc = crc then
      handOp (.headerFields c.bank c.count crc) (takeSlot node .loadEnd (stopIdle s))
    else respond node 11 .checkFailed [] (abortLoad s)

/-- The number a commit of a kind gives: one more than the active bank's, or 1 (R187). -/
def nextCommit (s : State) (k : Kind) : Nat := activeCommit s k + 1

def serveCommit (node : Node) (kind : Byte) (s : State) : State :=
  longRequest node 12 s fun s =>
    match kindOf kind with
    | none => respond node 12 .badArgument [] s
    | some k =>
      let b := standbyBank s k
      if (s.mgu.load.elim false fun c => c.bank.kind == k) || !markErased (bankAt s b) ||
          decide (Config.sequenceMax < nextCommit s k) then
        respond node 12 .refusedState [] s
      else handOp (.commitCheck b) (takeSlot node (.commit k) s)

def serveLock (node : Node) (kind bank : Byte) (s : State) : State :=
  longRequest node 13 s fun s => withBank node 13 (bankOf kind bank) s fun b =>
    if isLocked s b then respond node 13 .ok [] s
    else handOp (.lockProgram b) (takeSlot node (.lock b) s)

def serveUnlock (node : Node) (kind bank : Byte) (s : State) : State :=
  longRequest node 14 s fun s => withBank node 14 (bankOf kind bank) s fun b =>
    if isActive s b || s.fau.voyage.isOpen then respond node 14 .refusedState [] s
    else if isLocked s b then handOp (.lockErase b) (takeSlot node (.unlock b) s)
    else respond node 14 .ok [] s

/-! ## Account requests (R198) -/

def serveClose (node : Node) (s : State) : State :=
  longRequest node 16 s fun s =>
    if s.fau.voyage.isOpen then closeVoyage (takeSlot node .voyageClose s)
    else respond node 16 .refusedState [] s

/-- The eight soundings of a complete assembly. -/
def soundingsOf (l : List Nat) : Vector Nat 8 := Vector.ofFn fun i => l.getD i.val 0

/-- A sounding, part 1 to 8. -/
def serveSounding (node : Node) (part v : Nat) (s : State) : State :=
  let dropped := s.onMgu ({ · with assembly := none })
  match s.mgu.assembly with
  | none => respond node 15 .sequence [] dropped
  | some x =>
    if part = x.soundings.length + 1 then
      (if part < 8 then
        respond node 15 .ok [] (s.onMgu ({ · with assembly := some { x with soundings := x.soundings ++ [v] } }))
       else if s.fau.voyage.isOpen then respond node 15 .refusedState [] dropped
       else respond node 15 .ok [] (openVoyage x.number (soundingsOf (x.soundings ++ [v])) dropped))
    else respond node 15 .sequence [] dropped

def serveOpen (node : Node) (part v : Nat) (s : State) : State :=
  if part = 0 then
    (if s.fau.voyage.isOpen then respond node 15 .refusedState [] s
     else respond node 15 .ok []
       (s.onMgu ({ · with assembly := some { number := v % 65536, soundings := [] } })))
  else if part ≤ 8 then serveSounding node part v s
  else respond node 15 .badArgument [] s

def serveBunker (node : Node) (tank : Byte) (v : Nat) (s : State) : State :=
  if h : tank.toNat < 8 then
    (if v = 0 then respond node 17 .badArgument [] s
     else respond node 17 .ok [] (takeBunker ⟨tank.toNat, h⟩ v s))
  else respond node 17 .badArgument [] s

def serveLineup (node : Node) (engine tank : Byte) (s : State) : State :=
  if h : 1 ≤ engine.toNat ∧ engine.toNat ≤ 4 ∧ tank.toNat < 8 then
    respond node 18 .ok [] (setLineup ⟨engine.toNat - 1, by omega⟩ ⟨tank.toNat, h.2.2⟩ s)
  else respond node 18 .badArgument [] s

/-- MAKEUP-CONFIRM (R81): the BREAKAWAY clears are handed before the OK, the model's choice (log entry 8). -/
def serveConfirm (node : Node) (s : State) : State :=
  if makeupFault s then respond node 19 .ok [] (confirmMakeup s) else respond node 19 .refusedState [] s

/-! ## RESET-CORE and CLEAR-STICKY (R199, R201) -/

/-- What the store does for the long request in the slot ends at once, and leaves what R133 states; a checkpoint goes on, and
one that waits starts (R125; R199 does not state the moment: DESIGN CHOICE, log entry 51). -/
def endMguOp (s : State) : State :=
  let s1 := match s.nvs.suspended with
    | none => s
    | some e => (tearErase e.bank s).onNvs ({ · with suspended := none })
  let s2 := s1.onNvs ({ · with waitingOp := none })
  match s2.nvs.current with
  | none => s2
  | some r => if isSlotOp r.op then s2 else giveStore (opEnded (interruptOp r.op s2))

/-- The operation of a busy slot ends without a response (R199). -/
def endLong (s : State) : State :=
  match s.mgu.slot with
  | none => s
  | some _ => endMguOp (s.onMgu ({ · with slot := none }))

/-- RESET-CORE: the operation in a busy slot ends, no further request is taken, and the end of the response begins the core
reset; a response dropped at once has ended (R199). -/
def serveReset (node : Node) (s : State) : State :=
  let s1 := (endLong s).onMgu ({ · with resetting := true })
  (responseFrames node 20 .ok []).foldl (fun s f =>
    match handResponse .mguReset f s with
    | (s2, true) => s2
    | (s2, false) => startCoreReset s2) s1

/-- Each port clears its overrun flags. -/
def clearOverrunFlags (s : State) : State :=
  [Segment.w, .p, .k].foldl (fun s seg =>
    s.onPort seg fun c => { c with overrunFlag := Vector.replicate 4 false }) s

/-- The flag of every code with no subject raised is cleared. -/
def keepRaisedSticky (s : State) : State :=
  s.onMgu fun m =>
    { m with sticky := Vector.ofFn fun i =>
        m.sticky[i] && m.raised.any fun x => alarmIx x.1 == i }

def serveSticky (node : Node) (s : State) : State :=
  respond node 6 .ok [] (keepRaisedSticky (clearAllOf .queueOverrun (clearOverrunFlags s)))

/-! ## Class 8 frames (R189) -/

/-- An unknown kind or a wrong length. -/
def serveMalformed (f : Frame) (s : State) : State :=
  respond f.node f.kind.toNat .badArgument []
    (s.onMgu fun m => { m with malformedRequest := satInc m.malformedRequest })

/-- Part 0 of VOYAGE-OPEN carries a 2-byte number, every other part 4 bytes (section 11.2; log entry 32). -/
def openFrame (f : Frame) (part : Byte) (rest : List Byte) (s : State) : State :=
  if rest.length = (if part = 0 then 2 else 4) then serveOpen f.node part.toNat (beNat rest) s
  else serveMalformed f s

/-- Kinds 1 to 6: reads, counters and the sticky record. -/
def readRequest (f : Frame) (s : State) : State :=
  match f.kind.toNat, f.payload with
  | 1, [] => serveIdentify f.node s
  | 2, [a, b] => serveRecord f.node a b s
  | 3, [a] => serveStatus f.node a s
  | 4, [a] => serveCounters f.node a s
  | 5, [a] => serveClear f.node a s
  | 6, [] => serveSticky f.node s
  | _, _ => serveMalformed f s

/-- Kinds 7 to 10: erase, blank check and the start and data of a load. -/
def bankRequest (f : Frame) (s : State) : State :=
  if f.kind = 7 then
    (match f.payload with
      | [k, b] => serveErase f.node k b s
      | _ => serveMalformed f s)
  else if f.kind = 8 then
    (match f.payload with
      | [k, b] => serveBlank f.node k b s
      | _ => serveMalformed f s)
  else if f.kind = 9 then
    (match f.payload with
      | [k, b, x, y] => serveLoadBegin f.node k b (beNat [x, y]) s
      | _ => serveMalformed f s)
  else if f.kind = 10 then
    (match f.payload with
      | [x, y, a, b, c, d, e, g] => serveLoadData f.node (beNat [x, y]) [a, b, c, d, e, g] s
      | _ => serveMalformed f s)
  else serveMalformed f s

/-- Kinds 11 to 14: the end of a load, commit and lock. -/
def commitRequest (f : Frame) (s : State) : State :=
  if f.kind = 11 then
    (match f.payload with
      | [a, b, c, d] => serveLoadEnd f.node (a ++ b ++ c ++ d) s
      | _ => serveMalformed f s)
  else if f.kind = 12 then
    (match f.payload with
      | [k] => serveCommit f.node k s
      | _ => serveMalformed f s)
  else if f.kind = 13 then
    (match f.payload with
      | [k, b] => serveLock f.node k b s
      | _ => serveMalformed f s)
  else if f.kind = 14 then
    (match f.payload with
      | [k, b] => serveUnlock f.node k b s
      | _ => serveMalformed f s)
  else serveMalformed f s

/-- Kinds 15 to 17: the voyage and the bunker. -/
def voyageRequest (f : Frame) (s : State) : State :=
  if f.kind = 15 then
    (match f.payload with
      | part :: rest => openFrame f part rest s
      | [] => serveMalformed f s)
  else if f.kind = 16 then
    (match f.payload with
      | [] => serveClose f.node s
      | _ => serveMalformed f s)
  else if f.kind = 17 then
    (match f.payload with
      | [t, a, b, c, d] => serveBunker f.node t (beNat [a, b, c, d]) s
      | _ => serveMalformed f s)
  else serveMalformed f s

/-- Kinds 18 to 20: the lineup, the make-up and the core reset. -/
def partRequest (f : Frame) (s : State) : State :=
  if f.kind = 18 then
    (match f.payload with
      | [e, t] => serveLineup f.node e t s
      | _ => serveMalformed f s)
  else if f.kind = 19 then
    (match f.payload with
      | [] => serveConfirm f.node s
      | _ => serveMalformed f s)
  else if f.kind = 20 then
    (match f.payload with
      | [] => serveReset f.node s
      | _ => serveMalformed f s)
  else serveMalformed f s

/-- A class 8 frame the FSW delivers, as one request. -/
def classEight (f : Frame) (s : State) : State :=
  if f.kind.toNat ≤ 6 then readRequest f s
  else if f.kind.toNat ≤ 10 then bankRequest f s
  else if f.kind.toNat ≤ 14 then commitRequest f s
  else if f.kind.toNat ≤ 17 then voyageRequest f s
  else partRequest f s

/-! ## SUMMARY (R202) -/

def summaryFrame (s : State) : Frame :=
  class12 2 (i2 s.tau.dEff ++ i2 s.tau.tEff ++ n2 s.cmu.headroom ++
    [summaryByte6 s.cmu.nAtt s.csu.allStop.isSome (isJoined s),
     summaryByte7 s.csu.inCommand s.hlc.state (makeupFault s)])

/-! ## Meanings -/

/-- SUMMARY_TIMER_EXPIRY (R202). -/
def execSummaryTimerExpiry (s : State) : Host.Outcome State Fault Refusal :=
  .next (whenRunning s fun s => onExpiry s.mgu.summary s fun s =>
    handStatus (summaryFrame s) (s.onMgu ({ · with summary := timerFor s Config.summaryTime })))

/-- LOAD_IDLE_TIMER_EXPIRY: the context is aborted without a response (R193). -/
def execLoadIdleTimerExpiry (s : State) : Host.Outcome State Fault Refusal :=
  .next (whenRunning s fun s => onExpiry s.mgu.loadIdle s abortLoad)

/-- A class 8 request of unknown kind or wrong length (R189). -/
def execMalformedRequest (frame : Frame) (s : State) : Host.Outcome State Fault Refusal :=
  .next (whenServing s (classEight frame))

/-- CLEAR-STICKY (R201). -/
def execClearSticky (node : Node) (s : State) : Host.Outcome State Fault Refusal :=
  .next (whenServing s (serveSticky node))

/-- BANK-ERASE (R191). -/
def execBankErase (node : Node) (kind bank : Byte) (s : State) : Host.Outcome State Fault Refusal :=
  .next (whenServing s (serveErase node kind bank))

/-- BANK-BLANK-CHECK (R191). -/
def execBankBlankCheck (node : Node) (kind bank : Byte) (s : State) : Host.Outcome State Fault Refusal :=
  .next (whenServing s (serveBlank node kind bank))

/-- LOAD-BEGIN (R192). -/
def execLoadBegin (node : Node) (kind bank : Byte) (count : BitVec 16) (s : State) :
    Host.Outcome State Fault Refusal :=
  .next (whenServing s (serveLoadBegin node kind bank count.toNat))

/-- LOAD-DATA (R193); with other than 6 data bytes it is malformed (R189). -/
def execLoadData (node : Node) (seq : BitVec 16) (bytes : List Byte) (s : State) :
    Host.Outcome State Fault Refusal :=
  .next (whenServing s fun s =>
    if bytes.length = 6 then serveLoadData node seq.toNat bytes s
    else serveMalformed { cls := 8, node := node, kind := 10, payload := beBytes 2 seq.toNat ++ bytes } s)

/-- LOAD-END (R193). -/
def execLoadEnd (node : Node) (crc : BitVec 32) (s : State) : Host.Outcome State Fault Refusal :=
  .next (whenServing s (serveLoadEnd node crc))

/-- BANK-COMMIT (R194). -/
def execBankCommit (node : Node) (kind : Byte) (s : State) : Host.Outcome State Fault Refusal :=
  .next (whenServing s (serveCommit node kind))

/-- BANK-LOCK (R195). -/
def execBankLock (node : Node) (kind bank : Byte) (s : State) : Host.Outcome State Fault Refusal :=
  .next (whenServing s (serveLock node kind bank))

/-- BANK-UNLOCK (R195). -/
def execBankUnlock (node : Node) (kind bank : Byte) (s : State) : Host.Outcome State Fault Refusal :=
  .next (whenServing s (serveUnlock node kind bank))

/-- VOYAGE-OPEN (R198). -/
def execVoyageOpen (node : Node) (part : Byte) (value : BitVec 32) (s : State) :
    Host.Outcome State Fault Refusal :=
  .next (whenServing s (serveOpen node part.toNat value.toNat))

/-- VOYAGE-CLOSE (R113, R198). -/
def execVoyageClose (node : Node) (s : State) : Host.Outcome State Fault Refusal :=
  .next (whenServing s (serveClose node))

/-- BUNKER (R111). -/
def execBunker (node : Node) (tank : Byte) (volume : BitVec 32) (s : State) : Host.Outcome State Fault Refusal :=
  .next (whenServing s (serveBunker node tank volume.toNat))

/-- SET-LINEUP (R110). -/
def execSetLineup (node : Node) (engine tank : Byte) (s : State) : Host.Outcome State Fault Refusal :=
  .next (whenServing s (serveLineup node engine tank))

/-- MAKEUP-CONFIRM (R81). -/
def execMakeupConfirm (node : Node) (s : State) : Host.Outcome State Fault Refusal :=
  .next (whenServing s (serveConfirm node))

/-- RESET-CORE (R199). -/
def execResetCore (node : Node) (s : State) : Host.Outcome State Fault Refusal :=
  .next (whenServing s (serveReset node))

end Sys2Proof.Machine
end

