-- ==== Sys2Proof/Machine/StoreEnd.lean ====
section
/-! DEFINITION. The ends of the MGU's operations on the store: the result, the store given on, and what the management unit
makes of it (R122, R125, R191 to R195). The store is given on before the MGU hands the next operation of a chain, so a
waiting checkpoint falls between the two (R123; log entry 33). -/

namespace Sys2Proof.Machine

/-- The operation has ended, and the store is given on. -/
def endOp (s : State) : State := giveStore (opEnded s)

/-! ## Erase and blank check -/

/-- An erased bank is no longer a standby choice (R191). -/
def dropStandby (b : BankId) (s : State) : State :=
  s.onMgu fun m =>
    { m with standby := if m.standby[kindIx b.kind] = some b.isB then m.standby.set (kindIx b.kind) none else m.standby }

def eraseEnds (b : BankId) (ok : Bool) (s : State) : State :=
  let s1 := if ok then onBank b (fun _ => Bank.erased) s else tearErase b s
  finishLong (if ok then .ok else .eraseFailed) [] (endOp (dropStandby b s1))

/-- The load context of a LOAD-BEGIN whose bank is blank opens (R192). -/
def openLoad (node : Node) (b : BankId) (count : Nat) (s : State) : State :=
  s.onMgu fun m =>
    { m with load := some { bank := b, node := node, count := count, next := 0, taken := 0, crc := crc32Preset },
             loadIdle := timerFor s Config.loadIdleTime }

def blankEnds (b : BankId) (s : State) : State :=
  let blank := bankBlank (bankAt s b)
  let s1 := endOp s
  if blank then
    match s.mgu.slot with
    | some ⟨node, .loadBegin _ count⟩ => finishLong .ok [] (openLoad node b count s1)
    | _ => finishLong .ok [] s1
  else finishLong .notBlank [] s1

/-! ## Load -/

/-- A verified LOAD-PROGRAM moves the context on (R193). -/
def advanceLoad (bytes : List Byte) (s : State) : State :=
  s.onMgu fun m =>
    { m with
      load := m.load.map fun c =>
        { c with next := c.next + 1, taken := c.taken + bytes.length, crc := crc32Run c.crc bytes },
      loadIdle := timerFor s Config.loadIdleTime }

/-- Bytes programmed at an address, and whether they read back as written. -/
def programmed (m : Memory) (a : Nat) (bytes : List Byte) : Memory × Bool :=
  let m1 := memProgramAll m a bytes
  (m1, memBytes m1 a bytes.length == bytes)

def loadEnds (b : BankId) (offset : Nat) (bytes : List Byte) (ok : Bool) (s : State) : State :=
  let x := programmed (bankAt s b).cells (32 + offset) bytes
  if ok && x.2 then
    finishLong .ok [] (advanceLoad bytes (endOp (onBank b ({ · with cells := x.1 }) s)))
  else
    let s1 :=
      if ok then onBank b (fun y => { y with cells := x.1, torn := true }) s
      else tearProgram b (32 + offset) bytes s
    finishLong .programFailed [] (abortLoad (endOp s1))

/-- The context closes, and its bank is the kind's standby choice (R193). -/
def closeLoad (b : BankId) (s : State) : State :=
  s.onMgu fun m =>
    { m with load := none, loadIdle := none, standby := m.standby.set (kindIx b.kind) (some b.isB) }

def headerEnds (b : BankId) (len : Nat) (crc : BitVec 32) (ok : Bool) (s : State) : State :=
  let bytes := headerBytes b.kind len crc
  let x := programmed (bankAt s b).cells 0 bytes
  if ok && x.2 then finishLong .ok [] (closeLoad b (endOp (onBank b ({ · with cells := x.1 }) s)))
  else
    let s1 :=
      if ok then onBank b (fun y => { y with cells := x.1, torn := true }) s
      else tearProgram b 0 bytes s
    finishLong .programFailed [] (abortLoad (endOp s1))

/-! ## Commit -/

/-- The field checks follow a passed COMMIT-CHECK, and the mark word follows them (R188, R194). -/
def checkEnds (b : BankId) (s : State) : State :=
  let bank := bankAt s b
  let ok := bankSound b.kind bank && fieldsOk b.kind (activeMakeup s) (bankBody bank)
  let number := nextCommit s b.kind
  let s1 := endOp s
  if ok then handOp (.markWord b number) s1 else finishLong .checkFailed [] s1

/-- The table is marked for its swap; WINDOW and FUELMAP may be swapped at once (R194). -/
def markSwap (k : Kind) (s : State) : State :=
  match k with
  | .alloc => s.onTau ({ · with swapWaiting := true })
  | .window => markWindow s
  | .makeup => s.onCmu ({ · with makeupSwap := true })
  | .coupling => s.onCmu ({ · with couplingSwap := true })
  | .fuelmap => answerCommit .fuelmap (fuelSwap s)

def markEnds (b : BankId) (number : Nat) (ok : Bool) (s : State) : State :=
  let x := programmed (bankAt s b).cells 16 (markBytes number)
  if ok && x.2 then
    let s1 := onBank b ({ · with cells := x.1 }) s
    let s2 := s1.onNvs fun n => { n with active := n.active.set (kindIx b.kind) (some b.isB) }
    markSwap b.kind (endOp s2)
  else
    let s1 := if ok then onBank b (fun y => { y with cells := x.1, markTorn := true }) s else tearMark b number s
    finishLong .programFailed [] (endOp s1)

/-! ## Meanings -/

/-- BANK_ERASE_END (R122, R191). -/
def execBankEraseEnd (ok : Bool) (s : State) : Host.Outcome State Fault Refusal :=
  .next (whenRunning s fun s =>
    match s.nvs.current with
    | some ⟨.bankErase b, d⟩ => eraseEnds b ok (s.upTo d)
    | _ => s)

/-- BLANK_CHECK_END (R122, R191, R192). -/
def execBlankCheckEnd (s : State) : Host.Outcome State Fault Refusal :=
  .next (whenRunning s fun s =>
    match s.nvs.current with
    | some ⟨.blankCheck b, d⟩ => blankEnds b (s.upTo d)
    | _ => s)

/-- LOAD_PROGRAM_END (R122, R193). -/
def execLoadProgramEnd (ok : Bool) (s : State) : Host.Outcome State Fault Refusal :=
  .next (whenRunning s fun s =>
    match s.nvs.current with
    | some ⟨.loadProgram b o l, d⟩ => loadEnds b o l ok (s.upTo d)
    | _ => s)

/-- HEADER_FIELDS_PROGRAM_END (R193). -/
def execHeaderFieldsProgramEnd (ok : Bool) (s : State) : Host.Outcome State Fault Refusal :=
  .next (whenRunning s fun s =>
    match s.nvs.current with
    | some ⟨.headerFields b n c, d⟩ => headerEnds b n c ok (s.upTo d)
    | _ => s)

/-- MARK_WORD_PROGRAM_END (R123, R194). -/
def execMarkWordProgramEnd (ok : Bool) (s : State) : Host.Outcome State Fault Refusal :=
  .next (whenRunning s fun s =>
    match s.nvs.current with
    | some ⟨.markWord b n, d⟩ => markEnds b n ok (s.upTo d)
    | _ => s)

/-- COMMIT_CHECK_END (R122, R188, R194). -/
def execCommitCheckEnd (s : State) : Host.Outcome State Fault Refusal :=
  .next (whenRunning s fun s =>
    match s.nvs.current with
    | some ⟨.commitCheck b, d⟩ => checkEnds b (s.upTo d)
    | _ => s)

/-- LOCK_PROGRAM_END (R122, R195). That a flag whose program failed is left partly written, and so reads locked at a later scan, is
the model's choice (log entry 80). -/
def execLockProgramEnd (ok : Bool) (s : State) : Host.Outcome State Fault Refusal :=
  .next (whenRunning s fun s =>
    match s.nvs.current with
    | some ⟨.lockProgram b, d⟩ =>
      finishLong (if ok then .ok else .programFailed) []
        (endOp (setLock b (if ok then .written else .partly) true (s.upTo d)))
    | _ => s)

/-- LOCK_ERASE_END (R122, R195). -/
def execLockEraseEnd (ok : Bool) (s : State) : Host.Outcome State Fault Refusal :=
  .next (whenRunning s fun s =>
    match s.nvs.current with
    | some ⟨.lockErase b, d⟩ =>
      finishLong (if ok then .ok else .eraseFailed) []
        (endOp (setLock b (if ok then .erased else .partly) (!ok) (s.upTo d)))
    | _ => s)

end Sys2Proof.Machine
end

