-- ==== Sys2Proof/Machine/Delivery.lean ====
section
/-! DEFINITION. The outcome of a switching: windows, defaults, delivery, the management path and forwarding (R154 to R166). -/

namespace Sys2Proof.Machine

/-! ## Windows and defaults (R156, R157, R160, R164) -/

def windowMatches (x : InSwitch) (w : Window) : Bool :=
  let h := (headerOf x.frame).toNat
  w.valid && portSetHas w.ingress x.ingress && decide (w.base ≤ h) && decide (h ≤ w.limit)

/-- What decides a frame: a window, or the default of its ingress port. -/
inductive Decision where
  | window (w : Window)
  | byDefault (deliver : Bool)
  deriving DecidableEq, Repr

/-- The first matching window, or the default; while WINDOW is unloaded every default is DROP. -/
def decisionOf (t : Option WindowTable) (x : InSwitch) : Decision :=
  match t with
  | none => .byDefault false
  | some t =>
    match t.windows.toList.find? (windowMatches x) with
    | some w => .window w
    | none => .byDefault t.defaults[portIx x.ingress]

/-- The action asks for a delivery. -/
def asksDelivery (d : Decision) : Bool :=
  match d with
  | .byDefault x => x
  | .window w =>
    match w.action with
    | .deliver => true
    | .deliverAndForward => true
    | .forward => false
    | .drop => false

/-- The egress ports of the copies, without the ingress port (R161). -/
def egressPorts (d : Decision) (ingress : PortName) : List PortName :=
  match d with
  | .byDefault _ => []
  | .window w =>
    match w.action with
    | .forward => [PortName.w, .p, .k, .h].filter fun n => portSetHas w.egress n && n != ingress
    | .deliverAndForward => [PortName.w, .p, .k, .h].filter fun n => portSetHas w.egress n && n != ingress
    | .deliver => []
    | .drop => []

/-- A management node: in the set, or any while the set is empty or WINDOW is unloaded (R159, R164). -/
def isManagementNode (t : Option WindowTable) (node : Node) : Bool :=
  t.elim true fun t => t.nodes.isEmpty || t.nodes.contains node.toNat

/-- Whether the class has a unit that takes it from this ingress on this role (R158); class 8 goes by R159. -/
def hasUnit (role : Role) (x : InSwitch) : Bool :=
  match x.frame.cls.toNat with
  | 0 => true
  | 1 => true
  | 2 => role == .helper && x.ingress == .h
  | 3 => true
  | 4 => x.ingress == .k
  | 5 => true
  | 6 => true
  | 7 => x.ingress == .h
  | _ => false

/-- The frame is delivered (R158, R159). -/
def isDelivered (s : State) (x : InSwitch) (d : Decision) : Bool :=
  if x.frame.cls = 8 then x.ingress == .w && isManagementNode s.fsw.table x.frame.node
  else asksDelivery d && hasUnit s.role x

/-- The unit of the class takes the frame as its own event. -/
def giveUnit (f : Frame) (s : State) : State :=
  match f.cls.toNat with
  | 0 => classZero f s
  | 1 => classOne f s
  | 2 => classTwo f s
  | 3 => classThree f s
  | 4 => classFour f s
  | 5 => classFive f s
  | 6 => classSix f s
  | 7 => classSeven f s
  | 8 => if s.mgu.resetting then s else classEight f s
  | _ => s

/-! ## Counters and copies (R159 to R162) -/

def countAt (v : Vector Nat 4) (x : PortName) : Vector Nat 4 := updAt v (portIx x) satInc

/-- A class 8 frame that is refused: on W one of an unknown node, elsewhere one whose action asks for a delivery. -/
def isRefused (s : State) (x : InSwitch) (d : Decision) : Bool :=
  x.frame.cls == 8 && !isDelivered s x d && (x.ingress == .w || asksDelivery d)

/-- A frame that a DROP window ends, or a forward without an egress port, unless it was also delivered (R161). -/
def countsWindowDrop (s : State) (x : InSwitch) (d : Decision) : Bool :=
  match d with
  | .byDefault _ => false
  | .window w =>
    match w.action with
    | .drop => true
    | .forward => (egressPorts d x.ingress).isEmpty
    | .deliverAndForward => (egressPorts d x.ingress).isEmpty && !isDelivered s x d
    | .deliver => false

/-- The FSW's own counters of a frame (R168). DEDUCED, unsafe (log entry 64): a class 8 frame that the management path
delivers under a DROP default counts in the default-drop counter too, as R160 reads. -/
def countOutcome (x : InSwitch) (d : Decision) (s : State) : State :=
  s.onFsw fun w =>
    { w with
      windowDrop := if countsWindowDrop s x d then countAt w.windowDrop x.ingress else w.windowDrop,
      defaultDrop := if d = .byDefault false then countAt w.defaultDrop x.ingress else w.defaultDrop,
      undeliverable :=
        if x.frame.cls != 8 && asksDelivery d && !hasUnit s.role x then countAt w.undeliverable x.ingress
        else w.undeliverable,
      refused := if isRefused s x d then countAt w.refused x.ingress else w.refused }

/-- The copy of a forward: the node moved by the window's offset, used within 0 to 63 (R161, section 9.2). -/
def copyOf (f : Frame) (d : Decision) : Frame :=
  match d with
  | .byDefault _ => f
  | .window w => { f with node := f.node + BitVec.ofNat 6 (limitNat w.offset 0 63) }

/-- One copy handed to an egress; a DROPPED report is counted (R162). -/
def forwardTo (f : Frame) (s : State) (x : PortName) : State :=
  match (match x with
    | .w => handPort .w f .fsw s
    | .p => handPort .p f .fsw s
    | .k => handPort .k f .fsw s
    | .h => handLink f .fsw s) with
  | (s1, true) => s1
  | (s1, false) => s1.onFsw fun w => { w with egressDrop := countAt w.egressDrop x }

/-- The outcome of a frame, all at once: its counts, its delivery, then its copies (log entry 34). -/
def applyOutcome (x : InSwitch) (s : State) : State :=
  let d := decisionOf s.fsw.table x
  let s1 := countOutcome x d s
  let s2 := if isDelivered s x d then giveUnit x.frame s1 else s1
  whenRunning s2 fun s => (egressPorts d x.ingress).foldl (forwardTo (copyOf x.frame d)) s

/-- SWITCHING_END: the outcome, then a WINDOW swap that waits, then the next take (R154, R165). A READ-STATUS that it delivers shows
the switch free, before the copies, a waiting swap and the next take: which two events of the FSW the read lies between is the model's
choice (R169, log entry 34). -/
def execSwitchingEnd (s : State) : Host.Outcome State Fault Refusal :=
  .next (whenRunning s fun s =>
    match s.fsw.inSwitch with
    | none => s
    | some x =>
      let s1 := (s.upTo x.deadline).onFsw ({ · with inSwitch := none })
      whenRunning (applyOutcome x s1) fun s =>
        arbiterTake (if s.fsw.swapWaiting then windowSwap s else s))

end Sys2Proof.Machine
end

