-- ==== Sys2Proof/Machine/Dispatch.lean ====
section
/-! DEFINITION. The dispatch: one arm for each command, each a direct call of its meaning. -/

namespace Sys2Proof.Machine

/-- The effect of a command on everything but the queue of waiting commands. -/
def exec (i : Instr) (s : State) : Host.Outcome State Fault Refusal :=
  match i with
  | .supplyOn strap => Sys2Proof.Machine.execSupplyOn strap s
  | .startUpScanEnd => Sys2Proof.Machine.execStartUpScanEnd s
  | .supplyLoss => Sys2Proof.Machine.execSupplyLoss s
  | .resetPinAssert => Sys2Proof.Machine.execResetPinAssert s
  | .resetPinRelease => Sys2Proof.Machine.execResetPinRelease s
  | .coreResetEnd => Sys2Proof.Machine.execCoreResetEnd s
  | .allStop node => Sys2Proof.Machine.execAllStop node s
  | .helm node d t seq => Sys2Proof.Machine.execHelm node d t seq s
  | .take node => Sys2Proof.Machine.execTake node s
  | .give node => Sys2Proof.Machine.execGive node s
  | .takeForce node => Sys2Proof.Machine.execTakeForce node s
  | .takeBack node => Sys2Proof.Machine.execTakeBack node s
  | .joinGive node => Sys2Proof.Machine.execJoinGive node s
  | .allStopClear node => Sys2Proof.Machine.execAllStopClear node s
  | .unknownNodeFrame frame => Sys2Proof.Machine.execUnknownNodeFrame frame s
  | .joinOffer => Sys2Proof.Machine.execJoinOffer s
  | .joinAccept => Sys2Proof.Machine.execJoinAccept s
  | .unjoin reason => Sys2Proof.Machine.execUnjoin reason s
  | .presenceTimerExpiry station => Sys2Proof.Machine.execPresenceTimerExpiry station s
  | .freshnessTimerExpiry station => Sys2Proof.Machine.execFreshnessTimerExpiry station s
  | .staleHoldTimerExpiry => Sys2Proof.Machine.execStaleHoldTimerExpiry s
  | .transferTimerExpiry => Sys2Proof.Machine.execTransferTimerExpiry s
  | .joinAnswerTimerExpiry => Sys2Proof.Machine.execJoinAnswerTimerExpiry s
  | .setpointLossTimerExpiry => Sys2Proof.Machine.execSetpointLossTimerExpiry s
  | .holdTimerExpiry => Sys2Proof.Machine.execHoldTimerExpiry s
  | .allocationCycle => Sys2Proof.Machine.execAllocationCycle s
  | .engineFb node rpm gear rate flags => Sys2Proof.Machine.execEngineFb node rpm gear rate flags s
  | .rudderFb node angle => Sys2Proof.Machine.execRudderFb node angle s
  | .malformedFeedback frame => Sys2Proof.Machine.execMalformedFeedback frame s
  | .hSetpointFrame frame => Sys2Proof.Machine.execHSetpointFrame frame s
  | .engineFeedbackTimerExpiry engine => Sys2Proof.Machine.execEngineFeedbackTimerExpiry engine s
  | .rudderFeedbackTimerExpiry rudder => Sys2Proof.Machine.execRudderFeedbackTimerExpiry rudder s
  | .deviationTimerExpiry rudder => Sys2Proof.Machine.execDeviationTimerExpiry rudder s
  | .refreshTimerExpiry => Sys2Proof.Machine.execRefreshTimerExpiry s
  | .pollRoundTimerExpiry => Sys2Proof.Machine.execPollRoundTimerExpiry s
  | .report node tension flags => Sys2Proof.Machine.execReport node tension flags s
  | .malformedReport frame => Sys2Proof.Machine.execMalformedReport frame s
  | .pollAnswerTimerExpiry => Sys2Proof.Machine.execPollAnswerTimerExpiry s
  | .recomputeCompletion => Sys2Proof.Machine.execRecomputeCompletion s
  | .releaseArm node coupling => Sys2Proof.Machine.execReleaseArm node coupling s
  | .releaseGo node coupling complement => Sys2Proof.Machine.execReleaseGo node coupling complement s
  | .releaseFrameUnknownKind frame => Sys2Proof.Machine.execReleaseFrameUnknownKind frame s
  | .releaseDone node result => Sys2Proof.Machine.execReleaseDone node result s
  | .armTimerExpiry => Sys2Proof.Machine.execArmTimerExpiry s
  | .releaseAnswerTimerExpiry => Sys2Proof.Machine.execReleaseAnswerTimerExpiry s
  | .meter node totalizer temperature flags => Sys2Proof.Machine.execMeter node totalizer temperature flags s
  | .malformedMeter frame => Sys2Proof.Machine.execMalformedMeter frame s
  | .meterSilenceTimerExpiry meter => Sys2Proof.Machine.execMeterSilenceTimerExpiry meter s
  | .jumpListAgeOut meter => Sys2Proof.Machine.execJumpListAgeOut meter s
  | .fuelWindowTimerExpiry => Sys2Proof.Machine.execFuelWindowTimerExpiry s
  | .checkpointTimerExpiry => Sys2Proof.Machine.execCheckpointTimerExpiry s
  | .bankEraseEnd ok => Sys2Proof.Machine.execBankEraseEnd ok s
  | .blankCheckEnd => Sys2Proof.Machine.execBlankCheckEnd s
  | .loadProgramEnd ok => Sys2Proof.Machine.execLoadProgramEnd ok s
  | .headerFieldsProgramEnd ok => Sys2Proof.Machine.execHeaderFieldsProgramEnd ok s
  | .markWordProgramEnd ok => Sys2Proof.Machine.execMarkWordProgramEnd ok s
  | .commitCheckEnd => Sys2Proof.Machine.execCommitCheckEnd s
  | .lockProgramEnd ok => Sys2Proof.Machine.execLockProgramEnd ok s
  | .lockEraseEnd ok => Sys2Proof.Machine.execLockEraseEnd ok s
  | .slotEraseEnd ok => Sys2Proof.Machine.execSlotEraseEnd ok s
  | .slotProgramEnd ok => Sys2Proof.Machine.execSlotProgramEnd ok s
  | .receiveFrame port header length payload crc delimiter => Sys2Proof.Machine.execReceiveFrame port header length payload crc delimiter s
  | .frameOffer port => Sys2Proof.Machine.execFrameOffer port s
  | .arbitrationLoss port => Sys2Proof.Machine.execArbitrationLoss port s
  | .acknowledgeSlot port dominant => Sys2Proof.Machine.execAcknowledgeSlot port dominant s
  | .bitError port => Sys2Proof.Machine.execBitError port s
  | .dominantRunNinthBit port => Sys2Proof.Machine.execDominantRunNinthBit port s
  | .dominantRunEnd port => Sys2Proof.Machine.execDominantRunEnd port s
  | .busBreak port => Sys2Proof.Machine.execBusBreak port s
  | .stuckBus port => Sys2Proof.Machine.execStuckBus port s
  | .isolationTimerExpiry port => Sys2Proof.Machine.execIsolationTimerExpiry port s
  | .portRestart port => Sys2Proof.Machine.execPortRestart port s
  | .replyWindowAnswered => Sys2Proof.Machine.execReplyWindowAnswered s
  | .replyWindowExpiry => Sys2Proof.Machine.execReplyWindowExpiry s
  | .switchingEnd => Sys2Proof.Machine.execSwitchingEnd s
  | .retryTimerExpiry => Sys2Proof.Machine.execRetryTimerExpiry s
  | .tsReceived lane ts => Sys2Proof.Machine.execTsReceived lane ts s
  | .tsSendTimer => Sys2Proof.Machine.execTsSendTimer s
  | .goodSetFix => Sys2Proof.Machine.execGoodSetFix s
  | .trainingTimerExpiry => Sys2Proof.Machine.execTrainingTimerExpiry s
  | .laneLossTimerExpiry lane otherDelivers => Sys2Proof.Machine.execLaneLossTimerExpiry lane otherDelivers s
  | .linkFrameCrcError lane => Sys2Proof.Machine.execLinkFrameCrcError lane s
  | .laneErrorAgeOut lane => Sys2Proof.Machine.execLaneErrorAgeOut lane s
  | .data lane queue seq frame => Sys2Proof.Machine.execData lane queue seq frame s
  | .creditAnnounce lane queue epoch free => Sys2Proof.Machine.execCreditAnnounce lane queue epoch free s
  | .creditConfirm lane queue epoch => Sys2Proof.Machine.execCreditConfirm lane queue epoch s
  | .creditReturn lane queue epoch total => Sys2Proof.Machine.execCreditReturn lane queue epoch total s
  | .creditRefreshTimerExpiry => Sys2Proof.Machine.execCreditRefreshTimerExpiry s
  | .linkControlSend lane => Sys2Proof.Machine.execLinkControlSend lane s
  | .dataSend lane => Sys2Proof.Machine.execDataSend lane s
  | .dataSendEnd lane => Sys2Proof.Machine.execDataSendEnd lane s
  | .summaryTimerExpiry => Sys2Proof.Machine.execSummaryTimerExpiry s
  | .loadIdleTimerExpiry => Sys2Proof.Machine.execLoadIdleTimerExpiry s
  | .malformedRequest frame => Sys2Proof.Machine.execMalformedRequest frame s
  | .identify node => Sys2Proof.Machine.execIdentify node s
  | .readRecord node type index => Sys2Proof.Machine.execReadRecord node type index s
  | .readStatus node area => Sys2Proof.Machine.execReadStatus node area s
  | .counterRead node block => Sys2Proof.Machine.execCounterRead node block s
  | .counterClear node block => Sys2Proof.Machine.execCounterClear node block s
  | .clearSticky node => Sys2Proof.Machine.execClearSticky node s
  | .bankErase node kind bank => Sys2Proof.Machine.execBankErase node kind bank s
  | .bankBlankCheck node kind bank => Sys2Proof.Machine.execBankBlankCheck node kind bank s
  | .loadBegin node kind bank count => Sys2Proof.Machine.execLoadBegin node kind bank count s
  | .loadData node seq bytes => Sys2Proof.Machine.execLoadData node seq bytes s
  | .loadEnd node crc => Sys2Proof.Machine.execLoadEnd node crc s
  | .bankCommit node kind => Sys2Proof.Machine.execBankCommit node kind s
  | .bankLock node kind bank => Sys2Proof.Machine.execBankLock node kind bank s
  | .bankUnlock node kind bank => Sys2Proof.Machine.execBankUnlock node kind bank s
  | .voyageOpen node part value => Sys2Proof.Machine.execVoyageOpen node part value s
  | .voyageClose node => Sys2Proof.Machine.execVoyageClose node s
  | .bunker node tank volume => Sys2Proof.Machine.execBunker node tank volume s
  | .setLineup node engine tank => Sys2Proof.Machine.execSetLineup node engine tank s
  | .makeupConfirm node => Sys2Proof.Machine.execMakeupConfirm node s
  | .resetCore node => Sys2Proof.Machine.execResetCore node s
  | .busIdle port => Sys2Proof.Machine.execBusIdle port s

end Sys2Proof.Machine
end

