-- ==== Sys2Proof/Safety.lean ====
section
/-! DEFINITION. What every state of a run must satisfy: at most one station in command and one request (R11), queues within
their depths (R138, R177), the store's bytes in canonical form, and every raised alarm listed once with its sticky flag set
(R200, R201); and the terms in which the statements say what an effect does. -/

namespace Sys2Proof.Machine

/-- Exactly the station that the unit names is IN-COMMAND, and exactly the one whose request is pending is REQUESTING (R11:
exactly one or zero stations are in command; section 1.1). -/
def Csu.OneHolder (c : Csu) : Prop :=
  (∀ i : Fin 4, c.stations[i].state = .inCommand ↔ c.inCommand = some i) ∧
    ∀ i : Fin 4, c.stations[i].state = .requesting ↔ c.request = some i

/-- No queue of a segment port holds more than its depth (R138, R140). -/
def PortCtl.WithinDepth (c : PortCtl) : Prop :=
  ∀ q : Fin 4, c.rx[q].length ≤ Config.segmentDepth ∧ c.tx[q].length ≤ Config.segmentDepth

/-- No queue of the helper link holds more than its depth (R177). -/
def Hlc.WithinDepth (h : Hlc) : Prop :=
  ∀ q : Fin 4, h.queues[q].rx.length ≤ Config.linkDepth ∧ h.queues[q].tx.length ≤ Config.linkDepth

/-- Every area of the store is in canonical form. -/
def Nvs.Canonical (n : Nvs) : Prop :=
  (∀ b : Fin 10, n.banks[b].cells.wf = true) ∧ ∀ i : Fin 8, n.slots[i].cells.wf = true

/-- A raised alarm stands once in the raised set, and its code's sticky flag is set (R200, R201). -/
def Mgu.AlarmsKept (m : Mgu) : Prop :=
  m.raised.Nodup ∧ ∀ x ∈ m.raised, m.sticky[alarmIx x.1] = true

/-- The books balance while SAT is clear: opening total + bunkered total = the eight balances + the four engine totals
(R116). -/
def Fau.Balanced (u : Fau) : Prop :=
  u.sat = false →
    u.voyage.opening + u.voyage.bunkered = ∑ i : Fin 8, u.tanks[i].balance + ∑ e : Fin 4, u.accounts[e].total

/-- The invariant of the part. -/
structure Sound (s : State) : Prop where
  csu : s.csu.OneHolder
  pcw : s.pcw.WithinDepth
  pcp : s.pcp.WithinDepth
  pck : s.pck.WithinDepth
  hlc : s.hlc.WithinDepth
  nvs : s.nvs.Canonical
  mgu : s.mgu.AlarmsKept

/-- The commands that act while the part is not running: the supply, the RESET pin, and the end of a core reset (R130,
R133, R199). -/
def actsOutsideRun (c : Instr) : Bool :=
  match c with
  | .supplyOn _ => true
  | .startUpScanEnd => true
  | .supplyLoss => true
  | .resetPinAssert => true
  | .resetPinRelease => true
  | .coreResetEnd => true
  | _ => false

/-! ## The terms in which the statements frame an effect -/

/-- `t` is `s` but for what telling the outside leaves: frames added behind those that wait in the PCW's transmit queues,
the PCW's counters of dropped frames, and the MGU's raised set, sticky record and drop counters. -/
structure Told (s t : State) : Prop where
  rest : t = { s with pcw := t.pcw, mgu := t.mgu }
  port : t.pcw = { s.pcw with tx := t.pcw.tx, txDrop := t.pcw.txDrop, flushDrop := t.pcw.flushDrop }
  queues : ∀ q : Fin 4, s.pcw.tx[q] <+: t.pcw.tx[q]
  unit : t.mgu = { s.mgu with raised := t.mgu.raised, sticky := t.mgu.sticky, statusDrop := t.mgu.statusDrop,
                              responseDrop := t.mgu.responseDrop }

/-- The frames that wait in a receive queue as the arbiter sees them: a DISABLED queue of the link holds none (R153). -/
def framesAt (s : State) (n : PortName) (q : Fin 4) : List Frame :=
  match n with
  | .w => s.pcw.rx[q]
  | .p => s.pcp.rx[q]
  | .k => s.pck.rx[q]
  | .h => if s.hlc.queues[q].state = .disabled then [] else s.hlc.queues[q].rx

/-- How many ports stand before `n` in the cycle W, P, K, H, counted from the port after the last served (R153). -/
def turnOf (s : State) (n : PortName) : Nat := ((portIx n).val + 3 - (portIx s.fsw.lastServed).val) % 4

/-- `t` is `a` after the arbiter has looked (R153, R154, R180): nothing has changed while a frame is in the switch or
none waits. Otherwise the oldest frame of the lowest-numbered queue that is not empty, at the first port of the cycle
that holds one, is in the switch for 200 µs, and its entry is free; a freed entry of the link counts toward the
credits returned, and while UP a CREDIT-RETURN waits for it. That none is placed outside UP is the model's choice (log entry 97). -/
structure ArbiterLooked (a t : State) : Prop where
  keeps : a.fsw.inSwitch ≠ none ∨ (∀ n q, framesAt a n q = []) → t = a
  takes : ∀ (n : PortName) (q : Fin 4) (f : Frame) (rest : List Frame), a.fsw.inSwitch = none →
    framesAt a n q = f :: rest → (∀ j : Fin 4, j < q → framesAt a n j = []) →
    (∀ m j, turnOf a m < turnOf a n → framesAt a m j = []) →
    let z := { a with fsw := { a.fsw with
      inSwitch := some { frame := f, ingress := n, deadline := a.now + 200 }, lastServed := n } }
    let left := fun c : PortCtl => { c with rx := updAt c.rx q fun _ => rest }
    let owes := fun (l : Lane) (c : LaneCtl) =>
      if a.hlc.state = .up ∧ laneOfQueue a q = some l ∧ Control.ret q ∉ c.control
      then { c with control := c.control ++ [.ret q] } else c
    t = match n with
      | .w => { z with pcw := left a.pcw }
      | .p => { z with pcp := left a.pcp }
      | .k => { z with pck := left a.pck }
      | .h => { z with hlc := { a.hlc with
          queues := updAt a.hlc.queues q fun y => { y with rx := rest, freed := (y.freed + 1) % 256 },
          lane0 := owes .h0 a.hlc.lane0, lane1 := owes .h1 a.hlc.lane1 } }

/-- A class 1 frame from `n` is from the configured station `i`, which is present (R3). -/
structure Sender (s : State) (n : Node) (i : Fin 4) : Prop where
  running : s.power = .run
  found : findStation s n = some i
  here : s.csu.stations[i].state ≠ .absent
  heard : s.csu.stations[i].silent = false

/-- The presence timer of a station restarted at 1000 ms (R3). -/
def heardFrom (i : Fin 4) (s : State) : State :=
  { s with csu := { s.csu with
      stations := updAt s.csu.stations i ({ · with presence := some (s.now + 1000 * Config.usPerMs) }) } }

/-- A pending release arm ended by a change of command or an all-stop (R11, R12, R90); a release in progress goes on. -/
def Release.disarmed (r : Release) : Release :=
  match r with
  | .armed _ _ _ _ => .idle
  | .idle => .idle
  | .releasing a b c d e => .releasing a b c d e

/-- From `s`, station `i` has been granted command (R11): `t` differs from `s` by that, and by what was told. -/
structure GrantedTo (i : Fin 4) (s t : State) : Prop where
  told : Told { s with csu := t.csu, cmu := { s.cmu with release := s.cmu.release.disarmed } } t
  unit : t.csu = { s.csu with
    stations := t.csu.stations, inCommand := some i, request := none, transfer := none, phase := .fresh, staleHold := none,
    dAp := if (stationOf s i).kind = .autopilot then s.csu.dStar else s.csu.dAp }
  granted : t.csu.stations[i] = { s.csu.stations[i] with
    state := .inCommand, silent := false,
    freshness := if helmFresh s i = true then s.csu.stations[i].freshness else some (s.now + 300 * Config.usPerMs) }
  before : ∀ o : Fin 4, s.csu.inCommand = some o → o ≠ i →
    t.csu.stations[o] = if s.csu.stations[o].presence = none
      then { s.csu.stations[o] with state := .absent, silent := false, last := none, freshness := none }
      else { s.csu.stations[o] with state := .present, silent := false }
  others : ∀ j : Fin 4, j ≠ i → s.csu.inCommand ≠ some j →
    t.csu.stations[j] = if s.csu.request = some j
      then { s.csu.stations[j] with state := .present }
      else s.csu.stations[j]
  notStale : ∀ j, isRaised .commandStale j t = false

/-- A pending arm, when there is one, ends with ARM-CANCELLED naming its station and its coupling (R90). -/
def armEnded (s : State) : State :=
  match s.cmu.release with
  | .armed st j _ _ => reportStatus (some st) .armCancelled (BitVec.ofNat 8 j) { s with cmu := { s.cmu with release := .idle } }
  | .idle => s
  | .releasing _ _ _ _ _ => s

/-- The frames of a grant to station `i`, in order, from `s` (R11, R90): the clears of COMMAND-STALE, GRANTED, the frame of the
station that was in command (GIVEN where it gave, else what it becomes), and ARM-CANCELLED. The order (log entry 8) and the outcome of
a station that did not give (PRESENT-ON or ABSENT-ON, log entry 22) are the model's. -/
structure GrantHanded (i : Fin 4) (gave : Bool) (s t : State) : Prop where
  alone : s.csu.inCommand = none →
    t = armEnded (report i .granted (clearAllOf .commandStale { s with csu := t.csu }))
  taken : ∀ o : Fin 4, s.csu.inCommand = some o →
    t = armEnded (report o (if gave then .given else if s.csu.stations[o].presence = none then .absentOn else .presentOn)
      (report i .granted (clearAllOf .commandStale { s with csu := t.csu })))

/-! ## Engine records made LOST, and the end of a lead's join (R19, R50, R56) -/

/-- A record written NEUTRAL at an idle speed: a new neutral-since time unless its gear was NEUTRAL before (R50, R51). -/
def madeNeutral (now idle : Nat) (r : EngineRec) : EngineRec :=
  { r with gear := .neutral, rpm := idle, filled := true, fresh := true,
           neutralSince := if r.gear = .neutral then r.neutralSince else now }

/-- A record made LOST with good-feedback run 0; one that was AVAILABLE is written NEUTRAL at idle (R50, R56). -/
def madeLost (now idle : Nat) (r : EngineRec) : EngineRec :=
  { (if r.avail = .available then madeNeutral now idle r else r) with avail := .lost, run := 0 }

/-- On `u`, ENGINE-FAULT cleared for X1, then for X2, where the record that `s` holds is configured and FAULTED (R56). The order is the
model's (log entry 84). -/
def faultsCleared (s u : State) : State :=
  let one := fun (e : Fin 6) (v : State) =>
    if (engineEntry s e).configured && s.piu.engines[e].avail == .faulted then clearAlarm .engineFault (.engine e) v else v
  one 5 (one 4 u)

/-- From `s`, a lead has left JOINED, with the detail that UNJOINED carries (R19, R56). That ENGINE-FAULT is cleared before
HELPER-UNJOINED is raised is the model's order (log entry 84). -/
structure LeadLeft (detail : Byte) (s t : State) : Prop where
  whole : t = reportStatus s.csu.inCommand .unjoined detail (raiseAlarm .helperUnjoined .none (faultsCleared s
    { s with csu := { s.csu with join := .localMode, setpointLoss := none, hold := none },
             piu := { s.piu with engines := t.piu.engines } }))
  raised : isRaised .helperUnjoined .none t = true
  others : ∀ e : Fin 6, e.val < 4 ∨ (engineEntry s e).configured = false → t.piu.engines[e] = s.piu.engines[e]
  lost : ∀ e : Fin 6, 4 ≤ e.val → (engineEntry s e).configured = true →
    t.piu.engines[e] = madeLost s.now (engineOf s e).idle s.piu.engines[e]
  noEngineLost : ∀ e : Fin 6, isRaised .engineLost (.engine e) t = isRaised .engineLost (.engine e) s

/-! ## The swap of an ALLOC table (R1, R19, R46, R194) -/

/-- The entry of station `i` is replaced when the active bank's table comes into force: unless both entries are configured with one
node (R1). -/
def stationReplaced (s : State) (i : Fin 4) : Bool :=
  let a := (allocOf s).elim noStation (·.stations[i])
  let b := ((activeAlloc s).map limitAlloc).elim noStation (·.stations[i])
  !(a.configured && b.configured && a.node == b.node)

/-- The station in command is one whose entry is replaced. -/
def holderReplaced (s : State) : Bool := s.csu.inCommand.any (stationReplaced s)

/-- The pending request ends: the entry of its station is replaced, or that of the station in command (R1). -/
def requestReplaced (s : State) : Bool := s.csu.request.any fun q => stationReplaced s q || holderReplaced s

/-- A lead that is JOINED to its helper finds no X slot in the active bank's table (R19). -/
def losesXSlots (s : State) : Bool :=
  s.role == .lead && (s.csu.join == .joined || s.csu.join == .holding) &&
    !((activeAlloc s).elim false fun x => x.engines[4].configured || x.engines[5].configured || x.rudders[2].configured)

/-- An engine record made LOST by a swap: its feedback timer starts anew (R46). -/
def lostBySwap (now idle : Nat) (r : EngineRec) : EngineRec :=
  { madeLost now idle r with timer := some (now + 600 * Config.usPerMs) }

/-- The STATION-STATUS frames of the swap that one station causes, by station, outcome and detail: REMOVED when it is removed, with the
CANCELLED of a request that ends by it before and the ARM-CANCELLED of the station in command behind (R1, R90). The order is the
model's (log entries 9 and 56). -/
def removalReports (s : State) (i : Fin 4) : List (Byte × StatusOutcome × Byte) :=
  let ends := fun j : Fin 4 => stationReplaced s j && (s.csu.inCommand == some j || s.csu.request == some j)
  let cancelled : List (Byte × StatusOutcome × Byte) := match s.csu.request with
    | some q => if ends i && (List.finRange 4).all (fun j => i ≤ j || !ends j) then [(byteOf q.val, .cancelled, 255)] else []
    | none => []
  let disarmed : List (Byte × StatusOutcome × Byte) := match s.cmu.release with
    | .armed st k _ _ => if s.csu.inCommand = some i then [(byteOf st.val, .armCancelled, byteOf k)] else []
    | .idle => []
    | .releasing _ _ _ _ _ => []
  if stationReplaced s i && s.csu.stations[i].state != .absent then cancelled ++ (byteOf i.val, .removed, 255) :: disarmed else []

/-- Those of all stations, then the UNJOINED of a lead that has lost its X slots (R14, R19), which names the station in command or none
(the model's choice, log entry 54). -/
def swapReports (s : State) : List (Byte × StatusOutcome × Byte) :=
  (List.finRange 4).flatMap (removalReports s) ++
    if losesXSlots s
      then [(if holderReplaced s then 255 else s.csu.inCommand.elim 255 fun i => byteOf i.val, .unjoined, reasonByte .noXSlot)]
      else []

/-- From `s`, the table of the active ALLOC bank has come into force, and the commit that waited is answered. -/
structure AllocTaken (s u : State) : Prop where
  told : Told { s with
    tau := { s.tau with alloc := activeAlloc s, swapWaiting := false }, csu := u.csu,
    piu := { s.piu with engines := u.piu.engines, rudders := u.piu.rudders },
    cmu := { s.cmu with release := if holderReplaced s then s.cmu.release.disarmed else s.cmu.release },
    hlc := if losesXSlots s then (handLink (unjoinFrame .noXSlot) .csu s).1.hlc else s.hlc,
    mgu := { s.mgu with slot := none } } u
  unit : u.csu = { s.csu with
    stations := u.csu.stations,
    inCommand := if holderReplaced s then none else s.csu.inCommand,
    phase := if holderReplaced s then .fresh else s.csu.phase,
    staleHold := if holderReplaced s then none else s.csu.staleHold,
    dStar := if holderReplaced s then 0 else s.csu.dStar,
    tStar := if holderReplaced s then 0 else s.csu.tStar,
    request := if requestReplaced s then none else s.csu.request,
    transfer := if requestReplaced s then none else s.csu.transfer,
    dAp := if s.csu.inCommand.any (fun i => !stationReplaced s i && (stationOf s i).kind == .manual &&
        (activeAlloc s).any (·.stations[i].kind == .autopilot)) then s.csu.dStar else s.csu.dAp,
    join := if losesXSlots s then .localMode else s.csu.join,
    setpointLoss := if losesXSlots s then none else s.csu.setpointLoss,
    hold := if losesXSlots s then none else s.csu.hold }
  stations : ∀ i : Fin 4, u.csu.stations[i] =
    if stationReplaced s i then Station.initial
    else if s.csu.request = some i ∧ holderReplaced s = true then { s.csu.stations[i] with state := .present }
    else s.csu.stations[i]
  engines : ∀ e : Fin 6,
    let a := (allocOf s).elim noEngine (·.engines[e])
    let b := ((activeAlloc s).map limitAlloc).elim noEngine (·.engines[e])
    let r := s.piu.engines[e]
    u.piu.engines[e] = match a.configured, b.configured with
      | true, true => if a.fbNode = b.fbNode then r else lostBySwap s.now (r.retiring.getD b).idle r
      | true, false => { r with retiring := some a }
      | false, true => lostBySwap s.now b.idle { r with retiring := none }
      | false, false => r
  rudders : ∀ i : Fin 3,
    let a := (allocOf s).elim noRudder (·.rudders[i])
    let b := ((activeAlloc s).map limitAlloc).elim noRudder (·.rudders[i])
    let r := s.piu.rudders[i]
    u.piu.rudders[i] = match a.configured, b.configured with
      | true, true => if a.fbNode = b.fbNode then r else { r with avail := .lost, deviation := none }
      | true, false => { r with avail := .unconfigured, angle := none, fresh := false, timer := none, deviation := none }
      | false, true => { r with avail := .lost, timer := some (s.now + 600 * Config.usPerMs), deviation := none }
      | false, false => r
  alarms : ∀ (x : Alarm) (j : Subject), isRaised x j u = true ↔
    (losesXSlots s = true ∧ x = .helperUnjoined ∧ j = .none) ∨
    (isRaised x j s = true ∧ ¬(x = .commandStale ∧ holderReplaced s = true) ∧
      (∀ e : Fin 6, x = .engineFault → j = .engine e → s.piu.engines[e].avail = .faulted →
        u.piu.engines[e].avail = .faulted) ∧
      ∀ i : Fin 3, x = .rudderLost ∨ x = .rudderFault → j = .rudder i →
        ((allocOf s).elim noRudder (·.rudders[i])).configured = true → ((activeAlloc s).elim noRudder (·.rudders[i])).configured = true)
  reports : s.pcw.state ≠ .isolated → u.pcw.tx[classQueue s .w 12].length < 16 →
    (((u.pcw.tx[classQueue s .w 12].drop s.pcw.tx[classQueue s .w 12].length).map (·.frame)).filter
      fun f => f.cls == 12 && f.kind == 1).map (fun f => (f.payload[0]?, f.payload[5]?, f.payload[6]?)) =
    (swapReports s).map fun x => (some x.1, some (outcomeByte x.2.1), some x.2.2)
  answered : ∀ node, s.mgu.slot = some ⟨node, .commit .alloc⟩ → s.pcw.state ≠ .isolated →
    u.pcw.tx[classQueue s .w 9].length < 16 →
    u.pcw.tx[classQueue s .w 9].getLast? = some
      { frame := { cls := 9, node := node, kind := 12, payload := [0, 128] ++ beBytes 4 (activeCommit s .alloc) }, origin := .mgu }

/-! ## The end of a poll and the caps -/

/-- How the running round goes on when its outstanding poll has ended (R73, R75), from `s`, with the list `l` still to come. The
first coupling of the list that is neither RELEASING nor RELEASED gets its POLL, here with K in RUN and room in its queue. With none
the round ends and h is published; a marked start then begins the next round at once, here with no commit to swap in. -/
structure PollFollows (l : List Nat) (s u : State) : Prop where
  next : ∀ (passed : List Nat) (j : Nat) (rest : List Nat) (c : Coupling), l = passed ++ j :: rest →
    (∀ k ∈ passed, ∀ x, s.cmu.couplings[k]? = some x → x.state = .releasing ∨ x.state = .released) →
    s.cmu.couplings[j]? = some c → c.state ≠ .releasing → c.state ≠ .released →
    s.pck.state = .run → s.pck.tx[classQueue s .k 4].length < 16 →
    u.cmu.round = some { poll := ⟨j, c.entry.node, s.cmu.serial⟩, rest := rest } ∧ u.cmu.serial = s.cmu.serial + 1 ∧
      u.cmu.answer = none ∧ u.cmu.startMarked = s.cmu.startMarked ∧ u.cmu.headroom = s.cmu.headroom ∧
      u.pck = { s.pck with tx := updAt s.pck.tx (classQueue s .k 4) (· ++
        [{ frame := { cls := 4, node := BitVec.ofNat 6 c.entry.node, kind := 1, payload := [] }, origin := .cmuPoll s.cmu.serial }]) }
  ends : (∀ k ∈ l, ∀ x, s.cmu.couplings[k]? = some x → x.state = .releasing ∨ x.state = .released) → s.cmu.startMarked = false →
    u.cmu.round = none ∧ u.cmu.answer = none ∧ u.cmu.serial = s.cmu.serial ∧ u.cmu.headroom = headroomOf u.cmu ∧ u.pck = s.pck
  marked : (∀ k ∈ l, ∀ x, s.cmu.couplings[k]? = some x → x.state = .releasing ∨ x.state = .released) → s.cmu.startMarked = true →
    s.cmu.makeupSwap = false → s.cmu.couplingSwap = false → s.cmu.firstRound = false →
    u.cmu.startMarked = false ∧ u.cmu.answer = none ∧ u.cmu.headroom = headroomOf u.cmu ∧
      ((∀ x ∈ s.cmu.couplings, x.state = .releasing ∨ x.state = .released) → u.cmu.round = none ∧ u.pck = s.pck) ∧
      ∀ (i : Nat) (c : Coupling), s.cmu.couplings[i]? = some c → c.state ≠ .releasing → c.state ≠ .released →
        (∀ (j : Nat) (x : Coupling), j < i → s.cmu.couplings[j]? = some x → x.state = .releasing ∨ x.state = .released) →
        s.pck.state = .run → s.pck.tx[classQueue s .k 4].length < 16 →
        ∃ rest : List Nat, rest.Pairwise (· < ·) ∧
          (∀ j, j ∈ rest ↔ i < j ∧ ∃ x, s.cmu.couplings[j]? = some x ∧ x.state ≠ .releasing ∧ x.state ≠ .released) ∧
          u.cmu.round = some { poll := ⟨i, c.entry.node, s.cmu.serial⟩, rest := rest } ∧ u.cmu.serial = s.cmu.serial + 1 ∧
          u.pck = { s.pck with tx := updAt s.pck.tx (classQueue s .k 4) (· ++
            [{ frame := { cls := 4, node := BitVec.ofNat 6 c.entry.node, kind := 1, payload := [] },
               origin := .cmuPoll s.cmu.serial }]) }

/-- The engine records of `t` are those of `a` with the caps that the tanks and the lineup of `t` give E1 to E4 (R36, R109): a cap is
written where it differs from the one last written, or to `every` engine. A cap other than none lowers the rpm of a slot in gear to
its bound at once and marks the slot fresh; else the slot stays. -/
structure CapsFollow (every : Bool) (a t : State) : Prop where
  others : ∀ i : Fin 6, 4 ≤ i.val → t.piu.engines[i] = a.piu.engines[i]
  same : ∀ e : Fin 4,
    let r := a.piu.engines[(⟨e.val, by omega⟩ : Fin 6)]
    let cap := if t.fau.tanks[t.fau.lineup[e]].state = .normal then none
      else some (t.fau.table.elim 700 fun x => min x.cR 1000)
    every = false → r.cap = cap → t.piu.engines[(⟨e.val, by omega⟩ : Fin 6)] = r
  lifted : ∀ e : Fin 4,
    let r := a.piu.engines[(⟨e.val, by omega⟩ : Fin 6)]
    every = true ∨ r.cap ≠ none → t.fau.tanks[t.fau.lineup[e]].state = .normal →
      t.piu.engines[(⟨e.val, by omega⟩ : Fin 6)] = { r with cap := none }
  bounded : ∀ e : Fin 4,
    let r := a.piu.engines[(⟨e.val, by omega⟩ : Fin 6)]
    let x := engineOf a ⟨e.val, by omega⟩
    let k := t.fau.table.elim 700 fun x => min x.cR 1000
    let top := match r.gear with | .ahead => x.maxAhead | .astern => x.maxAstern | .neutral => x.idle
    let bound := x.idle + (top - x.idle) * k / 1000
    every = true ∨ r.cap ≠ some k → t.fau.tanks[t.fau.lineup[e]].state ≠ .normal →
      t.piu.engines[(⟨e.val, by omega⟩ : Fin 6)] =
        if r.filled = true ∧ r.gear ≠ .neutral ∧ bound < r.rpm then { r with cap := some k, rpm := bound, fresh := true }
        else { r with cap := some k }

/-! ## What an operation of the store that did not end well leaves (R133) -/

/-- What an erase that did not end well leaves: no bit is cleared. -/
def erasedInPart (old new : Memory) : Prop := ∀ a, memRead old a &&& memRead new a = memRead old a

/-- What a program of bytes from an address on that did not end well leaves: no bit is set, no bit is cleared that the
program does not clear. -/
def writtenInPart (old new : Memory) (at' : Nat) (l : List Byte) : Prop :=
  ∀ a, let all := memRead old a &&& (if at' ≤ a ∧ a < at' + l.length then l.getD (a - at') 0 else 255)
    memRead new a &&& memRead old a = memRead new a ∧ all &&& memRead new a = all

/-! ## What a reset leaves -/

/-- The values that every unit takes at the end of a supply-on reset and of a core reset alike, with the tables of the store's active
banks (R2, R21, R45, R67, R87, R152, R167, R171, R204), and what the FAU's start makes of them: the tanks evaluated as from NORMAL, the
lineup copies and the caps, the alarms with the frames that report them (R118, R119, R138, R200, R201). `kept` is the sticky
record before the reset's end, `gap` the subject with which ACCOUNT-GAP is raised. An engine or rudder that no table names is as
log entries 3 and 59 have it; n_att is the number of listed units also while COUPLING is unloaded (the model's choice, log entry 62).
The order of the alarms is open here, and the frames go in the order of the raised set's list (log entry 31). -/
structure UnitsStart (kept : Vector Bool 27) (gap : Option Subject) (t : State) : Prop where
  runs : t.power = .run ∧ t.origin = t.now
  csu : t.csu = {
    stations := Vector.replicate 4 { state := .absent, silent := false, last := none, presence := none, freshness := none },
    inCommand := none, phase := .fresh, request := none, allStop := none, dAp := 0, dStar := 0, tStar := 0, join := .localMode,
    staleHold := none, transfer := none, joinAnswer := none, setpointLoss := none, hold := none, helmClamp := 0, helmRepeat := 0,
    unknownNode := 0, class7Ignored := 0 }
  tau : t.tau = {
    alloc := activeAlloc t, swapWaiting := false, dEff := 0, tEff := 0, timer := some (t.now + 50 * Config.usPerMs) }
  piu : t.piu = {
    engines := t.piu.engines, rudders := t.piu.rudders, refresh := some (t.now + 100 * Config.usPerMs), unknownFeedback := 0,
    malformedFeedback := 0, unackedSetpoint := 0, hDiscarded := 0 }
  engines : ∀ i : Fin 6,
    let entry := (activeAlloc t).map (·.engines[i])
    let set := entry.elim false (·.configured)
    t.piu.engines[i] = {
      retiring := none, avail := if set then .lost else .unconfigured, gear := .neutral, neutralSince := t.now,
      rpm := entry.elim 0 (·.idle), filled := false, fresh := false, seq := 0, feedback := none, run := 0,
      cap := t.piu.engines[i].cap, lineup := t.piu.engines[i].lineup,
      timer := if set then some (t.now + 600 * Config.usPerMs) else none }
  lineups : ∀ e : Fin 4,
    let r := t.piu.engines[(⟨e.val, by omega⟩ : Fin 6)]
    r.lineup = t.fau.lineup[e] ∧ r.cap =
      if t.fau.tanks[t.fau.lineup[e]].state = .normal then none else some (t.fau.table.elim 700 fun x => min x.cR 1000)
  capless : ∀ i : Fin 6, 4 ≤ i.val → t.piu.engines[i].cap = none ∧ t.piu.engines[i].lineup = 0
  rudders : ∀ i : Fin 3,
    let set := ((activeAlloc t).map (·.rudders[i])).elim false (·.configured)
    t.piu.rudders[i] = {
      avail := if set then .lost else .unconfigured, angle := none, fresh := false, seq := 0, feedback := none,
      timer := if set then some (t.now + 600 * Config.usPerMs) else none, deviation := none }
  cmu :
    let units := sortUnits ((activeMakeup t).getD [])
    let params := (activeCoupling t).elim CouplingParams.default (·.params)
    let couplings := (activeCoupling t).elim [] (·.couplings)
    t.cmu = {
      units := units.map fun e => { entry := e, attached := true }, makeupSwap := false, params := params,
      couplings := couplings.map fun e =>
        { entry := e, state := .slack, tension := none, brake := none, hook := none, missed := 0, good := 0, failed := false },
      couplingSwap := false, roundTimer := some (t.now + max 50 (min params.period 5000) * Config.usPerMs), round := none,
      startMarked := false, firstRound := true, answer := none, recompute := none, recomputePending := false, lossSet := [],
      releaseSet := [], rebuild := false, nAtt := (units.filter (·.id ≠ 0)).length,
      headroom := if couplings = [] then 1000 else min params.hSilent 1000,
      causes := { breakaway := false, makeupCommit := false, couplingCommit := false }, breakaways := [], release := .idle,
      serial := 0, roundOverrun := 0, malformedReport := 0, unsolicitedReport := 0, tensionClamp := 0, coalesced := 0 }
  ports :
    let quiet : PortCtl := {
      state := .run, rx := Vector.replicate 4 [], tx := Vector.replicate 4 [], overrunFlag := Vector.replicate 4 false,
      line := .waitIdle, sending := none, acked := false, isolation := none, window := none, crcError := 0, busError := 0,
      arbitrationLoss := 0, ackFailure := 0, flushDrop := 0, txDrop := Vector.replicate 4 0, overrun := Vector.replicate 4 0,
      breaks := 0 }
    t.pcp = quiet ∧ t.pck = quiet ∧ t.pcw = { quiet with tx := t.pcw.tx, txDrop := t.pcw.txDrop }
  fsw : t.fsw = {
    table := activeWindow t, commit := (activeBank t .window).elim 0 bankCommit, swapWaiting := false, inSwitch := none,
    lastServed := .h, windowDrop := Vector.replicate 4 0, defaultDrop := Vector.replicate 4 0,
    undeliverable := Vector.replicate 4 0, refused := Vector.replicate 4 0, egressDrop := Vector.replicate 4 0 }
  hlc :
    let silent : LaneCtl := {
      bad := false, errors := [], tsRun := 0, good := false, loss := none, control := [], sending := none, out := .silent,
      crcError := 0 }
    t.hlc = {
      state := .down, inUse := none, lane0 := silent, lane1 := silent, queues := t.hlc.queues,
      progress := { good := none, partnerGood := none, chosen := none, readySent := false, partnerReady := none, roleSeen := false,
                    spent := false },
      retry := some (t.now + 25 * Config.usPerMs), training := none, goodFix := none, tsTimer := none, creditRefresh := none,
      sequenceError := 0, mapMismatch := 0, disabledDrop := 0, flushDrop := 0 }
  queues : ∀ q : Fin 4, t.hlc.queues[q] = {
    state := if (activeWindow t).elim (q == 0) (·.enables[q]) then .pending else .disabled, rx := [], tx := [], credit := 0,
    sendSeq := 0, expected := 0, epoch := 0, announced := 0, confirmed := false, partner := none, lastReturn := 0, freed := 0,
    lostFrames := 0, overrun := 0, txDrop := 0 }
  mgu : t.mgu = {
    slot := none, load := none, assembly := none, standby := Vector.replicate 5 none, raised := t.mgu.raised, sticky := t.mgu.sticky,
    resetting := false, summary := some (t.now + 1000 * Config.usPerMs), loadIdle := none, malformedRequest := 0, responseDrop := 0,
    statusDrop := t.mgu.raised.length - 16 }
  fau : t.fau = { t.fau with
    windowTimer := some (t.now + 60000 * Config.usPerMs), checkpointTimer := some (t.now + 60000 * Config.usPerMs),
    unknownMeter := 0, malformedMeter := 0, jump := 0, temperatureClamp := 0, carryBound := 0 }
  tanks : ∀ i : Fin 8,
    let entry := t.fau.table.map (·.tanks[i])
    let set := entry.elim false (·.defined)
    let capacity := entry.elim 0 fun x => max 1 (min x.capacity 140737488355327)
    let reserve := entry.elim 0 fun x => min x.reserve (capacity - 1)
    let v := t.fau.tanks[i].balance
    t.fau.tanks[i].overfull = (set && decide ((capacity : Int) < v)) ∧
      t.fau.tanks[i].state = if set = false then .normal else if v ≤ 0 then .empty else if v ≤ reserve then .reserve else .normal
  raised : ∀ (a : Alarm) (j : Subject), isRaised a j t = true ↔
    (∃ i : Fin 8, j = .tank i ∧ ((a = .tankReserve ∧ t.fau.tanks[i].state ≠ .normal) ∨
      (a = .tankEmpty ∧ t.fau.tanks[i].state = .empty) ∨ (a = .tankOverfull ∧ t.fau.tanks[i].overfull = true))) ∨
    (a = .fuelSat ∧ j = .none ∧ t.fau.sat = true) ∨ (a = .accountGap ∧ gap = some j)
  once : t.mgu.raised.Nodup
  sticky : ∀ a : Alarm, t.mgu.sticky[alarmIx a] = true ↔ kept[alarmIx a] = true ∨ ∃ j, isRaised a j t = true
  told :
    let q := classQueue t .w 12
    let l := t.mgu.raised
    t.pcw.tx[q].length = min 16 l.length ∧ t.pcw.txDrop[q] = l.length - 16 ∧
      (∀ p : Fin 4, p ≠ q → t.pcw.tx[p] = [] ∧ t.pcw.txDrop[p] = 0) ∧
      ∀ (k : Nat) (a : Alarm) (j : Subject), k < 16 → l[k]? = some (a, j) →
        t.pcw.tx[q][k]? = some
          { frame := { cls := 12, node := 0, kind := 3,
                       payload := [BitVec.ofNat 8 (alarmCode a), 1, subjectType j, subjectByte j,
                                   BitVec.ofNat 8 ((l.take (k + 1)).countP (·.1 == a))] },
            origin := .mgu }

end Sys2Proof.Machine
end

