-- ==== Sys2Proof/Certificates/Slice0/Obligations.lean ====
section
/-! DEFINITION. The statements for the provers, taken from the numbered rules of spec/ chapter by chapter. `Told` and its
companions are the frame terms of Safety; times are microseconds, `Config.usPerMs` to the millisecond. -/

open Sys2Proof Sys2Proof.Machine

/-- A step takes the command at the front of the queue and is its meaning on the state with the rest; with none
waiting the clock counts one tick (the queue and the tick are the model's choice, log entries 1 and 7). -/
def Obligations.StepRunsFrontCommand : Prop :=
  (∀ (c : Instr) (s : State), step (s.withPending (c :: s.pending)) = exec c s) ∧
  (∀ (c : Instr) (rest : List Instr) (s : State), s.pending = c :: rest → step s = exec c (s.withPending rest)) ∧
  ∀ s : State, s.pending = [] → step s = .next { s with now := s.now + 1 }

/-- R130, R199: while the scan runs or a core reset lasts, no command but those of the supply, the RESET pin and the
ends of the two resets has an effect; the same while the supply is off. The rules say this of starting timers and of
taking and sending frames; that nothing else acts either, and that the supply being off is such a time, is the
model's choice (log entry 46). -/
def Obligations.QuietOutsideRun : Prop :=
  ∀ (c : Instr) (s : State), s.power ≠ .run → actsOutsideRun c = false → exec c s = .next s

/-- The invariant holds right after reset. -/
def Obligations.SoundAtReset : Prop := Sound State.reset

/-- Every step keeps the invariant: one holder and one request at most (R11), queues within their depths (R138,
R177), the store in canonical form, each raised alarm listed once and sticky (R200, R201). -/
def Obligations.SoundKeptByStep : Prop :=
  ∀ s t : State, Sound s → step s = .next t → Sound t

/-- That every command completes on every state, none faulting and none refused, is the model's reading of the spec,
which names no event that stops the part (log entry 2). None touches the queue, which is the model's own (log entry
7), or moves the one clock back (log entry 1); these two are the model's choice. Only SUPPLY_ON of a part without
supply sets the role (R130), and only the pin's own commands move the pin (R199). -/
def Obligations.EveryCommandCompletes : Prop :=
  ∀ (c : Instr) (s : State), ∃ t, exec c s = .next t ∧ t.pending = s.pending ∧ s.now ≤ t.now ∧
    (t.role = s.role ∨ ∃ strap, c = .supplyOn strap ∧ s.power = .off ∧ t.role = strap) ∧
    (t.resetPin = s.resetPin ∨ (c = .resetPinAssert ∧ t.resetPin = true) ∨ (c = .resetPinRelease ∧ t.resetPin = false))

/-- R116: every command but the end of the start-up scan, which takes the accounts from the store, keeps the books
balanced. -/
def Obligations.BooksStayBalanced : Prop :=
  ∀ (c : Instr) (s t : State), c ≠ .startUpScanEnd → s.fau.Balanced → exec c s = .next t → t.fau.Balanced

/-- R130, R133: the supply's return samples the strap and starts the scan; its loss, with the store idle, keeps the
banks, the lock flags and the slots and nothing else. R133, R199: the RESET pin, with the store idle, starts a core
reset at once: the banks, the lock flags, the slots, the active banks and the lock states stay, and so do the
retained accounts and the sticky record. R193: the core reset aborts an open load context, whose bank is not blank from
then on, while a loss of supply leaves it as its bytes stand; the mark and that a loss of supply sets none are the
model's choices (log entry 91). What either leaves of a running operation is the statement InterruptedOperations. A
RESET pin asserted while the start-up scan runs only sets the pin (log entry 30), and the volatile state stands
cleared while the supply is off or the core reset lasts (log entry 46): both are the model's choices. -/
def Obligations.SupplyAndResetBegin : Prop :=
  ((∀ (strap : Role) (s : State), s.power = .off →
     exec (.supplyOn strap) s = .next { s with power := .scan, role := strap }) ∧
   (∀ (strap : Role) (s : State), s.power ≠ .off → exec (.supplyOn strap) s = .next s) ∧
   (∀ s : State, s.power = .off → exec .supplyLoss s = .next s) ∧
   ∀ s : State, s.power ≠ .off → s.nvs.current = none → s.nvs.suspended = none →
     exec .supplyLoss s = .next
       { power := .off, role := s.role, resetPin := s.resetPin, now := s.now, origin := s.origin, freeCount := s.freeCount,
         csu := Csu.initial, tau := Tau.initial, piu := Piu.initial, cmu := Cmu.initial, fau := Fau.initial,
         nvs := { Nvs.initial with banks := s.nvs.banks, flags := s.nvs.flags, slots := s.nvs.slots },
         pcw := PortCtl.initial, pcp := PortCtl.initial, pck := PortCtl.initial, fsw := Fsw.initial, hlc := Hlc.initial,
         mgu := Mgu.initial, pending := s.pending }) ∧
   ((∀ s : State, s.power = .run → s.nvs.current = none → s.nvs.suspended = none →
     exec .resetPinAssert s = .next
       { power := .coreReset, role := s.role, resetPin := true, now := s.now, origin := s.origin, freeCount := s.freeCount,
         csu := Csu.initial, tau := Tau.initial, piu := Piu.initial, cmu := Cmu.initial,
         fau := { s.fau with windowTimer := none, checkpointTimer := none },
         nvs := { s.nvs with
           banks := s.mgu.load.elim s.nvs.banks fun c => updAt s.nvs.banks (bankIx c.bank) ({ · with torn := true }),
           suspended := none, waitingOp := none, checkpoint := none, waiting := none },
         pcw := PortCtl.initial, pcp := PortCtl.initial, pck := PortCtl.initial, fsw := Fsw.initial, hlc := Hlc.initial,
         mgu := { Mgu.initial with sticky := s.mgu.sticky }, pending := s.pending }) ∧
   (∀ s : State, s.power ≠ .run → exec .resetPinAssert s = .next { s with resetPin := true }) ∧
   ∀ s : State, exec .resetPinRelease s = .next { s with resetPin := false })

/-- R133: what a loss of supply, or a core reset by the RESET pin, leaves of the operation it cuts short. An erase
cut short has set some of the bits, a program cut short has cleared some of those it was to clear, and the area is
marked so that it is neither blank, nor valid, nor active (the marks and the free choice of bits are the model's
form of R133's table, log entries 12 and 48). R127: a record's CRC has not begun while the bytes before it are not
whole. A loss of supply leaves nothing else. The RESET pin leaves the active banks, the lock state but of the bank
whose lock operation it cuts short (which reads locked), the newest slot, the retained accounts and the sticky
record, and starts the core reset (R133, R199). It aborts an open load context, whose bank is marked not blank and
keeps its bytes (R193; the mark, and that a loss of supply sets none, are the model's choice, log entry 91). That the
volatile state stands cleared meanwhile is the model's choice (log entry 46). -/
def Obligations.InterruptedOperations : Prop :=
  ∀ (c : Instr) (s : State), c = .supplyLoss ∨ c = .resetPinAssert → s.power = .run → s.nvs.Canonical →
    ∃ t, exec c s = .next t ∧ t.nvs.current = none ∧ t.nvs.suspended = none ∧ t.nvs.waitingOp = none ∧
      t.nvs.checkpoint = none ∧ t.nvs.waiting = none ∧
      t = { s with
        power := t.power, resetPin := t.resetPin, freeCount := t.freeCount, csu := Csu.initial, tau := Tau.initial,
        piu := Piu.initial, cmu := Cmu.initial, fau := t.fau, nvs := t.nvs, pcw := PortCtl.initial, pcp := PortCtl.initial,
        pck := PortCtl.initial, fsw := Fsw.initial, hlc := Hlc.initial, mgu := t.mgu } ∧
      (c = .supplyLoss → t.power = .off ∧ t.resetPin = s.resetPin ∧ t.fau = Fau.initial ∧ t.mgu = Mgu.initial ∧
        t.nvs = { Nvs.initial with banks := t.nvs.banks, flags := t.nvs.flags, slots := t.nvs.slots }) ∧
      (c = .resetPinAssert → t.power = .coreReset ∧ t.resetPin = true ∧
        t.fau = { s.fau with windowTimer := none, checkpointTimer := none } ∧
        t.mgu = { Mgu.initial with sticky := s.mgu.sticky } ∧
        t.nvs = { s.nvs with
          banks := t.nvs.banks, flags := t.nvs.flags, slots := t.nvs.slots, locked := t.nvs.locked, current := none,
          suspended := none, waitingOp := none, checkpoint := none, waiting := none } ∧
        (∀ b d, s.nvs.current = some ⟨.lockProgram b, d⟩ ∨ s.nvs.current = some ⟨.lockErase b, d⟩ →
          t.nvs.locked = s.nvs.locked.set (bankIx b) true) ∧
        ((∀ b d, s.nvs.current ≠ some ⟨.lockProgram b, d⟩ ∧ s.nvs.current ≠ some ⟨.lockErase b, d⟩) →
          t.nvs.locked = s.nvs.locked)) ∧
      let runs := fun op : StoreOp => ∃ d, s.nvs.current = some ⟨op, d⟩
      let erases := fun b : BankId => runs (.bankErase b) ∨ ∃ r, s.nvs.suspended = some ⟨b, r⟩
      let onSlots := runs .slotErase ∨ runs .slotProgram
      let aborts := fun b : BankId => c = .resetPinAssert ∧ ∃ x, s.mgu.load = some x ∧ x.bank = b
      (∀ b, aborts b → bankBlank t.nvs.banks[bankIx b] = false) ∧
      (∀ b, (runs (.bankErase b) ∧ s.nvs.suspended = none) ∨ (onSlots ∧ ∃ r, s.nvs.suspended = some ⟨b, r⟩) →
        t.nvs.banks[bankIx b].torn = true ∧ t.nvs.banks[bankIx b].markTorn = s.nvs.banks[bankIx b].markTorn ∧
        erasedInPart s.nvs.banks[bankIx b].cells t.nvs.banks[bankIx b].cells) ∧
      (∀ b o l, runs (.loadProgram b o l) → s.nvs.suspended = none →
        t.nvs.banks[bankIx b].torn = true ∧ t.nvs.banks[bankIx b].markTorn = s.nvs.banks[bankIx b].markTorn ∧
        writtenInPart s.nvs.banks[bankIx b].cells t.nvs.banks[bankIx b].cells (32 + o) l) ∧
      (∀ b n x, runs (.headerFields b n x) → s.nvs.suspended = none →
        t.nvs.banks[bankIx b].torn = true ∧ t.nvs.banks[bankIx b].markTorn = s.nvs.banks[bankIx b].markTorn ∧
        writtenInPart s.nvs.banks[bankIx b].cells t.nvs.banks[bankIx b].cells 0 (headerBytes b.kind n x)) ∧
      (∀ b n, runs (.markWord b n) → s.nvs.suspended = none →
        (¬aborts b → t.nvs.banks[bankIx b].torn = s.nvs.banks[bankIx b].torn) ∧ t.nvs.banks[bankIx b].markTorn = true ∧
        markGood t.nvs.banks[bankIx b] = false ∧
        writtenInPart s.nvs.banks[bankIx b].cells t.nvs.banks[bankIx b].cells 16 (markBytes n)) ∧
      (∀ b, ¬erases b → (∀ o l, ¬runs (.loadProgram b o l)) → (∀ n x, ¬runs (.headerFields b n x)) →
        (∀ n, ¬runs (.markWord b n)) →
        (¬aborts b → t.nvs.banks[bankIx b] = s.nvs.banks[bankIx b]) ∧
        (aborts b → t.nvs.banks[bankIx b] = { s.nvs.banks[bankIx b] with torn := true })) ∧
      (∀ b, runs (.lockProgram b) ∨ runs (.lockErase b) → t.nvs.flags = s.nvs.flags.set (bankIx b) .partly) ∧
      ((∀ b, ¬runs (.lockProgram b) ∧ ¬runs (.lockErase b)) → t.nvs.flags = s.nvs.flags) ∧
      (∀ k, onSlots → s.nvs.checkpoint = some k →
        slotValid t.nvs.slots[k.slot] = false ∧ ∀ i, i ≠ k.slot → t.nvs.slots[i] = s.nvs.slots[i]) ∧
      (∀ k, runs .slotProgram → s.nvs.checkpoint = some k →
        memBytes t.nvs.slots[k.slot].cells 0 95 ≠ recordHead k.snapshot k.seq →
        ∀ a, 95 ≤ a → memRead t.nvs.slots[k.slot].cells a = memRead s.nvs.slots[k.slot].cells a) ∧
      (¬onSlots → t.nvs.slots = s.nvs.slots)

/-- R130 to R132: the scan's end takes for each kind the candidate bank with the higher commit number, A at equal
numbers, and none without a candidate; it reads the lock flags and the newest valid slot, and keeps the store. Every
unit starts at its reset values with those tables, as `UnitsStart` spells out (R2, R21, R45, R67, R152, R167, R171,
R204); the accounts are those recovered, or zero without a valid slot, every meter is UNSEEN (R118); ACCOUNT-GAP is
raised unless the recovered slot carries the closing flag. A RESET pin asserted then starts a core reset (the
model's choice, log entry 30); outside a scan the event does nothing (log entry 6). The records that no table names
are as log entries 3 and 59 have them; that n_att is the number of listed units also while COUPLING is unloaded is
the model's choice (log entry 62), and that the raised set lists its pairs as their frames go is log entry 31. -/
def Obligations.ScanTakesStore : Prop :=
  (∀ s : State, s.power ≠ .scan → exec .startUpScanEnd s = .next s) ∧
  (∀ s : State, s.power = .scan → s.resetPin = true →
    ∃ t, exec .startUpScanEnd s = .next t ∧ t.power = .coreReset ∧ t.resetPin = true) ∧
  ∀ s : State, s.power = .scan → s.resetPin = false →
    ∃ t, exec .startUpScanEnd s = .next t ∧ t.power = .run ∧ t.role = s.role ∧ t.now = s.now ∧ t.origin = s.now ∧
      t.nvs = { s.nvs with active := t.nvs.active, locked := t.nvs.locked, newest := newestSlot s.nvs.slots,
                           replacedSnapshot := 0, eraseSuspend := 0, slotFailure := 0 } ∧
      (∀ k, bankCandidate k s.nvs.banks[bankIx ⟨k, false⟩] = false → bankCandidate k s.nvs.banks[bankIx ⟨k, true⟩] = false →
        t.nvs.active[kindIx k] = none) ∧
      (∀ k (b : Bool), bankCandidate k s.nvs.banks[bankIx ⟨k, b⟩] = true →
        bankCandidate k s.nvs.banks[bankIx ⟨k, !b⟩] = false → t.nvs.active[kindIx k] = some b) ∧
      (∀ k, bankCandidate k s.nvs.banks[bankIx ⟨k, false⟩] = true → bankCandidate k s.nvs.banks[bankIx ⟨k, true⟩] = true →
        t.nvs.active[kindIx k] =
          some (decide (bankCommit s.nvs.banks[bankIx ⟨k, false⟩] < bankCommit s.nvs.banks[bankIx ⟨k, true⟩]))) ∧
      (∀ b : Fin 10, t.nvs.locked[b] = true ↔ s.nvs.flags[b] ≠ .erased) ∧
      (t.nvs.newest = none ↔ ∀ i : Fin 8, slotValid s.nvs.slots[i] = false) ∧
      (∀ n, t.nvs.newest = some n → slotValid s.nvs.slots[n.slot] = true ∧ n.seq = slotSeq s.nvs.slots[n.slot] ∧
        ∀ i : Fin 8, slotValid s.nvs.slots[i] = true → slotSeq s.nvs.slots[i] ≤ n.seq) ∧
      UnitsStart (Vector.replicate 27 false)
        (match t.nvs.newest with
          | none => some .none
          | some n => if (slotSnapshot t.nvs.slots[n.slot]).closing then none else some (.slot n.slot)) t ∧
      t.fau.table = activeFuel t ∧
      (∀ n, t.nvs.newest = some n →
        snapshotOf t.fau (slotSnapshot t.nvs.slots[n.slot]).closing = slotSnapshot t.nvs.slots[n.slot]) ∧
      (t.nvs.newest = none → (∀ i : Fin 8, t.fau.tanks[i].balance = 0) ∧ (∀ e : Fin 4, t.fau.accounts[e].total = 0) ∧
        t.fau.voyage = { number := 0, isOpen := false, opening := 0, bunkered := 0 } ∧ t.fau.sat = false ∧
        t.fau.lineup = (activeFuel t).elim (Vector.replicate 4 0) (·.lineup)) ∧
      (∀ e : Fin 4, t.fau.accounts[e] =
        { total := t.fau.accounts[e].total, pendingSupply := 0, pendingReturn := 0, carry := 0, residue := 0,
          lastFeedback := none, metered := 0, estimated := 0, void := true, disagree := 0 }) ∧
      (let entries := ((activeFuel t).elim [] (·.meters)).map fun e => { e with node := max 1 (min e.node 62) }
       t.fau.meters.length = entries.length ∧ ∀ (k : Nat) (e : MeterEntry), entries[k]? = some e →
         let ignored := ∃ j z, j < k ∧ entries[j]? = some z ∧
           (z.node = e.node ∨ (z.role = e.role ∧ ∀ a a', e.role ≠ .transfer a a'))
         let fresh : Meter := {
           entry := e, unused := false, state := .unseen, baseline := none, jumps := [], clean := 0, lastReport := none,
           carry := 0, silence := some (s.now + 5000 * Config.usPerMs) }
         (¬ignored → t.fau.meters[k]? = some fresh) ∧
         (ignored → t.fau.meters[k]? = some { fresh with unused := true, silence := none })) ∧
      (∀ j, isRaised .accountGap j t = true ↔
        (t.nvs.newest = none ∧ j = .none) ∨
        ∃ n, t.nvs.newest = some n ∧ (slotSnapshot t.nvs.slots[n.slot]).closing = false ∧ j = .slot n.slot)

/-- R119, R133, R199: a core reset lasts while the pin is asserted; its end keeps the retained accounts and the
active banks, reads the slots again, and starts every other unit at its reset values with the tables of the active
banks, as `UnitsStart` spells out (R2, R21, R45, R67, R152, R167, R171, R204); the sticky record is kept and no
ACCOUNT-GAP is raised. Outside a core reset the event does nothing (the model's choice, log entry 6). The records
that no table names are as log entries 3 and 59 have them; that n_att is the number of listed units also while
COUPLING is unloaded is the model's choice (log entry 62), and that the raised set lists its pairs as their frames go
is log entry 31. -/
def Obligations.CoreResetEnds : Prop :=
  (∀ s : State, s.power ≠ .coreReset → exec .coreResetEnd s = .next s) ∧
  (∀ s : State, s.power = .coreReset → s.resetPin = true → exec .coreResetEnd s = .next s) ∧
  ∀ s : State, s.power = .coreReset → s.resetPin = false →
    ∃ t, exec .coreResetEnd s = .next t ∧ t.power = .run ∧ t.role = s.role ∧ t.now = s.now ∧ t.origin = s.now ∧
      t.nvs = { s.nvs with newest := newestSlot s.nvs.slots, replacedSnapshot := 0, eraseSuspend := 0, slotFailure := 0 } ∧
      (t.nvs.newest = none ↔ ∀ i : Fin 8, slotValid s.nvs.slots[i] = false) ∧
      (∀ n, t.nvs.newest = some n → slotValid s.nvs.slots[n.slot] = true ∧ n.seq = slotSeq s.nvs.slots[n.slot] ∧
        ∀ i : Fin 8, slotValid s.nvs.slots[i] = true → slotSeq s.nvs.slots[i] ≤ n.seq) ∧
      UnitsStart s.mgu.sticky none t ∧
      (∀ i : Fin 8, t.fau.tanks[i].balance = s.fau.tanks[i].balance) ∧
      (∀ e : Fin 4, t.fau.accounts[e] =
        { total := s.fau.accounts[e].total, pendingSupply := 0, pendingReturn := 0, carry := s.fau.accounts[e].carry,
          residue := s.fau.accounts[e].residue, lastFeedback := none, metered := 0, estimated := 0, void := true,
          disagree := 0 }) ∧
      t.fau.voyage = s.fau.voyage ∧ t.fau.lineup = s.fau.lineup ∧ t.fau.sat = s.fau.sat ∧ t.fau.table = s.fau.table ∧
      t.fau.meters = s.fau.meters.map (fun m => if m.unused then m else
        { m with state := if m.baseline.isSome then .running else .unseen, jumps := [], clean := 0, lastReport := none,
                 silence := some (s.now + Config.ms 5000) }) ∧
      (∀ i : Fin 27, s.mgu.sticky[i] = true → t.mgu.sticky[i] = true) ∧
      ∀ j, isRaised .accountGap j t = false

/-- R3: a class 0 or class 1 frame from a node of no configured station, of another kind, or a HELM of another
length, and an ALL-STOP from an ABSENT station, are counted in the unknown-node counter and change nothing else. R3:
a class 1 frame of an ABSENT station first makes it PRESENT, with PRESENT-ON, and one of a silent station in command
first ends its silence; the frame then acts as from a station that is here. The PRESENT-ON of the station that was
silent is the model's choice (log entry 52). -/
def Obligations.ClassOneArrives : Prop :=
  (∀ s : State, s.power = .run →
     (∀ (n : Node), findStation s n = none → ∀ c,
       (c = .allStop n ∨ (∃ d t q, c = .helm n d t q) ∨ c = .take n ∨ c = .give n ∨ c = .takeForce n ∨ c = .takeBack n ∨
         c = .joinGive n ∨ c = .allStopClear n ∨
         ∃ f : Frame, c = .unknownNodeFrame f ∧ (f.cls = 0 ∨ f.cls = 1) ∧ f.node = n) →
       exec c s = .next { s with csu := { s.csu with unknownNode := min 65535 (s.csu.unknownNode + 1) } }) ∧
     (∀ (n : Node) (i : Fin 4), findStation s n = some i → s.csu.stations[i].state = .absent →
       exec (.allStop n) s = .next { s with csu := { s.csu with unknownNode := min 65535 (s.csu.unknownNode + 1) } }) ∧
     ∀ f : Frame, (f.cls = 0 ∧ f.kind ≠ 1) ∨ (f.cls = 1 ∧ (f.kind = 0 ∨ 7 < f.kind)) ∨
         (f.cls = 1 ∧ f.kind = 1 ∧ f.payload.length ≠ 5) →
       exec (.unknownNodeFrame f) s =
         .next { s with csu := { s.csu with unknownNode := min 65535 (s.csu.unknownNode + 1) } }) ∧
   (∀ (s : State) (n : Node) (i : Fin 4) (c : Instr), s.power = .run → findStation s n = some i →
     ((∃ d t q, c = .helm n d t q) ∨ c = .take n ∨ c = .give n ∨ c = .takeForce n ∨ c = .takeBack n ∨ c = .joinGive n ∨
       c = .allStopClear n) →
     (s.csu.stations[i].state = .absent → s.csu.stations[i].silent = false →
       exec c s = exec c (report i .presentOn (onStation i ({ · with state := .present }) (heardFrom i s)))) ∧
     (s.csu.stations[i].state ≠ .absent → s.csu.stations[i].silent = true →
       exec c s = exec c (report i .presentOn (onStation i ({ · with silent := false }) (heardFrom i s)))))

/-- R4: a HELM whose sequence repeats the station's last one renews its presence, is counted, and changes nothing
else; one that is accepted, from a station not in command, is recorded and starts the freshness timer at 300 ms.
Values beyond ±1000 are clamped and counted once. R4, R5, R6: an accepted HELM from the station in command also ends
staleness and forms the targets: the frame's for a MANUAL station, D_ap and T within ±T_ap for an AUTOPILOT, 0 while
all-stop is active. -/
def Obligations.HelmRows : Prop :=
  (∀ (s : State) (n : Node) (i : Fin 4) (d t : BitVec 16) (q : Byte), Sender s n i →
     let beyond : Bool := decide (1000 < d.toInt.natAbs) || decide (1000 < t.toInt.natAbs)
     let u := heardFrom i s
     let v : State := if beyond then { u with csu := { u.csu with helmClamp := min 65535 (s.csu.helmClamp + 1) } } else u
     ((∃ h, s.csu.stations[i].last = some h ∧ h.seq = q.toNat) →
       exec (.helm n d t q) s = .next { v with csu := { v.csu with helmRepeat := min 65535 (s.csu.helmRepeat + 1) } }) ∧
     ((∀ h, s.csu.stations[i].last = some h → h.seq ≠ q.toNat) → s.csu.inCommand ≠ some i →
       exec (.helm n d t q) s = .next { v with csu := { v.csu with stations := updAt v.csu.stations i fun r =>
         { r with last := some { d := max (-1000) (min d.toInt 1000), t := max (-1000) (min t.toInt 1000), seq := q.toNat,
                                 time := s.now },
                  freshness := some (s.now + 300 * Config.usPerMs) } } })) ∧
   (∀ (s : State) (n : Node) (i : Fin 4) (d t : BitVec 16) (q : Byte), Sender s n i → s.csu.inCommand = some i →
     (∀ h, s.csu.stations[i].last = some h → h.seq ≠ q.toNat) →
     let beyond : Bool := decide (1000 < d.toInt.natAbs) || decide (1000 < t.toInt.natAbs)
     let d1 : Int := max (-1000) (min d.toInt 1000)
     let t1 : Int := max (-1000) (min t.toInt 1000)
     let ap : Int := turnLimitOf s
     ∃ z, exec (.helm n d t q) s = .next z ∧ (∀ j, isRaised .commandStale j z = false) ∧
       Told { s with csu := { s.csu with
         helmClamp := if beyond then min 65535 (s.csu.helmClamp + 1) else s.csu.helmClamp,
         stations := updAt s.csu.stations i fun r =>
           { r with presence := some (s.now + 1000 * Config.usPerMs),
                    last := some { d := d1, t := t1, seq := q.toNat, time := s.now },
                    freshness := some (s.now + 300 * Config.usPerMs) },
         phase := .fresh, staleHold := none,
         dStar := if s.csu.allStop.isSome then 0
           else match (stationOf s i).kind with | .manual => d1 | .autopilot => s.csu.dAp,
         tStar := if s.csu.allStop.isSome then 0
           else match (stationOf s i).kind with | .manual => t1 | .autopilot => max (-ap) (min t1 ap) } } z)

/-- R7: the handle match. -/
def Obligations.HandleMatchHolds : Prop :=
  ∀ (s : State) (i : Fin 4), handleMatch s i = true ↔
    ∃ h, s.csu.stations[i].last = some h ∧ s.now < h.time + 300 * Config.usPerMs ∧
      match (stationOf s i).kind with
      | .manual => (h.d - s.tau.dEff).natAbs ≤ 50 ∧ (h.t - s.tau.tEff).natAbs ≤ 100
      | .autopilot =>
        (max (-(turnLimitOf s : Int)) (min h.t (turnLimitOf s)) - s.tau.tEff).natAbs ≤ 100

/-- R8: the rows of TAKE in their order, for a station that is here, on a part with at most one holder and one
request (R11, a part of the invariant `Sound`); a refusal and a request change nothing but what they name. The
frames of a grant, in the model's order (log entry 8), are said by `GrantHanded`; that the old holder is reported
PRESENT-ON or ABSENT-ON is the model's reading (log entry 22). -/
def Obligations.TakeRows : Prop :=
  ∀ (s : State) (n : Node) (i : Fin 4), Sender s n i → s.csu.OneHolder →
    let u := heardFrom i s
    let manual := (stationOf s i).kind = .manual
    let free := s.csu.inCommand = none ∨ s.csu.phase ≠ .fresh
    (s.csu.stations[i].state = .inCommand → exec (.take n) s = .next (report i .state u)) ∧
    (s.csu.stations[i].state = .present → s.csu.request ≠ none → exec (.take n) s = .next (report i .busy u)) ∧
    (s.csu.stations[i].state = .present → s.csu.request = none → manual → free → handleMatch s i = true →
      ∃ t, exec (.take n) s = .next t ∧ GrantedTo i u t ∧ GrantHanded i false u t) ∧
    (s.csu.stations[i].state = .present → s.csu.request = none → manual → free → handleMatch s i = false →
      exec (.take n) s = .next (report i .mismatch u)) ∧
    (s.csu.stations[i].state = .present → s.csu.request = none → ¬manual → s.csu.inCommand = none →
      exec (.take n) s = .next (report i .notPermitted u)) ∧
    (s.csu.stations[i].state = .present → s.csu.request = none → s.csu.inCommand ≠ none →
      (manual → s.csu.phase = .fresh) →
      exec (.take n) s = .next (report i .requesting { u with csu := { u.csu with
        stations := updAt u.csu.stations i ({ · with state := .requesting }), request := some i,
        transfer := some (s.now + 10000 * Config.usPerMs) } })) ∧
    (s.csu.stations[i].state = .requesting → manual → s.csu.phase ≠ .fresh → handleMatch s i = true →
      ∃ t, exec (.take n) s = .next t ∧ GrantedTo i u t ∧ GrantHanded i false u t) ∧
    (s.csu.stations[i].state = .requesting → manual → s.csu.phase ≠ .fresh → handleMatch s i = false →
      exec (.take n) s = .next (report i .mismatch { u with csu := { u.csu with
        stations := updAt u.csu.stations i ({ · with state := .present }), request := none, transfer := none } })) ∧
    (s.csu.stations[i].state = .requesting → (manual → s.csu.phase = .fresh) →
      exec (.take n) s = .next (report i .requesting u))

/-- R9: GIVE. The old holder is told GIVEN; the order of the frames of a grant is the model's (log entry 8). -/
def Obligations.GiveRows : Prop :=
  ∀ (s : State) (n : Node) (i : Fin 4), Sender s n i →
    let u := heardFrom i s
    (s.csu.inCommand ≠ some i → exec (.give n) s = .next (report i .notInCommand u)) ∧
    (s.csu.inCommand = some i → s.csu.request = none → exec (.give n) s = .next (report i .state u)) ∧
    (∀ r, s.csu.inCommand = some i → s.csu.request = some r → handleMatch s r = true →
      ∃ t, exec (.give n) s = .next t ∧ GrantedTo r u t ∧ GrantHanded r true u t) ∧
    ∀ r, s.csu.inCommand = some i → s.csu.request = some r → handleMatch s r = false →
      exec (.give n) s = .next (report r .mismatch { u with csu := { u.csu with
        stations := updAt u.csu.stations r ({ · with state := .present }), request := none, transfer := none } })

/-- R10: TAKE-FORCE. A pending request of another station ends with SUPERSEDED, which is told before the frames of
the grant (the model's order, log entry 8). That the old holder is reported PRESENT-ON or ABSENT-ON is the model's
reading (log entry 22). -/
def Obligations.TakeForceRows : Prop :=
  ∀ (s : State) (n : Node) (i : Fin 4), Sender s n i →
    let u := heardFrom i s
    (s.csu.inCommand = some i → exec (.takeForce n) s = .next (report i .state u)) ∧
    (s.csu.inCommand ≠ some i → (stationOf s i).force = false ∨ (stationOf s i).kind = .autopilot →
      exec (.takeForce n) s = .next (report i .notPermitted u)) ∧
    (s.csu.inCommand ≠ some i → (stationOf s i).force = true → (stationOf s i).kind = .manual →
      ∃ t, exec (.takeForce n) s = .next t ∧ GrantedTo i u t ∧
        (s.csu.request = none ∨ s.csu.request = some i → GrantHanded i false u t) ∧
        ∀ r, s.csu.request = some r → r ≠ i →
          GrantHanded i false (report r .superseded { u with csu := { u.csu with
            stations := updAt u.csu.stations r ({ · with state := .present }), request := none, transfer := none } }) t)

/-- R3, R12: an ALL-STOP frame of a station that is here raises all-stop with that station as its cause: the targets
and D_ap become 0, a pending arm is cancelled, and nothing else changes on a part that has no join or offer to end.
While all-stop is active a further raise changes nothing. R144, R12: a BREAK on W counts, and raises all-stop with
cause BREAK; one on P or K is a bus error; an ISOLATED port detects none. ARM-CANCELLED is told before ALL-STOP-ON,
and that before the UNJOINED of a helper that leaves, with the ALARM of a JOINED one between (the model's order, log
entry 8). That this UNJOINED names the station in command, or none, is the model's choice (log entry 54). -/
def Obligations.AllStopRaised : Prop :=
  (∀ (s : State) (n : Node) (i : Fin 4), s.power = .run → findStation s n = some i → s.csu.stations[i].state ≠ .absent →
     (s.csu.allStop ≠ none → exec (.allStop n) s = .next s) ∧
     (s.csu.allStop = none →
       let stopped : Csu := { s.csu with allStop := some (.station i), dStar := 0, tStar := 0, dAp := 0 }
       let arm : Cmu := { s.cmu with release := s.cmu.release.disarmed }
       let link : Hlc := (handLink (unjoinFrame .allStop) .csu s).1.hlc
       let told : State := report i .allStopOn (armEnded { s with csu := stopped })
       (s.role = .lead ∨ s.csu.join = .localMode →
         ∃ t, exec (.allStop n) s = .next t ∧ Told { s with csu := stopped, cmu := arm } t ∧ t = told) ∧
       (s.role = .helper → s.csu.join = .offering →
         ∃ t, exec (.allStop n) s = .next t ∧
           Told { s with csu := { stopped with join := .localMode, joinAnswer := none }, cmu := arm, hlc := link } t ∧
           t = reportStatus s.csu.inCommand .unjoined 7
             { told with csu := { stopped with join := .localMode, joinAnswer := none }, hlc := link }) ∧
       (s.role = .helper → s.csu.join = .joined ∨ s.csu.join = .holding →
         ∃ t, exec (.allStop n) s = .next t ∧ isRaised .helperUnjoined .none t = true ∧
           Told { s with csu := { stopped with join := .localMode, setpointLoss := none, hold := none }, cmu := arm,
                         hlc := link } t ∧
           t = reportStatus s.csu.inCommand .unjoined 7 (raiseAlarm .helperUnjoined .none
             { told with csu := { stopped with join := .localMode, setpointLoss := none, hold := none }, hlc := link })))) ∧
   (∀ s : State, s.power = .run →
     (s.pcw.state ≠ .isolated → s.csu.allStop ≠ none →
       exec (.busBreak .w) s = .next { s with pcw := { s.pcw with breaks := min 65535 (s.pcw.breaks + 1) } }) ∧
     (s.pcw.state ≠ .isolated → s.csu.allStop = none → s.role = .lead ∨ s.csu.join = .localMode →
       ∃ t, exec (.busBreak .w) s = .next t ∧
         Told { s with pcw := { s.pcw with breaks := min 65535 (s.pcw.breaks + 1) },
                       csu := { s.csu with allStop := some .busBreak, dStar := 0, tStar := 0, dAp := 0 },
                       cmu := { s.cmu with release := s.cmu.release.disarmed } } t ∧
         t = reportStatus none .allStopOn 255 (armEnded { s with
           pcw := { s.pcw with breaks := min 65535 (s.pcw.breaks + 1) },
           csu := { s.csu with allStop := some .busBreak, dStar := 0, tStar := 0, dAp := 0 } })) ∧
     (let stopped : Csu := { s.csu with allStop := some .busBreak, dStar := 0, tStar := 0, dAp := 0 }
      let link : Hlc := (handLink (unjoinFrame .allStop) .csu s).1.hlc
      let told : State := reportStatus none .allStopOn 255 (armEnded { s with
        pcw := { s.pcw with breaks := min 65535 (s.pcw.breaks + 1) }, csu := stopped })
      s.pcw.state ≠ .isolated → s.csu.allStop = none → s.role = .helper →
        (s.csu.join = .offering → exec (.busBreak .w) s = .next (reportStatus s.csu.inCommand .unjoined 7
          { told with csu := { stopped with join := .localMode, joinAnswer := none }, hlc := link })) ∧
        (s.csu.join = .joined ∨ s.csu.join = .holding → exec (.busBreak .w) s = .next (
          reportStatus s.csu.inCommand .unjoined 7 (raiseAlarm .helperUnjoined .none
            { told with csu := { stopped with join := .localMode, setpointLoss := none, hold := none }, hlc := link })))) ∧
     (s.pcp.state ≠ .isolated →
       exec (.busBreak .p) s = .next { s with pcp := { s.pcp with busError := min 65535 (s.pcp.busError + 1) } }) ∧
     (s.pck.state ≠ .isolated →
       exec (.busBreak .k) s = .next { s with pck := { s.pck with busError := min 65535 (s.pck.busError + 1) } }) ∧
     ∀ seg, (s.port seg).state = .isolated → exec (.busBreak seg) s = .next s)

/-- R13: ALL-STOP-CLEAR. In the phase ZERO the targets stay 0, and in HOLD they are formed at once (the model's
reading of R6 and R13, log entry 24); the last T of an AUTOPILOT that has sent no HELM is open, and held within
±T_ap whatever it is (log entry 10). -/
def Obligations.AllStopClearRows : Prop :=
  ∀ (s : State) (n : Node) (i : Fin 4), Sender s n i →
    let u := heardFrom i s
    let ap : Int := turnLimitOf s
    (s.csu.inCommand ≠ some i → exec (.allStopClear n) s = .next (report i .notInCommand u)) ∧
    (s.csu.inCommand = some i → s.csu.allStop = none → exec (.allStopClear n) s = .next (report i .state u)) ∧
    (s.csu.inCommand = some i → s.csu.allStop ≠ none → (stationOf s i).kind = .manual →
      (∀ h, s.csu.stations[i].last = some h → h.time + 300 * Config.usPerMs ≤ s.now ∨ 50 < h.d.natAbs) →
      exec (.allStopClear n) s = .next (report i .mismatch u)) ∧
    (∀ h, s.csu.inCommand = some i → s.csu.allStop ≠ none → (stationOf s i).kind = .manual →
      s.csu.stations[i].last = some h → s.now < h.time + 300 * Config.usPerMs → h.d.natAbs ≤ 50 → s.csu.phase ≠ .zero →
      exec (.allStopClear n) s = .next (report i .allStopOff
        { u with csu := { u.csu with allStop := none, dStar := h.d, tStar := h.t } })) ∧
    (∀ h, s.csu.inCommand = some i → s.csu.allStop ≠ none → (stationOf s i).kind = .autopilot →
      s.csu.stations[i].last = some h → s.csu.phase ≠ .zero →
      exec (.allStopClear n) s = .next (report i .allStopOff
        { u with csu := { u.csu with allStop := none, dStar := s.csu.dAp, tStar := max (-ap) (min h.t ap) } })) ∧
    (s.csu.inCommand = some i → s.csu.allStop ≠ none → (stationOf s i).kind = .autopilot →
      s.csu.stations[i].last = none → s.csu.phase ≠ .zero →
      ∃ x : Int, x.natAbs ≤ turnLimitOf s ∧
        exec (.allStopClear n) s = .next (report i .allStopOff
          { u with csu := { u.csu with allStop := none, dStar := s.csu.dAp, tStar := x }, freeCount := s.freeCount + 1 })) ∧
    (s.csu.inCommand = some i → s.csu.allStop ≠ none → (stationOf s i).kind = .autopilot → s.csu.phase = .zero →
      exec (.allStopClear n) s = .next (report i .allStopOff { u with csu := { u.csu with allStop := none } }))

/-- R3, R6, R9: what the expiry of each station timer does; the clock stands at the timer's end unless it has passed
it. An expiry of a stopped timer of the four changes nothing (log entry 6). That a REQUESTING station which goes
ABSENT is reported by CANCELLED alone is the model's choice (log entry 53). -/
def Obligations.StationTimersExpire : Prop :=
  ∀ (s : State) (i : Fin 4) (d : Nat), s.power = .run →
    let later := max s.now d
    (s.csu.stations[i].presence = none → exec (.presenceTimerExpiry i) s = .next s) ∧
    (s.csu.stations[i].presence = some d →
      (s.csu.stations[i].state = .absent →
        exec (.presenceTimerExpiry i) s = .next { s with now := later, csu := { s.csu with
          stations := updAt s.csu.stations i ({ · with presence := none }) } }) ∧
      (s.csu.stations[i].state = .present →
        exec (.presenceTimerExpiry i) s = .next (report i .absentOn { s with now := later, csu := { s.csu with
          stations := updAt s.csu.stations i fun r =>
            { r with presence := none, state := .absent, last := none, freshness := none } } })) ∧
      (s.csu.stations[i].state = .requesting →
        exec (.presenceTimerExpiry i) s = .next (report i .cancelled { s with now := later, csu := { s.csu with
          request := none, transfer := none,
          stations := updAt s.csu.stations i fun r =>
            { r with presence := none, state := .absent, last := none, freshness := none } } })) ∧
      (s.csu.stations[i].state = .inCommand →
        exec (.presenceTimerExpiry i) s = .next (report i .silent { s with now := later, csu := { s.csu with
          stations := updAt s.csu.stations i ({ · with presence := none, silent := true }) } }))) ∧
    (s.csu.stations[i].freshness = some d → s.csu.inCommand = some i → s.csu.phase = .fresh →
      exec (.freshnessTimerExpiry i) s = .next (raiseAlarm .commandStale (.station i)
        { s with now := later, csu := { s.csu with
          stations := updAt s.csu.stations i ({ · with freshness := none }), phase := .hold,
          staleHold := some (later + 3000 * Config.usPerMs) } })) ∧
    (s.csu.stations[i].freshness = some d → s.csu.inCommand ≠ some i →
      exec (.freshnessTimerExpiry i) s = .next { s with now := later, csu := { s.csu with
        stations := updAt s.csu.stations i ({ · with freshness := none }) } }) ∧
    (s.csu.stations[i].freshness = some d → s.csu.inCommand = some i → s.csu.phase ≠ .fresh →
      exec (.freshnessTimerExpiry i) s = .next { s with now := later, csu := { s.csu with
        stations := updAt s.csu.stations i ({ · with freshness := none }) } }) ∧
    (s.csu.stations[i].freshness = none → exec (.freshnessTimerExpiry i) s = .next s) ∧
    (s.csu.staleHold = none → exec .staleHoldTimerExpiry s = .next s) ∧
    (s.csu.transfer = none → exec .transferTimerExpiry s = .next s) ∧
    (s.csu.transfer = some d → s.csu.request = none →
      exec .transferTimerExpiry s = .next { s with now := later, csu := { s.csu with transfer := none } }) ∧
    (s.csu.staleHold = some d →
      exec .staleHoldTimerExpiry s = .next { s with now := later, csu := { s.csu with
        staleHold := none, phase := .zero, dStar := 0, tStar := 0, dAp := 0 } }) ∧
    (s.csu.transfer = some d → s.csu.request = some i →
      exec .transferTimerExpiry s = .next (report i .timeout { s with now := later, csu := { s.csu with
        request := none, transfer := none, stations := updAt s.csu.stations i ({ · with state := .present }) } }))

/-- R15, R17: JOIN-GIVE offers a join, or is refused; the helper's answer timer ends the offer with UNJOIN TIMEOUT.
R16, R17: the lead answers an offer with UNJOIN and the first failing reason, leaving JOINED where it was joined, or it
joins with its X engines seeded (R57); a helper in OFFERING joins at JOIN-ACCEPT. Each that falls to the other role or
state is discarded and counted. The station that JOINED and TIMEOUT name (log entry 54), and that an offer accepted
while JOINED is not reported again (log entry 14), are the model's choices. -/
def Obligations.JoinOfferedAndAnswered : Prop :=
  ((∀ (s : State) (n : Node) (i : Fin 4), Sender s n i →
     let u := heardFrom i s
     let open7 := s.hlc.queues[classQueue s .h 7].state = .opened
     (s.role = .lead → exec (.joinGive n) s = .next (report i .notPermitted u)) ∧
     (s.role = .helper → s.csu.inCommand ≠ some i → exec (.joinGive n) s = .next (report i .notInCommand u)) ∧
     (s.role = .helper → s.csu.inCommand = some i →
       s.csu.join ≠ .localMode ∨ s.csu.allStop ≠ none ∨ s.hlc.state ≠ .up ∨ ¬open7 →
       exec (.joinGive n) s = .next (report i .state u)) ∧
     (s.role = .helper → s.csu.inCommand = some i → s.csu.join = .localMode → s.csu.allStop = none → s.hlc.state = .up →
       open7 →
       exec (.joinGive n) s = .next (report i .joinPending
         { u with hlc := (handLink joinOfferFrame .csu s).1.hlc,
                  csu := { u.csu with join := .offering, joinAnswer := some (s.now + 1000 * Config.usPerMs) } }))) ∧
   ∀ (s : State) (d : Nat), s.power = .run → s.csu.joinAnswer = some d →
     exec .joinAnswerTimerExpiry s = .next (reportStatus s.csu.inCommand .timeout 255
       { s with now := max s.now d, hlc := (handLink (unjoinFrame .timeout) .csu s).1.hlc,
                csu := { s.csu with join := .localMode, joinAnswer := none } })) ∧
   (∀ s : State, s.power = .run →
     let ignored : State := { s with csu := { s.csu with class7Ignored := min 65535 (s.csu.class7Ignored + 1) } }
     let anyX := (engineEntry s 4).configured = true ∨ (engineEntry s 5).configured = true ∨
       (rudderOf s 2).configured = true
     let open7 := s.hlc.queues[classQueue s .h 7].state = .opened
     let open2 := s.hlc.queues[classQueue s .h 2].state = .opened
     let joined := s.csu.join = .joined ∨ s.csu.join = .holding
     (s.role = .helper → exec .joinOffer s = .next ignored) ∧
     (s.role = .lead → exec .joinAccept s = .next ignored) ∧
     (s.role = .helper → s.csu.join ≠ .offering → exec .joinAccept s = .next ignored) ∧
     (s.role = .helper → s.csu.join = .offering →
       exec .joinAccept s = .next (reportStatus s.csu.inCommand .joined 255 (clearAlarm .helperUnjoined .none
         { s with csu := { s.csu with join := .joined, joinAnswer := none,
                                      setpointLoss := some (s.now + 300 * Config.usPerMs) } }))) ∧
     (s.role = .lead → ∀ x : UnjoinReason,
       (x = .noCommand ∧ s.csu.inCommand = none) ∨ (x = .noXSlot ∧ s.csu.inCommand ≠ none ∧ ¬anyX) ∨
         (x = .queueClosed ∧ s.csu.inCommand ≠ none ∧ anyX ∧ ¬(open7 ∧ open2)) →
       (s.csu.join = .localMode → exec .joinOffer s = .next (handLink (unjoinFrame x) .csu s).1) ∧
       (joined → ∃ t, exec .joinOffer s = .next t ∧
         LeadLeft (reasonByte x) { s with hlc := (handLink (unjoinFrame x) .csu s).1.hlc } t)) ∧
     (s.role = .lead → s.csu.inCommand ≠ none → anyX → open7 → open2 →
       ∃ t, exec .joinOffer s = .next t ∧ isRaised .helperUnjoined .none t = false ∧
         (let base : State := { s with csu := { s.csu with join := .joined }, piu := { s.piu with engines := t.piu.engines },
                                       hlc := (handLink joinAcceptFrame .csu s).1.hlc }
          t = if joined then clearAlarm .helperUnjoined .none base
            else reportStatus s.csu.inCommand .joined 255 (clearAlarm .helperUnjoined .none base)) ∧
         (∀ e : Fin 6, e.val < 4 ∨ (engineEntry s e).configured = false → t.piu.engines[e] = s.piu.engines[e]) ∧
         ∀ e : Fin 6, 4 ≤ e.val → (engineEntry s e).configured = true →
           let r := s.piu.engines[e]
           let x := engineEntry s e
           (∀ fb, r.feedback = some fb → s.now < fb.time + 600 * Config.usPerMs → fb.shutdown = false →
             let top := match fb.gear with | .ahead => x.maxAhead | .astern => x.maxAstern | .neutral => x.idle
             let within := max x.idle (min fb.rpm top)
             t.piu.engines[e] = { r with
               avail := .available, run := 3, gear := fb.gear, filled := true, fresh := true,
               rpm := r.cap.elim within fun k => min within (x.idle + (top - x.idle) * k / 1000),
               neutralSince := if fb.gear = .neutral then s.now else r.neutralSince }) ∧
           ((∀ fb, r.feedback = some fb → fb.time + 600 * Config.usPerMs ≤ s.now ∨ fb.shutdown = true) →
             t.piu.engines[e] = madeNeutral s.now x.idle r)))

/-- R18, R19: how a helper holds on and leaves a join. R19, R56: a lead that leaves JOINED at an UNJOIN raises
HELPER-UNJOINED and marks the configured X engines LOST without ENGINE-LOST; one that was AVAILABLE is written
NEUTRAL at idle, and one that was FAULTED has ENGINE-FAULT cleared. The station that UNJOINED names and the order of the
alarms are the model's choices (log entries 54 and 84). -/
def Obligations.JoinEnds : Prop :=
  ((∀ (s : State) (n : Node) (i : Fin 4), Sender s n i →
     let u := heardFrom i s
     (s.role = .lead → exec (.takeBack n) s = .next (report i .notPermitted u)) ∧
     (s.role = .helper → s.csu.inCommand ≠ some i → exec (.takeBack n) s = .next (report i .notInCommand u)) ∧
     (s.role = .helper → s.csu.inCommand = some i → s.csu.join = .localMode ∨ s.csu.join = .offering →
       exec (.takeBack n) s = .next (report i .state u)) ∧
     (s.role = .helper → s.csu.inCommand = some i → s.csu.join = .joined ∨ s.csu.join = .holding →
       exec (.takeBack n) s = .next (reportStatus (some i) .unjoined 1 (raiseAlarm .helperUnjoined .none
         { u with hlc := (handLink (unjoinFrame .takeBack) .csu s).1.hlc,
                  csu := { u.csu with join := .localMode, setpointLoss := none, hold := none } })))) ∧
   ∀ (s : State) (d : Nat) (r : Byte), s.power = .run →
     (s.csu.join = .localMode →
       exec (.unjoin r) s = .next { s with csu := { s.csu with class7Ignored := min 65535 (s.csu.class7Ignored + 1) } }) ∧
     (s.csu.join = .offering →
       exec (.unjoin r) s = .next (reportStatus s.csu.inCommand .unjoined r
         { s with csu := { s.csu with join := .localMode, joinAnswer := none } })) ∧
     (s.role = .helper → s.csu.join = .joined ∨ s.csu.join = .holding →
       exec (.unjoin r) s = .next (reportStatus s.csu.inCommand .unjoined r (raiseAlarm .helperUnjoined .none
         { s with csu := { s.csu with join := .localMode, setpointLoss := none, hold := none } }))) ∧
     (s.csu.setpointLoss = some d →
       exec .setpointLossTimerExpiry s = .next { s with now := max s.now d, csu := { s.csu with
         join := .holding, setpointLoss := none, hold := some (max s.now d + 5000 * Config.usPerMs) } }) ∧
     (s.role = .helper → s.csu.hold = some d →
       exec .holdTimerExpiry s = .next (reportStatus s.csu.inCommand .unjoined 6 (raiseAlarm .helperUnjoined .none
         { s with now := max s.now d, hlc := (handLink (unjoinFrame .holdExpired) .csu s).1.hlc,
                  csu := { s.csu with join := .localMode, setpointLoss := none, hold := none } })))) ∧
   (∀ (s : State) (r : Byte), s.power = .run → s.role = .lead → s.csu.join = .joined ∨ s.csu.join = .holding →
     ∃ t, exec (.unjoin r) s = .next t ∧ LeadLeft r s t)

/-- R22: while ALLOC is unloaded a cycle restarts its timer and does nothing else. R20, R25 to R28: each cycle
restarts its timer and moves D_eff and T_eff toward the clamped targets by the rates of its case; it changes no
other unit but the records of the propulsion interface, and tells NO-PROPULSION and the rudder alarms. -/
def Obligations.CycleStepsDemands : Prop :=
  (∀ (s : State) (d : Nat), s.power = .run → s.tau.timer = some d → s.tau.alloc = none → s.tau.swapWaiting = false →
     exec .allocationCycle s = .next
       { s with now := max s.now d, tau := { s.tau with timer := some (max s.now d + 50 * Config.usPerMs) } }) ∧
   (∀ (s : State) (d : Nat) (x : AllocTable), s.power = .run → s.tau.timer = some d → s.tau.swapWaiting = false →
     allocOf s = some x →
     let fault := s.cmu.causes.breakaway = true ∨ s.cmu.causes.makeupCommit = true ∨ s.cmu.causes.couplingCommit = true
     let dt : Int :=
       if s.csu.allStop ≠ none then 0
       else if fault then max (-(x.cF : Int)) (min s.csu.dStar x.cF) else s.csu.dStar
     let tt : Int := if s.csu.allStop ≠ none then 0 else s.csu.tStar
     let n := s.cmu.nAtt
     let k : Fin 4 := if n ≤ x.bandUpper[0] then 0 else if n ≤ x.bandUpper[1] then 1 else if n ≤ x.bandUpper[2] then 2 else 3
     let down : Int := if s.csu.allStop ≠ none then x.rStop else x.rDown
     let ahead : Int := x.rAhead[k]
     let astern : Int := (max x.deltaMin (x.rAstern[k] * s.cmu.headroom / 1000) : Nat)
     let e := s.tau.dEff
     let r := s.tau.tEff
     ∃ t, exec .allocationCycle s = .next t ∧
       (dt = e → t.tau.dEff = e) ∧
       (0 < e → dt < e → t.tau.dEff = max (max (e - down) dt) 0) ∧
       (e < 0 → e < dt → t.tau.dEff = min (min (e + down) dt) 0) ∧
       (0 ≤ e → e < dt → t.tau.dEff = min (e + ahead) dt) ∧
       (e ≤ 0 → dt < e → t.tau.dEff = max (e - astern) dt) ∧
       (r < tt → t.tau.tEff = min (r + x.rTurn) tt) ∧ (tt < r → t.tau.tEff = max (r - x.rTurn) tt) ∧
       (tt = r → t.tau.tEff = r) ∧
       Told { s with now := max s.now d, piu := { s.piu with engines := t.piu.engines, rudders := t.piu.rudders },
                     tau := { s.tau with dEff := t.tau.dEff, tEff := t.tau.tEff,
                                         timer := some (max s.now d + 50 * Config.usPerMs) } } t)

/-- R27, R28: D_eff and T_eff stay within ±1000, no cycle increases |D_eff| during all-stop, and none increases it
above C_f while the make-up fault is set. -/
def Obligations.DemandsStayBounded : Prop :=
  ∀ (s t : State) (x : AllocTable), s.power = .run → s.tau.timer ≠ none → s.tau.swapWaiting = false →
    allocOf s = some x → exec .allocationCycle s = .next t →
    (s.csu.dStar.natAbs ≤ 1000 → s.tau.dEff.natAbs ≤ 1000 → t.tau.dEff.natAbs ≤ 1000) ∧
    (s.csu.tStar.natAbs ≤ 1000 → s.tau.tEff.natAbs ≤ 1000 → t.tau.tEff.natAbs ≤ 1000) ∧
    (s.csu.allStop ≠ none → t.tau.dEff.natAbs ≤ s.tau.dEff.natAbs) ∧
    (makeupFault s = true → t.tau.dEff.natAbs ≤ max s.tau.dEff.natAbs x.cF)

/-- R29 to R35, R40, R51: what a full cycle writes into the slot of each engine record that is not retiring. A
configured engine that does not count, and every one while W_av is 0, is written NEUTRAL at idle; the others by
their share, through the gear machine. NO-PROPULSION is raised while an engine is configured and W_av is 0. At
deadband 0 a share of 0 is taken as AHEAD (log entry 29). -/
def Obligations.CycleWritesEngines : Prop :=
  ∀ (s : State) (d : Nat) (x : AllocTable), s.power = .run → s.tau.timer = some d → s.tau.swapWaiting = false →
    allocOf s = some x → s.role = .lead ∨ s.csu.join = .localMode ∨ s.csu.join = .offering →
    let now := max s.now d
    let counts := fun i : Fin 6 => x.engines[i].configured && s.piu.engines[i].avail == .available &&
      !(s.role == .lead && s.csu.join == .localMode && decide (4 ≤ i.val))
    let cfg := ∑ i : Fin 6, if x.engines[i].configured then x.engines[i].wt else 0
    let av := ∑ i : Fin 6, if counts i then x.engines[i].wt else 0
    ∃ t : State, exec .allocationCycle s = .next t ∧
      (isRaised .noPropulsion .none t = true ↔ (∃ i : Fin 6, x.engines[i].configured = true) ∧ av = 0) ∧
      ∀ i : Fin 6, s.piu.engines[i].retiring = none →
        let r := s.piu.engines[i]
        let c := x.engines[i]
        let z := t.piu.engines[i]
        let share : Int :=
          max (-1000) (min (((c.wt : Int) * t.tau.dEff * (min (1000 * cfg / av) x.sMax : Nat)).tdiv 1000000 +
            (c.wr * t.tau.tEff).tdiv 1000) 1000)
        let may := ∃ fb, r.feedback = some fb ∧ fb.rpm ≤ c.shiftLimit ∧
          r.neutralSince + c.shiftDwell * Config.usPerMs ≤ now
        let neutral := { r with gear := .neutral, rpm := c.idle, filled := true, fresh := true,
                                neutralSince := if r.gear = .neutral then r.neutralSince else now }
        let prev := if r.filled = true then max r.rpm c.idle else c.idle
        let driven := fun (g : Gear) (maxRpm : Nat) =>
          let target := c.idle + (maxRpm - c.idle) * (share.natAbs - x.deadband) / (1000 - x.deadband)
          let capped := (match r.cap with | none => target | some k => min target (c.idle + (maxRpm - c.idle) * k / 1000))
          { r with gear := g, rpm := min capped (prev + c.slew), filled := true, fresh := true }
        (c.configured = false → z = r) ∧
        (c.configured = true → counts i = false ∨ av = 0 → z = neutral) ∧
        (counts i = true → av ≠ 0 → share.natAbs < x.deadband → z = neutral) ∧
        (counts i = true → av ≠ 0 → (x.deadband : Int) ≤ share →
          (r.gear = .ahead ∨ (r.gear = .neutral ∧ may) → z = driven .ahead c.maxAhead) ∧
          (r.gear = .astern ∨ (r.gear = .neutral ∧ ¬may) → z = neutral)) ∧
        (counts i = true → av ≠ 0 → share ≤ -(x.deadband : Int) → share ≠ 0 →
          (r.gear = .astern ∨ (r.gear = .neutral ∧ may) → z = driven .astern c.maxAstern) ∧
          (r.gear = .ahead ∨ (r.gear = .neutral ∧ ¬may) → z = neutral))

/-- R51: no command takes the commanded gear of an engine of the own part from AHEAD to ASTERN or back but through
NEUTRAL. -/
def Obligations.NoReversalWithoutNeutral : Prop :=
  ∀ (c : Instr) (s t : State) (i : Fin 6), i.val < 4 → exec c s = .next t →
    ¬(s.piu.engines[i].gear = .ahead ∧ t.piu.engines[i].gear = .astern) ∧
    ¬(s.piu.engines[i].gear = .astern ∧ t.piu.engines[i].gear = .ahead)

/-- R37 to R39, R41: a cycle moves each configured rudder group toward its wanted angle by at most its slew, and
leaves every other group; while the helper is JOINED the wanted angle is 0, and RS mapped from XS is left. R62: each
write evaluates the deviation of the group: above 50 it starts a stopped deviation timer, at 50 or below it stops it
and clears RUDDER-FAULT. -/
def Obligations.CycleSteersRudders : Prop :=
  ∀ (s : State) (d : Nat) (x : AllocTable) (i : Fin 3), s.power = .run → s.tau.timer = some d →
    s.tau.swapWaiting = false → allocOf s = some x →
    let joined := s.role = .helper ∧ (s.csu.join = .joined ∨ s.csu.join = .holding)
    ∃ t, exec .allocationCycle s = .next t ∧
      let r := s.piu.rudders[i]
      let c := x.rudders[i]
      let z := t.piu.rudders[i]
      let k : Int := if i = 1 ∧ t.tau.dEff < 0 then -(c.gainAstern : Int) else c.gain
      let wanted : Int := if joined then 0 else max (-(c.limit : Int)) (min ((k * t.tau.tEff).tdiv 1000) c.limit)
      let prev : Int := match r.angle with
        | some a => a
        | none => match r.feedback with | some fb => fb.angle | none => 0
      (c.configured = false → z = r) ∧
      (joined → i = 0 → c.fromXs = true → z = r) ∧
      (c.configured = true → ¬(joined ∧ i = 0 ∧ c.fromXs = true) →
        (prev < wanted → z.angle = some (min (prev + c.slew) wanted)) ∧
        (wanted ≤ prev → z.angle = some (max (prev - c.slew) wanted)) ∧
        (∀ fb v, r.avail = .available → r.feedback = some fb → z.angle = some v →
          (50 < (v - fb.angle).natAbs →
            z.deviation = some (match r.deviation with | none => max s.now d + 2000 * Config.usPerMs | some x => x) ∧
            isRaised .rudderFault (.rudder i) t = isRaised .rudderFault (.rudder i) s) ∧
          ((v - fb.angle).natAbs ≤ 50 → z.deviation = none ∧ isRaised .rudderFault (.rudder i) t = false)) ∧
        (r.avail ≠ .available ∨ r.feedback = none →
          z.deviation = r.deviation ∧ isRaised .rudderFault (.rudder i) t = isRaised .rudderFault (.rudder i) s) ∧
        z.fresh = true ∧ z.avail = r.avail ∧ z.feedback = r.feedback ∧ z.timer = r.timer ∧ z.seq = r.seq)

/-- R41, R46: a cycle of a JOINED helper leaves the engine slots that the lead drives, and writes every other
configured one NEUTRAL at idle; a retiring record is written NEUTRAL at its old idle. -/
def Obligations.JoinedCycleLeavesMapped : Prop :=
  ∀ (s : State) (d : Nat) (x : AllocTable) (i : Fin 6), s.power = .run → s.tau.timer = some d →
    s.tau.swapWaiting = false → allocOf s = some x → s.role = .helper → s.csu.join = .joined ∨ s.csu.join = .holding →
    ∃ t, exec .allocationCycle s = .next t ∧
      (∀ j, isRaised .noPropulsion j t = isRaised .noPropulsion j s) ∧
      let r := s.piu.engines[i]
      let c := x.engines[i]
      let z := t.piu.engines[i]
      let neutral := fun idle : Nat =>
        { r with gear := .neutral, rpm := idle, filled := true, fresh := true,
                 neutralSince := if r.gear = .neutral then r.neutralSince else max s.now d }
      (∀ old, r.retiring = some old → z = neutral old.idle) ∧
      (r.retiring = none → c.configured = false → z = r) ∧
      (r.retiring = none → c.configured = true → i.val < 4 → c.source ≠ .own → z = r) ∧
      (r.retiring = none → c.configured = true → 4 ≤ i.val ∨ c.source = .own → z = neutral c.idle)

/-- R1, R19, R24, R46, R90, R194: the cycle that finds an ALLOC commit waiting takes the table of the active bank, as `AllocTaken`
says of the stations, the station in command with its request, its staleness and its arm, the join of a lead that has no X slot
left, the engine and rudder records, the alarms, the frames and the commit's response; the cycle then runs on the new table. That
the feedback timer of a rudder group whose feedback node changes runs on (log entry 36), the order of the frames (log entries 9
and 56) and the station that the lead's UNJOINED names (log entry 54) are the model's. -/
def Obligations.AllocSwapTakesTable : Prop :=
  ∀ (s : State) (d : Nat), s.power = .run → s.tau.timer = some d → s.tau.swapWaiting = true → s.csu.OneHolder →
    ∃ u t, AllocTaken { s with now := max s.now d } u ∧ exec .allocationCycle s = .next t ∧ exec .allocationCycle u = .next t ∧
      t.csu = u.csu ∧ t.tau.alloc = activeAlloc s ∧ t.tau.swapWaiting = false ∧
      (∀ e : Fin 6, t.piu.engines[e].avail = u.piu.engines[e].avail ∧ t.piu.engines[e].run = u.piu.engines[e].run ∧
        t.piu.engines[e].timer = u.piu.engines[e].timer ∧ t.piu.engines[e].retiring = u.piu.engines[e].retiring) ∧
      ∀ i : Fin 3, t.piu.rudders[i].avail = u.piu.rudders[i].avail ∧ t.piu.rudders[i].timer = u.piu.rudders[i].timer

/-- R44, R47, R48, R105: ENGINE-FB. A gear reported above 2 is malformed; a node of no configured or retiring record
is unknown; otherwise the first record with that feedback node takes the frame: it stores what was reported,
restarts its timer, moves its availability by the table of R48 (a retiring record leaves at its first NEUTRAL), and
hands the fuel rate of E1 to E4 to the accounts. The other engines keep their availability, gear, feedback and
timer. The time that the estimate counts is the difference of the clock's whole milliseconds (log entry 45), and no
ENGINE-WARNING is raised by the frame that ends a retiring record (log entry 57): both are the model's choices. R36,
R109: what an estimate books can change a tank's state, and the caps of the engines on it follow at once
(`CapsFollow`). -/
def Obligations.EngineFeedbackTaken : Prop :=
  ∀ (s : State) (n : Node) (rpm : BitVec 16) (g : Byte) (rate : BitVec 16) (x : Byte), s.power = .run →
    let takes := fun i : Fin 6 => ((engineEntry s i).configured = true ∨ s.piu.engines[i].retiring ≠ none) ∧
      (engineOf s i).fbNode = n.toNat
    (2 < g.toNat → exec (.engineFb n rpm g rate x) s =
      .next { s with piu := { s.piu with malformedFeedback := min 65535 (s.piu.malformedFeedback + 1) } }) ∧
    (g.toNat ≤ 2 → (∀ i, ¬takes i) → exec (.engineFb n rpm g rate x) s =
      .next { s with piu := { s.piu with unknownFeedback := min 65535 (s.piu.unknownFeedback + 1) } }) ∧
    ∀ (i : Fin 6) (gear : Gear), takes i → (∀ j : Fin 6, j < i → ¬takes j) → gearOf g = some gear →
      s.piu.engines[i].avail ≠ .unconfigured →
      let r := s.piu.engines[i]
      let fb : EngineFeedback := { rpm := rpm.toNat, gear := gear, rate := rate.toNat, shutdown := x.getLsbD 0,
                                   overspeed := x.getLsbD 1, lowOil := x.getLsbD 2, time := s.now }
      let leaves := r.retiring ≠ none ∧ gear = .neutral
      let run1 : Nat := if gear = .neutral then 1 else 0
      ∃ t, exec (.engineFb n rpm g rate x) s = .next t ∧
        Told { s with piu := { s.piu with engines := t.piu.engines }, fau := t.fau } t ∧
        (let z := t.piu.engines[i]
         z.feedback = some fb ∧
         (leaves → z.avail = .unconfigured ∧ z.retiring = none ∧ z.filled = false ∧ z.timer = none ∧
           isRaised .engineLost (.engine i) t = false ∧ isRaised .engineFault (.engine i) t = false ∧
           isRaised .engineWarning (.engine i) t = false) ∧
         (¬leaves → z.timer = some (s.now + 600 * Config.usPerMs) ∧ z.retiring = r.retiring ∧
           isRaised .engineWarning (.engine i) t = (fb.overspeed || fb.lowOil) ∧
           (fb.shutdown = true → z.avail = .faulted ∧ (r.avail ≠ .faulted → z.run = 0) ∧
             (r.avail ≠ .faulted → isRaised .engineFault (.engine i) t = true)) ∧
           (fb.shutdown = false → r.avail = .lost ∨ r.avail = .faulted → z.avail = .rejoining ∧ z.run = run1) ∧
           (r.avail = .lost → isRaised .engineLost (.engine i) t = false) ∧
           (fb.shutdown = false → r.avail = .faulted → isRaised .engineFault (.engine i) t = false) ∧
           (fb.shutdown = false → r.avail = .rejoining → gear ≠ .neutral → z.avail = .rejoining ∧ z.run = 0) ∧
           (fb.shutdown = false → r.avail = .rejoining → gear = .neutral →
             (r.run + 1 < 3 → z.avail = .rejoining ∧ z.run = r.run + 1) ∧ (2 ≤ r.run → z.avail = .available ∧ z.run = 3)) ∧
           (fb.shutdown = false → r.avail = .available → z.avail = .available) ∧
           (fb.shutdown = true → r.avail = .available → z.gear = .neutral ∧ z.rpm = (engineOf s i).idle ∧
             z.filled = true ∧ z.fresh = true ∧ z.neutralSince = if r.gear = .neutral then r.neutralSince else s.now) ∧
           (fb.shutdown = false ∨ r.avail ≠ .available → z.gear = r.gear ∧ z.neutralSince = r.neutralSince))) ∧
        (∃ z : EngineRec, z.cap = r.cap ∧ z.gear = t.piu.engines[i].gear ∧
          t.piu.engines[i] = { z with rpm := t.piu.engines[i].rpm, fresh := t.piu.engines[i].fresh, cap := t.piu.engines[i].cap } ∧
          (¬leaves → fb.shutdown = false ∨ r.avail ≠ .available → z.rpm = r.rpm ∧ z.fresh = r.fresh) ∧
          (let a := { s with piu := { s.piu with engines := s.piu.engines.set i z } }
           (∀ e : Fin 4, e.val = i.val → s.fau.table ≠ none → isMetered s.fau.meters e = false → CapsFollow false a t) ∧
           ((∀ e : Fin 4, e.val = i.val → s.fau.table = none ∨ isMetered s.fau.meters e = true) → t.piu = a.piu))) ∧
        (∀ j : Fin 6, j ≠ i → t.piu.engines[j].avail = s.piu.engines[j].avail ∧
          t.piu.engines[j].gear = s.piu.engines[j].gear ∧ t.piu.engines[j].feedback = s.piu.engines[j].feedback ∧
          t.piu.engines[j].timer = s.piu.engines[j].timer) ∧
        (4 ≤ i.val → t.fau = s.fau) ∧
        ∀ e : Fin 4, e.val = i.val →
          let a := s.fau.accounts[e]
          let b := t.fau.accounts[e]
          let num := a.residue + rate.toNat *
            (match a.lastFeedback with | none => 0 | some l => min 1000 (s.now / 1000 - l / 1000))
          b.lastFeedback = some s.now ∧
          (s.fau.table = none → t.fau = { s.fau with accounts := updAt s.fau.accounts e ({ · with lastFeedback := some s.now }) }) ∧
          (s.fau.table ≠ none → b.residue = num % 36000 ∧
            (isMetered s.fau.meters e = true → b.total = a.total ∧ b.estimated = a.estimated + (num / 36000 : Nat)) ∧
            (isMetered s.fau.meters e = false → b.total = limitAccount (a.total + (num / 36000 : Nat)) ∧
              b.estimated = a.estimated ∧
              t.fau.tanks[s.fau.lineup[e]].balance =
                limitAccount (s.fau.tanks[s.fau.lineup[e]].balance - (num / 36000 : Nat))))

/-- R44, R61, R62: RUDDER-FB stores the angle, restarts the timer, makes the record AVAILABLE, clears RUDDER-LOST
and evaluates the deviation. R47: a class 3 frame of another kind, or of another length, is counted. -/
def Obligations.RudderFeedbackTaken : Prop :=
  ∀ s : State, s.power = .run →
    (∀ f : Frame, (f.kind ≠ 1 ∧ f.kind ≠ 2) ∨ (f.kind = 1 ∧ f.payload.length ≠ 6) ∨ (f.kind = 2 ∧ f.payload.length ≠ 2) →
      exec (.malformedFeedback f) s =
        .next { s with piu := { s.piu with malformedFeedback := min 65535 (s.piu.malformedFeedback + 1) } }) ∧
    ∀ (n : Node) (angle : BitVec 16),
      let takes := fun i : Fin 3 => (rudderOf s i).configured = true ∧ (rudderOf s i).fbNode = n.toNat
      ((∀ i, ¬takes i) → exec (.rudderFb n angle) s =
        .next { s with piu := { s.piu with unknownFeedback := min 65535 (s.piu.unknownFeedback + 1) } }) ∧
      ∀ i : Fin 3, takes i → (∀ j : Fin 3, j < i → ¬takes j) →
        let r := s.piu.rudders[i]
        let stored := fun dev : Timer => { r with feedback := some { angle := angle.toInt, time := s.now }, avail := .available,
                                                  timer := some (s.now + 600 * Config.usPerMs), deviation := dev }
        ∃ t, exec (.rudderFb n angle) s = .next t ∧
          Told { s with piu := { s.piu with rudders := s.piu.rudders.set i t.piu.rudders[i] } } t ∧
          isRaised .rudderLost (.rudder i) t = false ∧
          (r.angle = none → t.piu.rudders[i] = stored r.deviation ∧
            isRaised .rudderFault (.rudder i) t = isRaised .rudderFault (.rudder i) s) ∧
          ∀ a, r.angle = some a →
            (50 < (a - angle.toInt).natAbs →
              t.piu.rudders[i] = stored (some (r.deviation.getD (s.now + 2000 * Config.usPerMs))) ∧
              isRaised .rudderFault (.rudder i) t = isRaised .rudderFault (.rudder i) s) ∧
            ((a - angle.toInt).natAbs ≤ 50 → t.piu.rudders[i] = stored none ∧ isRaised .rudderFault (.rudder i) t = false)

/-- R49, R50, R61, R62: the expiry of the propulsion interface's feedback and deviation timers. -/
def Obligations.FeedbackTimersExpire : Prop :=
  ∀ (s : State) (d : Nat), s.power = .run →
    let later := max s.now d
    (∀ i : Fin 6, s.piu.engines[i].timer = some d →
      let r := s.piu.engines[i]
      let lost := { r with timer := none, avail := .lost, run := 0 }
      let stopped := { lost with gear := .neutral, rpm := (engineOf s i).idle, filled := true, fresh := true,
                                 neutralSince := if r.gear = .neutral then r.neutralSince else later }
      ∃ t, exec (.engineFeedbackTimerExpiry i) s = .next t ∧
        Told { s with now := later, piu := { s.piu with
          engines := s.piu.engines.set i (if r.avail = .available then stopped else lost) } } t ∧
        isRaised .engineLost (.engine i) t = true ∧
        isRaised .engineFault (.engine i) t = (isRaised .engineFault (.engine i) s && !decide (r.avail = .faulted))) ∧
    (∀ i : Fin 3, s.piu.rudders[i].timer = some d →
      ∃ t, exec (.rudderFeedbackTimerExpiry i) s = .next t ∧
        Told { s with now := later, piu := { s.piu with
          rudders := updAt s.piu.rudders i fun r => { r with timer := none, avail := .lost, deviation := none } } } t ∧
        isRaised .rudderLost (.rudder i) t = true ∧
        isRaised .rudderFault (.rudder i) t = isRaised .rudderFault (.rudder i) s) ∧
    (∀ i : Fin 3, s.piu.rudders[i].deviation = some d →
      ∃ t, exec (.deviationTimerExpiry i) s = .next t ∧
        Told { s with now := later, piu := { s.piu with
          rudders := updAt s.piu.rudders i ({ · with deviation := none }) } } t ∧
        isRaised .rudderFault (.rudder i) t = true)

/-- R58, R59: a helper takes a lead-joined setpoint from H into the mapped slot it names, while it is JOINED: it
becomes plain JOINED with its setpoint loss timer restarted, and the slot is written through its own gear machine
and bounds. Every other class 2 frame from H is discarded and counted (for a frame that is no setpoint frame this is
the model's choice, log entry 28). Of two records with one setpoint node the first of E1 to E4 is written (the
model's choice, log entry 58). R62: the write of the rudder slot evaluates its deviation. -/
def Obligations.HelperTakesSetpoints : Prop :=
  ∀ (s : State) (n : Node) (q x : Byte), s.power = .run → s.role = .helper →
    let discarded : State := { s with piu := { s.piu with hDiscarded := min 65535 (s.piu.hDiscarded + 1) } }
    let joined := s.csu.join = .joined ∨ s.csu.join = .holding
    let took : Csu := { s.csu with join := .joined, hold := none, setpointLoss := some (s.now + 300 * Config.usPerMs) }
    let mapped := fun i : Fin 6 => i.val < 4 ∧ (engineEntry s i).configured = true ∧ (engineEntry s i).source ≠ .own ∧
      (engineEntry s i).setNode = n.toNat
    let rudder := (rudderOf s 0).configured = true ∧ (rudderOf s 0).fromXs = true ∧ (rudderOf s 0).setNode = n.toNat
    (∀ f : Frame, f.node = n →
      (f.kind ≠ 1 ∧ f.kind ≠ 2) ∨ (f.kind = 1 ∧ f.payload.length ≠ 5) ∨ (f.kind = 2 ∧ f.payload.length ≠ 4) ∨ ¬joined ∨
        (f.kind = 1 ∧ ∀ i, ¬mapped i) ∨ (f.kind = 2 ∧ ¬rudder) →
      exec (.hSetpointFrame f) s = .next discarded) ∧
    (∀ g a b : Byte, x.getLsbD 1 = false ∨ 2 < g.toNat →
      exec (.hSetpointFrame { cls := 2, node := n, kind := 1, payload := [g, a, b, q, x] }) s = .next discarded) ∧
    (∀ a b : Byte, x.getLsbD 1 = false →
      exec (.hSetpointFrame { cls := 2, node := n, kind := 2, payload := [a, b, q, x] }) s = .next discarded) ∧
    (∀ (g a b : Byte) (gear : Gear) (i : Fin 6), joined → x.getLsbD 1 = true → gearOf g = some gear → mapped i →
      (∀ j, j < i → ¬mapped j) →
      let r := s.piu.engines[i]
      let c := engineEntry s i
      let rpm := 256 * a.toNat + b.toNat
      let may := ∃ fb, r.feedback = some fb ∧ fb.rpm ≤ c.shiftLimit ∧
        r.neutralSince + c.shiftDwell * Config.usPerMs ≤ s.now
      let wrote := fun (g : Gear) (v since : Nat) =>
        { r with gear := g, rpm := v, neutralSince := since, filled := true,
                 fresh := x.getLsbD 0 || r.fresh || !r.filled || decide (r.gear ≠ g) || decide (r.rpm ≠ v) }
      let neutral := wrote .neutral c.idle (if r.gear = .neutral then r.neutralSince else s.now)
      let driven := fun (g : Gear) (top : Nat) =>
        let v := max c.idle (min rpm top)
        wrote g (match r.cap with | none => v | some k => min v (c.idle + (top - c.idle) * k / 1000)) r.neutralSince
      ∃ z, exec (.hSetpointFrame { cls := 2, node := n, kind := 1, payload := [g, a, b, q, x] }) s =
          .next { s with csu := took, piu := { s.piu with engines := s.piu.engines.set i z } } ∧
        (r.avail ≠ .available ∨ gear = .neutral → z = neutral) ∧
        (r.avail = .available → gear ≠ .neutral → r.gear ≠ .neutral → r.gear ≠ gear → z = neutral) ∧
        (r.avail = .available → gear ≠ .neutral → r.gear = .neutral → ¬may → z = neutral) ∧
        (r.avail = .available → r.gear = gear ∨ (r.gear = .neutral ∧ may) →
          (gear = .ahead → z = driven .ahead c.maxAhead) ∧ (gear = .astern → z = driven .astern c.maxAstern))) ∧
    (∀ a b : Byte, joined → x.getLsbD 1 = true → rudder →
      let l : Int := (rudderOf s 0).limit
      let v : Int := max (-l) (min (a ++ b).toInt l)
      ∃ t, exec (.hSetpointFrame { cls := 2, node := n, kind := 2, payload := [a, b, q, x] }) s = .next t ∧
        Told { s with csu := took, piu := { s.piu with
          rudders := updAt s.piu.rudders 0 fun r =>
            { r with angle := some v, fresh := x.getLsbD 0 || r.fresh || decide (r.angle ≠ some v),
                     deviation := t.piu.rudders[0].deviation } } } t ∧
        (let r := s.piu.rudders[0]
         let z := t.piu.rudders[0]
         (∀ fb, r.avail = .available → r.feedback = some fb →
           (50 < (v - fb.angle).natAbs →
             z.deviation = some (match r.deviation with | none => s.now + 2000 * Config.usPerMs | some x => x) ∧
             isRaised .rudderFault (.rudder 0) t = isRaised .rudderFault (.rudder 0) s) ∧
           ((v - fb.angle).natAbs ≤ 50 → z.deviation = none ∧ isRaised .rudderFault (.rudder 0) t = false)) ∧
         (r.avail ≠ .available ∨ r.feedback = none →
           z.deviation = r.deviation ∧ isRaised .rudderFault (.rudder 0) t = isRaised .rudderFault (.rudder 0) s)))

/-- R53, R54: each refresh restarts its timer and hands one frame for each slot that is not empty, in the order of
the slots: those of E1 to E4, RS and RF to P, those of X1, X2 and XS to H. A frame that enters clears its slot's
fresh flag and takes the next sequence. A frame that finds its queue full or DISABLED, an ISOLATED port, or a link that
is DOWN or in ROLE-MISMATCH, is dropped and counted and leaves its slot's fresh flag and sequence. -/
def Obligations.RefreshSendsSlots : Prop :=
  ∀ (s : State) (d : Nat), s.power = .run → s.piu.refresh = some d →
    let lead : Bool := decide (s.role = .lead) && (decide (s.csu.join = .joined) || decide (s.csu.join = .holding))
    let engine := fun i : Fin 6 =>
      let r := s.piu.engines[i]
      let x : Nat := if 4 ≤ i.val ∧ lead = true then 2 else 0
      if r.filled = true then
        some ({ frame := { cls := 2, node := BitVec.ofNat 6 (engineOf s i).setNode, kind := 1,
                           payload := [gearByte r.gear, BitVec.ofNat 8 (r.rpm / 256), BitVec.ofNat 8 r.rpm,
                                       BitVec.ofNat 8 r.seq, BitVec.ofNat 8 (r.fresh.toNat + x)] },
                origin := .piu } : TxEntry)
      else none
    let rudder := fun i : Fin 3 =>
      let r := s.piu.rudders[i]
      let x : Nat := if i = 2 ∧ lead = true then 2 else 0
      r.angle.map fun a =>
        ({ frame := { cls := 2, node := BitVec.ofNat 6 (rudderOf s i).setNode, kind := 2,
                      payload := [BitVec.ofNat 8 ((a % 65536).toNat / 256), BitVec.ofNat 8 (a % 65536).toNat,
                                  BitVec.ofNat 8 r.seq, BitVec.ofNat 8 (r.fresh.toNat + x)] },
           origin := .piu } : TxEntry)
    let slotsP := [engine 0, engine 1, engine 2, engine 3, rudder 0, rudder 1]
    let slotsH := [engine 4, engine 5, rudder 2]
    let toP := slotsP.filterMap id
    let toH := slotsH.filterMap id
    let qp := classQueue s .p 2
    let qh := classQueue s .h 2
    let roomP := 16 - s.pcp.tx[qp].length
    let roomH := 32 - s.hlc.queues[qh].tx.length
    let enters := fun (slots : List (Option TxEntry)) (k room : Nat) => ((slots.take k).filterMap id).length < room
    let sentE := fun r : EngineRec => if r.filled = true then { r with fresh := false, seq := (r.seq + 1) % 256 } else r
    let sentR := fun r : RudderRec => if r.angle = none then r else { r with fresh := false, seq := (r.seq + 1) % 256 }
    ∃ t, exec .refreshTimerExpiry s = .next t ∧
      t = { s with now := max s.now d, pcp := t.pcp, hlc := t.hlc,
                   piu := { s.piu with engines := t.piu.engines, rudders := t.piu.rudders,
                                       refresh := some (max s.now d + 100 * Config.usPerMs) } } ∧
      (s.pcp.state ≠ .isolated →
        t.pcp = { s.pcp with tx := updAt s.pcp.tx qp (· ++ toP.take roomP),
                             txDrop := updAt s.pcp.txDrop qp satInc^[toP.length - roomP] } ∧
        (∀ i : Fin 6, i.val < 4 → t.piu.engines[i] =
          if enters slotsP i.val roomP then sentE s.piu.engines[i] else s.piu.engines[i]) ∧
        ∀ i : Fin 3, i ≠ 2 → t.piu.rudders[i] =
          if enters slotsP (4 + i.val) roomP then sentR s.piu.rudders[i] else s.piu.rudders[i]) ∧
      (s.pcp.state = .isolated →
        t.pcp = { s.pcp with flushDrop := satInc^[toP.length] s.pcp.flushDrop } ∧
        (∀ i : Fin 6, i.val < 4 → t.piu.engines[i] = s.piu.engines[i]) ∧
        ∀ i : Fin 3, i ≠ 2 → t.piu.rudders[i] = s.piu.rudders[i]) ∧
      (s.hlc.state ≠ .down → s.hlc.state ≠ .roleMismatch → s.hlc.queues[qh].state ≠ .disabled →
        t.hlc = { s.hlc with queues := updAt s.hlc.queues qh fun q =>
          { q with tx := q.tx ++ toH.take roomH, txDrop := satInc^[toH.length - roomH] q.txDrop } } ∧
        (∀ i : Fin 6, 4 ≤ i.val → t.piu.engines[i] =
          if enters slotsH (i.val - 4) roomH then sentE s.piu.engines[i] else s.piu.engines[i]) ∧
        t.piu.rudders[2] = if enters slotsH 2 roomH then sentR s.piu.rudders[2] else s.piu.rudders[2]) ∧
      (s.hlc.state ≠ .down → s.hlc.state ≠ .roleMismatch → s.hlc.queues[qh].state = .disabled →
        t.hlc = { s.hlc with disabledDrop := satInc^[toH.length] s.hlc.disabledDrop } ∧
        (∀ i : Fin 6, 4 ≤ i.val → t.piu.engines[i] = s.piu.engines[i]) ∧ t.piu.rudders[2] = s.piu.rudders[2]) ∧
      (s.hlc.state = .down ∨ s.hlc.state = .roleMismatch →
        t.hlc = { s.hlc with flushDrop := satInc^[toH.length] s.hlc.flushDrop } ∧
        (∀ i : Fin 6, 4 ≤ i.val → t.piu.engines[i] = s.piu.engines[i]) ∧ t.piu.rudders[2] = s.piu.rudders[2])

/-- R73 to R75, R82 to R85, R92, R95, R194: the expiry of the poll round timer. A running round counts an overrun and
marks a start. Otherwise a round begins: a waiting MAKEUP commit takes its table, clears the BREAKAWAY of each unit
that leaves the list, cancels a pending arm and is answered OK with its commit number; the first round requests a rebuild recompute, and with none of these the list of the polled
couplings is taken up: the first POLL is handed to K, each coupling counts a missed poll while K does not run, and
an empty list publishes the headroom at once. A waiting COUPLING commit, here with K in RUN and room for the POLL,
takes its table and parameters: a coupling of the same node and units is kept with its live fields, a tension state
by its last tension and the new limits, a RELEASED one made SLACK anew; every other starts SLACK; the alarms of a
dropped one are cleared; a release in progress follows its coupling, or ends with ARM-CANCELLED when the coupling is
dropped; a pending arm is cancelled; the commit is answered OK with its commit number (R194); a rebuild recompute is
requested, and the round takes up the new list. That the
commit ends the failed-release mark of a kept coupling too is the model's reading (log entry 78), and that the
commit's response goes behind the ALARM and ARM-CANCELLED frames of its swap is the model's choice (log entry 76). Of
a POLL that K drops at a full queue nothing is said, and of a round that swaps both tables in only the clauses of
MAKEUP, but for the answer. -/
def Obligations.PollRoundBegins : Prop :=
  ∀ (s : State) (d : Nat), s.power = .run → s.cmu.roundTimer = some d →
    let later := max s.now d
    let period := max 50 (min s.cmu.params.period 5000) * Config.usPerMs
    let polled := fun c : Coupling => c.state ≠ .releasing ∧ c.state ≠ .released
    let answered := fun (k : Kind) (t : State) => t.mgu.slot = none ∧ ∀ node, s.mgu.slot = some ⟨node, .commit k⟩ →
      s.pcw.state ≠ .isolated → t.pcw.tx[classQueue s .w 9].length < 16 → t.pcw.tx[classQueue s .w 9].getLast? = some
        { frame := { cls := 9, node := node, kind := 12, payload := [0, 128] ++ beBytes 4 (activeCommit s k) }, origin := .mgu }
    (s.cmu.round ≠ none → exec .pollRoundTimerExpiry s = .next { s with now := later, cmu := { s.cmu with
      roundTimer := some (later + period), roundOverrun := min 65535 (s.cmu.roundOverrun + 1), startMarked := true } }) ∧
    (s.cmu.round = none → s.cmu.startMarked = false → s.cmu.makeupSwap = false → s.cmu.couplingSwap = false →
      s.cmu.firstRound = false →
      ((∀ c ∈ s.cmu.couplings, ¬polled c) →
        exec .pollRoundTimerExpiry s = .next { s with now := later, cmu := { s.cmu with
          roundTimer := some (later + period), headroom := headroomOf s.cmu } }) ∧
      (∀ (i : Nat) (c : Coupling), s.cmu.couplings[i]? = some c → polled c →
        (∀ (j : Nat) (x : Coupling), j < i → s.cmu.couplings[j]? = some x → ¬polled x) → s.pck.state = .run →
        let q := classQueue s .k 4
        s.pck.tx[q].length < 16 →
        let poll : Frame := { cls := 4, node := BitVec.ofNat 6 c.entry.node, kind := 1, payload := [] }
        ∃ rest : List Nat,
          (∀ j, j ∈ rest ↔ i < j ∧ ∃ x, s.cmu.couplings[j]? = some x ∧ polled x) ∧ rest.Pairwise (· < ·) ∧
          exec .pollRoundTimerExpiry s = .next { s with
            now := later,
            cmu := { s.cmu with roundTimer := some (later + period), serial := s.cmu.serial + 1,
                                round := some { poll := ⟨i, c.entry.node, s.cmu.serial⟩, rest := rest } },
            pck := { s.pck with tx := updAt s.pck.tx q (· ++ [{ frame := poll, origin := .cmuPoll s.cmu.serial }]) } }) ∧
      (s.pck.state ≠ .run →
        ∃ t, exec .pollRoundTimerExpiry s = .next t ∧ t.cmu.round = none ∧ t.cmu.headroom = headroomOf t.cmu ∧
          t.cmu.couplings = s.cmu.couplings.map (fun c => match c.state with
            | .slack | .loaded | .high | .over =>
              { c with missed := min 255 (c.missed + 1), state := if 2 ≤ c.missed then .silent else c.state }
            | .silent => { c with missed := min 255 (c.missed + 1) }
            | .parted => { c with missed := min 255 (c.missed + 1), good := 0 }
            | .releasing | .released => c))) ∧
    (s.cmu.round = none → s.cmu.startMarked = false → s.cmu.makeupSwap = false → s.cmu.couplingSwap = false →
      s.cmu.firstRound = true → s.cmu.recompute = none →
      ∃ t, exec .pollRoundTimerExpiry s = .next t ∧ t.cmu.firstRound = false ∧
        t.cmu.recompute = some { units := s.cmu.units.map (·.entry), couplings := s.cmu.couplings.map (fun x => (x.entry, x.state)),
                                 lossSet := s.cmu.lossSet, releaseSet := s.cmu.releaseSet, rebuild := true }) ∧
    (s.cmu.round = none → s.cmu.startMarked = false → s.cmu.makeupSwap = true →
      ∃ t, exec .pollRoundTimerExpiry s = .next t ∧ t.cmu.makeupSwap = false ∧ t.cmu.nAtt = s.cmu.nAtt ∧
        (s.fau.voyage.isOpen = true → t.cmu.causes.makeupCommit = true) ∧
        t.cmu.units = (sortUnits ((activeMakeup s).getD [])).map (fun e =>
          { entry := e, attached := s.cmu.units.any fun u => u.entry.id == e.id && u.attached }) ∧
        (∀ n, isRaised .breakaway (.unit n) t = (isRaised .breakaway (.unit n) s &&
          !(s.cmu.units.any (·.entry.id == n) && !((activeMakeup s).getD []).any (·.id == n)))) ∧
        t.cmu.breakaways = s.cmu.breakaways ∧ t.mgu.slot = none ∧
        (s.cmu.couplingSwap = false → s.pck.state = .run → s.pck.tx[classQueue s .k 4].length < 16 → answered .makeup t) ∧
        (∀ st i n k, t.cmu.release ≠ .armed st i n k) ∧ (s.cmu.recompute = none → ∃ r, t.cmu.recompute = some r ∧ r.rebuild = true)) ∧
    (s.cmu.round = none → s.cmu.startMarked = false → s.cmu.makeupSwap = false → s.cmu.couplingSwap = true →
      s.pck.state = .run → s.pck.tx[classQueue s .k 4].length < 16 →
      let old := s.cmu.couplings
      let params := (activeCoupling s).elim CouplingParams.default (·.params)
      let new := (activeCoupling s).elim [] (·.couplings)
      let same := fun a b : CouplingEntry => a.node = b.node ∧ min a.unitA 47 = min b.unitA 47 ∧ min a.unitB 47 = min b.unitB 47
      let kept := fun (c : Coupling) (e : CouplingEntry) => ∃ j : Nat, old[j]? = some c ∧ same c.entry e ∧
        ∀ (i : Nat) (z : Coupling), i < j → old[i]? = some z → ¬same z.entry e
      let given := fun (e : CouplingEntry) (v : Nat) =>
        let limit := max 1 (min e.limit 4000)
        if limit < v then CouplingState.over else if 4 * limit < 5 * v then .high
        else if v < limit * max 0 (min params.slack 1000) / 1000 then .slack else .loaded
      let inTension := fun c : Coupling => c.state = .slack ∨ c.state = .loaded ∨ c.state = .high ∨ c.state = .over
      let only := fun c : Coupling => ∀ z ∈ old, z.entry.node = c.entry.node → z = c
      let raised := fun (u : State) (a : Alarm) (c : Coupling) => isRaised a (.coupler c.entry.node) u
      ∃ t, exec .pollRoundTimerExpiry s = .next t ∧ t.cmu.couplingSwap = false ∧ t.cmu.params = params ∧
        t.cmu.units = s.cmu.units ∧ t.cmu.nAtt = s.cmu.nAtt ∧ t.cmu.roundTimer = some (later + period) ∧
        t.cmu.causes = { s.cmu.causes with couplingCommit := s.cmu.causes.couplingCommit || s.fau.voyage.isOpen } ∧
        t.cmu.couplings.length = new.length ∧ answered .coupling t ∧
        (∀ (k : Nat) (e : CouplingEntry), new[k]? = some e →
          ((∀ c ∈ old, ¬same c.entry e) → t.cmu.couplings[k]? = some
            { entry := e, state := .slack, tension := none, brake := none, hook := none, missed := 0, good := 0, failed := false }) ∧
          ∀ c, kept c e →
            (c.state = .silent ∨ c.state = .parted ∨ c.state = .releasing ∨ (inTension c ∧ c.tension = none) →
              t.cmu.couplings[k]? = some { c with entry := e, failed := false }) ∧
            (c.state = .released → t.cmu.couplings[k]? = some
              { c with entry := e, failed := false, state := .slack, tension := none, missed := 0, good := 0 }) ∧
            ∀ v, inTension c → c.tension = some v →
              t.cmu.couplings[k]? = some { c with entry := e, failed := false, state := given e v } ∧
              (only c → c.state ≠ given e v → (∀ i z, i < k → new[i]? = some z → ¬same z c.entry) →
                (given e v = .high → raised t .couplingHigh c = true) ∧ (given e v = .over → raised t .couplingOver c = true) ∧
                (c.state = .high → raised t .couplingHigh c = false) ∧ (c.state = .over → raised t .couplingOver c = false))) ∧
        (∀ c ∈ old, (∀ e ∈ new, ¬same e c.entry) → only c →
          ∀ a ∈ [Alarm.couplingHigh, .couplingOver, .couplingSilent, .couplingParted, .releaseFailed], raised t a c = false) ∧
        ((∀ st i n k d, s.cmu.release ≠ .releasing st i n k d) → t.cmu.release = .idle) ∧
        (∀ st i n k d c, s.cmu.release = .releasing st i n k d → old[i]? = some c →
          (∀ (j : Nat) (e : CouplingEntry), new[j]? = some e → same e c.entry →
            (∀ m z, m < j → new[m]? = some z → ¬same z c.entry) → t.cmu.release = .releasing st j n k d) ∧
          ((∀ e ∈ new, ¬same e c.entry) → t.cmu.release = .idle) ∧
          ((∀ z ∈ old, ∀ e ∈ new, ¬same e z.entry) → s.mgu.raised = [] → s.mgu.slot = none →
            t.mgu.raised = [] ∧ t.pcw = (reportStatus (some st) .armCancelled (BitVec.ofNat 8 i) s).pcw)) ∧
        (s.cmu.recompute = none → ∃ r, t.cmu.recompute = some r ∧ r.rebuild = true ∧
          r.couplings = t.cmu.couplings.map fun x => (x.entry, x.state)) ∧
        (s.cmu.recompute ≠ none → t.cmu.recomputePending = true ∧ t.cmu.rebuild = true) ∧
        ((∀ c ∈ t.cmu.couplings, ¬polled c) → t.cmu.round = none) ∧
        ∀ (i : Nat) (c : Coupling), t.cmu.couplings[i]? = some c → polled c →
          (∀ (j : Nat) (x : Coupling), j < i → t.cmu.couplings[j]? = some x → ¬polled x) →
          ∃ r, t.cmu.round = some r ∧ r.poll.index = i ∧ r.poll.node = c.entry.node)

/-- R82: the headroom is the least free part of a coupling in a tension state, one of unknown tension counting as
H_silent, at most 1000, and at most H_silent while a coupling is SILENT. -/
def Obligations.HeadroomIsLeast : Prop :=
  ∀ c : Cmu,
    let silent := max 0 (min c.params.hSilent 1000)
    let limit := fun x : Coupling => max 1 (min x.entry.limit 4000)
    let part := fun x : Coupling => match x.tension with
      | none => silent
      | some t => (limit x - t) * 1000 / limit x
    let inTension := fun x : Coupling => x.state = .slack ∨ x.state = .loaded ∨ x.state = .high ∨ x.state = .over
    headroomOf c ≤ 1000 ∧ (∀ x ∈ c.couplings, inTension x → headroomOf c ≤ part x) ∧
      ((∃ x ∈ c.couplings, x.state = .silent) → headroomOf c ≤ silent) ∧
      (headroomOf c = 1000 ∨ (∃ x ∈ c.couplings, inTension x ∧ headroomOf c = part x) ∨
        ((∃ x ∈ c.couplings, x.state = .silent) ∧ headroomOf c = silent))

/-- R68, R69, R70, R72, R76: a REPORT. One that answers no POLL now outstanding is counted as unsolicited, and a
class 4 frame that is neither REPORT nor RELEASE-DONE in good form as malformed; the answer ends its poll, and its
coupling moves by the table of R70 and stores what was reported. A class 4 frame of kind 0 is counted like the
others (the model's choice, log entry 60). R73, R75: when the poll has ended, the next POLL of the list is handed,
or the round ends and a marked start begins the next at once (`PollFollows`). R90: a coupling that leaves SLACK and
LOADED cancels an arm that names it; that ARM-CANCELLED goes behind the ALARM of the coupling's change is the model's
reading (log entry 8). What the coupling itself becomes is said where no start is marked; of its alarms the raises are
said, and not the clears of COUPLING-HIGH and COUPLING-OVER as it leaves HIGH and OVER. -/
def Obligations.ReportMovesCoupling : Prop :=
  ∀ (s : State) (n : Node) (w : BitVec 16) (x : Byte), s.power = .run →
    (s.cmu.round = none ∨ (∃ r, s.cmu.round = some r ∧ r.poll.node ≠ n.toNat) →
      exec (.report n w x) s =
        .next { s with cmu := { s.cmu with unsolicitedReport := min 65535 (s.cmu.unsolicitedReport + 1) } }) ∧
    (∀ f : Frame, (f.kind ≠ 2 ∧ f.kind ≠ 4) ∨ (f.kind = 2 ∧ f.payload.length ≠ 3) ∨ (f.kind = 4 ∧ f.payload.length ≠ 1) →
      exec (.malformedReport f) s =
        .next { s with cmu := { s.cmu with malformedReport := min 65535 (s.cmu.malformedReport + 1) } }) ∧
    (∀ r : Round, s.cmu.round = some r → r.poll.node = n.toNat →
      ∃ u, exec (.report n w x) s = .next u ∧ PollFollows r.rest s u) ∧
    ∀ (r : Round) (c : Coupling), s.cmu.round = some r → r.poll.node = n.toNat →
      s.cmu.couplings[r.poll.index]? = some c → r.poll.index ∉ r.rest → s.cmu.startMarked = false →
      let t := min w.toNat 4000
      let limit := max 1 (min c.entry.limit 4000)
      let slack := limit * max 0 (min s.cmu.params.slack 1000) / 1000
      let part := limit * max 0 (min s.cmu.params.part 1000) / 1000
      let given : CouplingState :=
        if limit < t then .over else if 4 * limit < 5 * t then .high else if t < slack then .slack else .loaded
      let holding := c.state = .slack ∨ c.state = .loaded ∨ c.state = .high ∨ c.state = .over ∨ c.state = .silent
      let parts := (∃ p, c.tension = some p ∧ part ≤ p) ∧ t < slack
      let good := slack ≤ t ∧ x.getLsbD 1 = true
      let stored := fun (z : Coupling) => { z with missed := 0, tension := some t, brake := some (x.getLsbD 0),
                                                   hook := some (x.getLsbD 1) }
      ∃ u, exec (.report n w x) s = .next u ∧
        Told { s with cmu := u.cmu, pck := u.pck } u ∧
        (r.rest = [] → u.pck = s.pck ∧ u.cmu.round = none ∧ u.cmu.answer = none ∧ u.cmu.headroom = headroomOf u.cmu ∧
          ∀ j, j ≠ r.poll.index → u.cmu.couplings[j]? = s.cmu.couplings[j]?) ∧
        (r.rest = [] → ∀ z, u.cmu.couplings[r.poll.index]? = some z →
          let leaves := z.state ≠ c.state ∧ z.state ≠ .slack ∧ z.state ≠ .loaded
          (∀ st m k, leaves → s.cmu.release = .armed st r.poll.index m k → u.cmu.release = .idle ∧
            ∃ v, Told { s with cmu := v.cmu } v ∧
              u.pcw = (reportStatus (some st) .armCancelled (BitVec.ofNat 8 r.poll.index) v).pcw) ∧
          (¬leaves ∨ (∀ st m k, s.cmu.release ≠ .armed st r.poll.index m k) → u.cmu.release = s.cmu.release)) ∧
        u.cmu.tensionClamp = (if 4000 < w.toNat then min 65535 (s.cmu.tensionClamp + 1) else s.cmu.tensionClamp) ∧
        (holding → parts →
          u.cmu.couplings[r.poll.index]? = some (stored { c with state := .parted, good := 0, failed := false }) ∧
          isRaised .couplingParted (.coupler c.entry.node) u = true ∧
          (s.cmu.recompute = none → ∃ k, u.cmu.recompute = some k ∧ c.entry.node ∈ k.lossSet) ∧
          (s.cmu.recompute ≠ none → u.cmu.recomputePending = true ∧ c.entry.node ∈ u.cmu.lossSet)) ∧
        (holding → ¬parts → u.cmu.couplings[r.poll.index]? = some (stored { c with state := given }) ∧
          (r.rest = [] → c.state ≠ given → given = .over → isRaised .couplingOver (.coupler c.entry.node) u = true) ∧
          (r.rest = [] → c.state ≠ given → given = .high → isRaised .couplingHigh (.coupler c.entry.node) u = true)) ∧
        (c.state = .parted → ¬good → u.cmu.couplings[r.poll.index]? = some (stored { c with good := 0 })) ∧
        (c.state = .parted → good → c.good + 1 < 3 →
          u.cmu.couplings[r.poll.index]? = some (stored { c with good := c.good + 1 })) ∧
        (c.state = .parted → good → 2 ≤ c.good →
          u.cmu.couplings[r.poll.index]? = some (stored { c with state := given, good := 0 }) ∧
          (s.cmu.recompute = none → u.cmu.recompute ≠ none) ∧ (s.cmu.recompute ≠ none → u.cmu.recomputePending = true)) ∧
        (c.state = .releasing ∨ c.state = .released → u.cmu.couplings[r.poll.index]? = some (stored c))

/-- R71, R73: the expiry of the poll answer timer ends the outstanding poll as missed: at the third in a row the
coupling becomes SILENT with its alarm, a PARTED one counts its good reports anew, a RELEASING one is left. A
RELEASED one is left too (the model's choice, log entry 61). R73, R75: the round goes on as `PollFollows` says. R90:
a coupling that becomes SILENT cancels an arm that names it; that ARM-CANCELLED goes behind the ALARM of the coupling's
change is the model's reading (log entry 8). What the coupling itself becomes is said where the poll is the last of its
list and no start is marked. -/
def Obligations.MissedPollMovesCoupling : Prop :=
  (∀ (s : State) (d : Nat) (r : Round), s.power = .run → s.cmu.answer = some d → s.cmu.round = some r →
    ∃ u, exec .pollAnswerTimerExpiry s = .next u ∧ PollFollows r.rest s u) ∧
  ∀ (s : State) (d : Nat) (r : Round) (c : Coupling), s.power = .run → s.cmu.answer = some d → s.cmu.round = some r →
    s.cmu.couplings[r.poll.index]? = some c → r.rest = [] → s.cmu.startMarked = false →
    let inTension := c.state = .slack ∨ c.state = .loaded ∨ c.state = .high ∨ c.state = .over
    ∃ u, exec .pollAnswerTimerExpiry s = .next u ∧
      Told { s with now := max s.now d, cmu := u.cmu } u ∧ u.cmu.round = none ∧ u.cmu.answer = none ∧
      (∀ z, u.cmu.couplings[r.poll.index]? = some z →
        let leaves := z.state ≠ c.state ∧ z.state ≠ .slack ∧ z.state ≠ .loaded
        (∀ st m k, leaves → s.cmu.release = .armed st r.poll.index m k → u.cmu.release = .idle ∧
          ∃ v, Told { s with now := max s.now d, cmu := v.cmu } v ∧
            u.pcw = (reportStatus (some st) .armCancelled (BitVec.ofNat 8 r.poll.index) v).pcw) ∧
        (¬leaves ∨ (∀ st m k, s.cmu.release ≠ .armed st r.poll.index m k) → u.cmu.release = s.cmu.release)) ∧
      u.cmu.recompute = s.cmu.recompute ∧ u.cmu.headroom = headroomOf u.cmu ∧
      (∀ j, j ≠ r.poll.index → u.cmu.couplings[j]? = s.cmu.couplings[j]?) ∧
      (inTension → c.missed + 1 < 3 → u.cmu.couplings[r.poll.index]? = some { c with missed := c.missed + 1 }) ∧
      (inTension → 2 ≤ c.missed →
        u.cmu.couplings[r.poll.index]? = some { c with missed := min 255 (c.missed + 1), state := .silent } ∧
        isRaised .couplingSilent (.coupler c.entry.node) u = true ∧
        isRaised .couplingHigh (.coupler c.entry.node) u =
          (isRaised .couplingHigh (.coupler c.entry.node) s && !decide (c.state = .high))) ∧
      (c.state = .silent → u.cmu.couplings[r.poll.index]? = some { c with missed := min 255 (c.missed + 1) }) ∧
      (c.state = .parted → u.cmu.couplings[r.poll.index]? = some { c with missed := min 255 (c.missed + 1), good := 0 }) ∧
      (c.state = .releasing ∨ c.state = .released → u.cmu.couplings = s.cmu.couplings)

/-- R65, R77: the units that a recompute reaches are exactly those joined to unit 0 by a chain of the couplings it
is given, each joining two different units of the list in either direction, its unit A and unit B used within 0 to
47. -/
def Obligations.ReachableIsClosure : Prop :=
  ∀ (units : List UnitEntry) (l : List CouplingEntry) (n : Nat),
    n ∈ reachable units l ↔
      Relation.ReflTransGen (fun a b => a ≠ b ∧ (∃ u ∈ units, u.id = a) ∧ (∃ u ∈ units, u.id = b) ∧
        ∃ e ∈ l, (min e.unitA 47 = a ∧ min e.unitB 47 = b) ∨ (min e.unitA 47 = b ∧ min e.unitB 47 = a)) 0 n

/-- R76 to R79, R83: the completion of a recompute writes the attached flags from what it took, publishes n_att and
the headroom, finds the breakaways among the units that have become detached, and starts one more when one is
pending. Each breakaway sets the cause, raises its alarm and enters the list, once for each unit and in the order of
the make-up list. A unit that the recompute did not take keeps its flag, and a list of 47 entries takes no further one
(the model's choices, log entries 20 and 77). A completion with no recompute running changes nothing (log entry 6). -/
def Obligations.RecomputeCompletes : Prop :=
  ∀ (s : State), s.power = .run →
    (s.cmu.recompute = none → exec .recomputeCompletion s = .next s) ∧
    ∀ r, s.cmu.recompute = some r →
      let holds := fun x : CouplingState => x = .slack ∨ x = .loaded ∨ x = .high ∨ x = .over ∨ x = .silent
      ∃ (now before : List CouplingEntry) (t : State),
        (∀ e, e ∈ now ↔ ∃ x, (e, x) ∈ r.couplings ∧ holds x) ∧
        (∀ e, e ∈ before ↔ ∃ x, (e, x) ∈ r.couplings ∧ (holds x ∨ e.node ∈ r.lossSet)) ∧
        exec .recomputeCompletion s = .next t ∧ Told { s with cmu := t.cmu } t ∧
        (let took := fun n : Nat => r.units.any (·.id == n)
         let on := fun n : Nat => (reachable r.units now).contains n
         let lost := fun u : TowUnit => took u.entry.id && u.attached && !on u.entry.id &&
           (reachable r.units before).contains u.entry.id && !r.rebuild
         t.cmu.units = s.cmu.units.map (fun u =>
           if took u.entry.id = true then { u with attached := on u.entry.id } else u) ∧
         t.cmu.nAtt = (r.units.filter fun u => u.id != 0 && on u.id).length ∧
         t.cmu.headroom = headroomOf s.cmu ∧ t.cmu.couplings = s.cmu.couplings ∧ t.cmu.release = s.cmu.release ∧
         (∀ n, isRaised .breakaway (.unit n) t =
           (isRaised .breakaway (.unit n) s && !s.cmu.units.any (fun u => u.entry.id == n && took n && on n) ||
             s.cmu.units.any (fun u => u.entry.id == n && lost u))) ∧
         t.cmu.causes = { s.cmu.causes with breakaway := s.cmu.causes.breakaway || s.cmu.units.any lost } ∧
         t.cmu.breakaways = (s.cmu.units.filter lost).foldl (fun l u =>
           if (∃ e ∈ l, e.id = u.entry.id) ∨ 47 ≤ l.length then l else l ++ [u.entry]) s.cmu.breakaways) ∧
        (s.cmu.recomputePending = false → t.cmu.recompute = none ∧ t.cmu.lossSet = s.cmu.lossSet ∧
          t.cmu.releaseSet = s.cmu.releaseSet ∧ t.cmu.rebuild = s.cmu.rebuild) ∧
        (s.cmu.recomputePending = true → t.cmu.recomputePending = false ∧ t.cmu.lossSet = [] ∧ t.cmu.releaseSet = [] ∧
          t.cmu.rebuild = false ∧ t.cmu.recompute = some
            { units := t.cmu.units.map (·.entry), couplings := s.cmu.couplings.map (fun x => (x.entry, x.state)),
              lossSet := s.cmu.lossSet, releaseSet := s.cmu.releaseSet, rebuild := s.cmu.rebuild })

/-- R88 to R90: RELEASE-ARM, a class 6 frame of another kind or length, and the expiry of the arm timer. Each
refused frame gives its outcome, and then ends an arm that was pending. The detail byte of a frame without a
coupling index is the model's choice (log entry 63). An expiry of an arm timer that is stopped changes nothing (log
entry 6). -/
def Obligations.ReleaseArmRows : Prop :=
  ∀ (s : State) (n : Node) (id : Byte), s.power = .run →
    let cancelled := fun u : State => match u.cmu.release with
      | .armed st i _ _ => reportStatus (some st) .armCancelled (BitVec.ofNat 8 i) { u with cmu := { u.cmu with release := .idle } }
      | .idle => u
      | .releasing _ _ _ _ _ => u
    let refused := fun (st : Option (Fin 4)) (o : StatusOutcome) => cancelled (reportStatus st o id s)
    let sound := fun c : Coupling => c.state = .slack ∨ c.state = .loaded
    (findStation s n = none → exec (.releaseArm n id) s = .next (refused none .notInCommand)) ∧
    (∀ i, findStation s n = some i →
      (s.csu.inCommand ≠ some i → exec (.releaseArm n id) s = .next (refused (some i) .notInCommand)) ∧
      (s.csu.inCommand = some i →
        (s.cmu.release ≠ .idle → exec (.releaseArm n id) s = .next (refused (some i) .busy)) ∧
        (s.cmu.release = .idle → s.csu.allStop ≠ none ∨ s.cmu.couplings[id.toNat]? = none ∨
            (∃ c, s.cmu.couplings[id.toNat]? = some c ∧ ¬sound c) →
          exec (.releaseArm n id) s = .next (reportStatus (some i) .state id s)) ∧
        (∀ c, s.cmu.release = .idle → s.csu.allStop = none → s.cmu.couplings[id.toNat]? = some c → sound c →
          (c.entry.locked = true → exec (.releaseArm n id) s = .next (reportStatus (some i) .locked id s)) ∧
          (c.entry.locked = false → exec (.releaseArm n id) s = .next (reportStatus (some i) .armed id
            { s with cmu := { s.cmu with
              release := .armed i id.toNat c.entry.node (s.now + 10000 * Config.usPerMs),
              couplings := s.cmu.couplings.modify id.toNat ({ · with failed := false }) } }))))) ∧
    (∀ (f : Frame) (i : Fin 4), findStation s f.node = some i → f.payload.headD 255 = id →
      (f.kind ≠ 1 ∧ f.kind ≠ 2) ∨ (f.kind = 1 ∧ f.payload.length ≠ 1) ∨ (f.kind = 2 ∧ f.payload.length ≠ 2) →
      (s.csu.inCommand = some i → exec (.releaseFrameUnknownKind f) s = .next (refused (some i) .format)) ∧
      (s.csu.inCommand ≠ some i → exec (.releaseFrameUnknownKind f) s = .next (refused (some i) .notInCommand))) ∧
    (∀ st i m d, s.cmu.release = .armed st i m d →
      exec .armTimerExpiry s = .next (reportStatus (some st) .armExpired (BitVec.ofNat 8 i)
        { s with now := max s.now d, cmu := { s.cmu with release := .idle } })) ∧
    ((∀ st i m d, s.cmu.release ≠ .armed st i m d) → exec .armTimerExpiry s = .next s)

/-- R73, R88, R91, R92, R94: RELEASE-GO. A coupling enters RELEASING only on a GO from the station in command that
matches the pending arm, with the coupling SLACK or LOADED, K in RUN, its tension at or below its release threshold
and |D_eff| at or below the release thrust limit; every other GO, one from an unknown node or from a station not in
command among them, is refused and ends the arm. The coupling leaves the poll list of a round that runs, which skips
it (R73, R92). With the K queue full its RELEASE is dropped and the release fails at once (R94). -/
def Obligations.ReleaseGoRows : Prop :=
  ∀ (s : State) (n : Node) (id x : Byte), s.power = .run →
    let shut := fun (st : Option (Fin 4)) =>
      let u := reportStatus st .notInCommand id s
      match s.cmu.release with
      | .armed a j _ _ => reportStatus (some a) .armCancelled (BitVec.ofNat 8 j) { u with cmu := { u.cmu with release := .idle } }
      | .idle => u
      | .releasing _ _ _ _ _ => u
    (findStation s n = none → exec (.releaseGo n id x) s = .next (shut none)) ∧
    (∀ i, findStation s n = some i → s.csu.inCommand ≠ some i → exec (.releaseGo n id x) s = .next (shut (some i))) ∧
    ∀ i : Fin 4, findStation s n = some i → s.csu.inCommand = some i →
      ((∀ st j m d, s.cmu.release ≠ .armed st j m d) →
        exec (.releaseGo n id x) s = .next (reportStatus (some i) .notArmed id s)) ∧
      ∀ (st : Fin 4) (j m d : Nat), s.cmu.release = .armed st j m d →
        let refused := fun o : StatusOutcome =>
          let u := reportStatus (some i) o id s
          reportStatus (some st) .armCancelled (BitVec.ofNat 8 j) { u with cmu := { u.cmu with release := .idle } }
        (id.toNat ≠ j ∨ x.toNat ≠ 255 - id.toNat → exec (.releaseGo n id x) s = .next (refused .mismatch)) ∧
        ∀ c, id.toNat = j → x.toNat = 255 - id.toNat → s.cmu.couplings[j]? = some c →
          let sound := c.state = .slack ∨ c.state = .loaded
          let threshold := match c.entry.threshold with
            | none => max 1 (min c.entry.limit 4000) / 10
            | some v => max 0 (min v 4000)
          let slackWire := ∃ v, c.tension = some v ∧ v ≤ threshold
          let quiet := s.tau.dEff.natAbs ≤ max 0 (min s.cmu.params.releaseLimit 1000)
          (¬sound → exec (.releaseGo n id x) s = .next (refused .state)) ∧
          (sound → s.pck.state ≠ .run → exec (.releaseGo n id x) s = .next (refused .portDown)) ∧
          (sound → s.pck.state = .run → ¬slackWire → exec (.releaseGo n id x) s = .next (refused .tension)) ∧
          (sound → s.pck.state = .run → slackWire → ¬quiet → exec (.releaseGo n id x) s = .next (refused .thrust)) ∧
          (sound → s.pck.state = .run → slackWire → quiet →
            let q := classQueue s .k 4
            let node := c.entry.node
            let frame : Frame := { cls := 4, node := BitVec.ofNat 6 node, kind := 3, payload := [BitVec.ofNat 8 (255 - node)] }
            ∃ t, exec (.releaseGo n id x) s = .next t ∧
              t.cmu.round = s.cmu.round.map (fun r => { r with rest := r.rest.filter (· != j) }) ∧
              (s.pck.tx[q].length < 16 →
                Told { s with
                  cmu := t.cmu,
                  pck := { s.pck with tx := updAt s.pck.tx q (· ++ [{ frame := frame, origin := .cmuRelease s.cmu.serial }]) } } t ∧
                t.cmu.release = .releasing i j node (s.now + 2000 * Config.usPerMs) s.cmu.serial ∧
                t.cmu.couplings = s.cmu.couplings.modify j ({ · with state := .releasing }) ∧
                isRaised .releaseFailed (.coupler node) t = false ∧
                (s.cmu.recompute = none → ∃ k, t.cmu.recompute = some k ∧ node ∈ k.releaseSet) ∧
                (s.cmu.recompute ≠ none → t.cmu.recomputePending = true ∧ node ∈ t.cmu.releaseSet)) ∧
              (16 ≤ s.pck.tx[q].length → t.cmu.release = .idle ∧ isRaised .releaseFailed (.coupler node) t = true ∧
                ∃ z, t.cmu.couplings[j]? = some z ∧ isTension z.state = true ∧ z.failed = true))

/-- R73, R93 to R95: how a release ends. OPENED from its node makes the coupling RELEASED; REFUSED, or the answer
timer, returns it to the state of its last tension with the failed-release mark and RELEASE-FAILED; an OPENED after
a failure is taken late; every other RELEASE-DONE is counted. A coupling that enters RELEASED leaves the poll list
of a round that runs; one whose release fails does not come back into it, and is polled from the next list on. An
expiry of an answer timer that is stopped changes nothing (log entry 6). -/
def Obligations.ReleaseEnds : Prop :=
  ∀ (s : State), s.power = .run →
    (∀ (n : Node) (v : Byte), v ≠ 1 → v ≠ 2 → exec (.releaseDone n v) s =
      .next { s with cmu := { s.cmu with malformedReport := min 65535 (s.cmu.malformedReport + 1) } }) ∧
    (∀ (st : Fin 4) (j m d k : Nat) (c : Coupling), s.cmu.release = .releasing st j m d k → s.cmu.couplings[j]? = some c →
      c.state = .releasing →
      let limit := max 1 (min c.entry.limit 4000)
      let slack := limit * max 0 (min s.cmu.params.slack 1000) / 1000
      let back : CouplingState := match c.tension with
        | none => .slack
        | some t => if limit < t then .over else if 4 * limit < 5 * t then .high else if t < slack then .slack else .loaded
      let fails := fun (u t : State) =>
        Told { u with cmu := t.cmu } t ∧ t.cmu.release = .idle ∧ isRaised .releaseFailed (.coupler m) t = true ∧
          t.cmu.round = s.cmu.round ∧
          t.cmu.couplings = s.cmu.couplings.modify j (fun c => { c with state := back, missed := 0, good := 0, failed := true }) ∧
          (s.cmu.recompute = none → t.cmu.recompute ≠ none) ∧ (s.cmu.recompute ≠ none → t.cmu.recomputePending = true)
      (∀ n : Node, n.toNat = m → ∃ t, exec (.releaseDone n 2) s = .next t ∧ fails s t) ∧
      (∃ t, exec .releaseAnswerTimerExpiry s = .next t ∧ fails { s with now := max s.now d } t) ∧
      ∀ n : Node, n.toNat = m → ∃ t, exec (.releaseDone n 1) s = .next t ∧ Told { s with cmu := t.cmu } t ∧
        t.cmu.release = .idle ∧ t.cmu.couplings = s.cmu.couplings.modify j ({ · with state := .released }) ∧
        t.cmu.round = s.cmu.round.map (fun r => { r with rest := r.rest.filter (· != j) }) ∧
        isRaised .releaseFailed (.coupler c.entry.node) t = false ∧
        (s.cmu.recompute = none → t.cmu.recompute ≠ none) ∧ (s.cmu.recompute ≠ none → t.cmu.recomputePending = true)) ∧
    ((∀ st j m d k, s.cmu.release ≠ .releasing st j m d k) → exec .releaseAnswerTimerExpiry s = .next s) ∧
    ∀ (n : Node), (∀ st j d k, s.cmu.release ≠ .releasing st j n.toNat d k) →
      (exec (.releaseDone n 2) s =
        .next { s with cmu := { s.cmu with unsolicitedReport := min 65535 (s.cmu.unsolicitedReport + 1) } }) ∧
      ((∀ c ∈ s.cmu.couplings, c.entry.node = n.toNat → isHolding c.state = false ∨ c.failed = false) →
        exec (.releaseDone n 1) s =
          .next { s with cmu := { s.cmu with unsolicitedReport := min 65535 (s.cmu.unsolicitedReport + 1) } }) ∧
      ∀ (i : Nat) (c : Coupling), s.cmu.couplings[i]? = some c → c.entry.node = n.toNat →
        (∀ (j : Nat) (z : Coupling), j < i → s.cmu.couplings[j]? = some z → z.entry.node ≠ n.toNat) →
        isHolding c.state = true → c.failed = true →
        ∃ t, exec (.releaseDone n 1) s = .next t ∧ Told { s with cmu := t.cmu } t ∧
          t.cmu.couplings = s.cmu.couplings.modify i (fun c => { c with state := .released, failed := false }) ∧
          t.cmu.round = s.cmu.round.map (fun r => { r with rest := r.rest.filter (· != i) }) ∧
          isRaised .releaseFailed (.coupler c.entry.node) t = false ∧
          (s.cmu.recompute = none → t.cmu.recompute ≠ none) ∧ (s.cmu.recompute ≠ none → t.cmu.recomputePending = true)

/-- R97 to R99: METER by its flags and its meter's state. What it books is the matter of `MeterVolumes`; here every
row that books nothing leaves the tanks, the totals and the voyage as they are. A FAULT meter without a baseline, of
which no delta is stated, is left out (log entry 11). That the count of clean reports stays 30 at the return to
RUNNING is the model's choice (log entry 38). -/
def Obligations.MeterReportRows : Prop :=
  ∀ (s : State) (n : Node) (tot : BitVec 32) (temp : BitVec 16) (x : Byte), s.power = .run →
    let mine := fun m : Meter => m.unused = false ∧ m.entry.node = n.toNat
    ((∀ m ∈ s.fau.meters, ¬mine m) → exec (.meter n tot temp x) s =
      .next { s with fau := { s.fau with unknownMeter := min 65535 (s.fau.unknownMeter + 1) } }) ∧
    (∀ f : Frame, f.kind ≠ 1 ∨ f.payload.length ≠ 7 → exec (.malformedMeter f) s =
      .next { s with fau := { s.fau with malformedMeter := min 65535 (s.fau.malformedMeter + 1) } }) ∧
    ∀ (i : Nat) (m : Meter), s.fau.meters[i]? = some m → mine m →
      (∀ (j : Nat) (z : Meter), j < i → s.fau.meters[j]? = some z → ¬mine z) →
      let r := { m with baseline := some tot.toNat, lastReport := some s.now, silence := some (s.now + 5000 * Config.usPerMs) }
      let fault := { r with state := .fault, clean := 0, jumps := [] }
      let most := match s.fau.table with | none => 20000 | some t => max 1 (min t.jMax 1000000)
      let becomes := fun (z : Meter) (jumps : Nat) (t : State) =>
        t.fau.meters = s.fau.meters.set i z ∧ t.fau.jump = jumps ∧ t.fau.tanks = s.fau.tanks ∧
          t.fau.voyage = s.fau.voyage ∧ (∀ e : Fin 4, t.fau.accounts[e] =
            if isMetered s.fau.meters e = true ∧ isMetered t.fau.meters e = false
            then { s.fau.accounts[e] with pendingSupply := 0, pendingReturn := 0, void := true } else s.fau.accounts[e]) ∧
          Told { s with fau := t.fau } t
      ∃ t, exec (.meter n tot temp x) s = .next t ∧
        (x.getLsbD 0 = true → m.state = .fault → becomes { r with clean := 0 } s.fau.jump t) ∧
        (x.getLsbD 0 = true → m.state ≠ .fault →
          becomes fault s.fau.jump t ∧ isRaised .meterFault (.meter m.entry.node) t = true) ∧
        (x.getLsbD 0 = false → x.getLsbD 1 = true → m.state ≠ .unseen → becomes r s.fau.jump t) ∧
        (x.getLsbD 0 = false → m.state = .unseen → becomes { r with state := .running } s.fau.jump t) ∧
        ∀ b, x.getLsbD 0 = false → x.getLsbD 1 = false → m.state ≠ .unseen → m.baseline = some b →
          let delta := (tot.toNat + 4294967296 - b) % 4294967296
          let jumps := min 65535 (s.fau.jump + 1)
          (most < delta → m.state = .running → m.jumps.length < 2 →
            becomes { r with jumps := m.jumps ++ [s.now] } jumps t) ∧
          (most < delta → m.state = .running → 2 ≤ m.jumps.length →
            becomes fault jumps t ∧ isRaised .meterFault (.meter m.entry.node) t = true) ∧
          (most < delta → m.state = .fault → becomes { r with clean := 0 } jumps t) ∧
          (delta ≤ most → m.state = .fault → m.clean < 29 → becomes { r with clean := m.clean + 1 } s.fau.jump t) ∧
          (delta ≤ most → m.state = .fault → 29 ≤ m.clean →
            becomes { r with state := .running, clean := 30 } s.fau.jump t ∧
            isRaised .meterFault (.meter m.entry.node) t = false)

/-- R99, R100, R102 to R106, R115: the volume of an accepted delta of a RUNNING meter, corrected to 15 degrees. A
SUPPLY report of a METERED engine books S = pending supply − pending return + carry; a RETURN report gathers; a
TRANSFER moves between tanks; in ESTIMATE the volume is discarded. Every account stays within its 48-bit limits.
R36, R109: the caps follow the states of the tanks, and a cap lowers a slot in gear at once (`CapsFollow`). -/
def Obligations.MeterVolumes : Prop :=
  ∀ (s : State) (n : Node) (tot : BitVec 32) (temp : BitVec 16) (x : Byte) (i : Nat) (m : Meter) (b : Nat), s.power = .run →
    let mine := fun m : Meter => m.unused = false ∧ m.entry.node = n.toNat
    let most := match s.fau.table with | none => 20000 | some t => max 1 (min t.jMax 1000000)
    let delta := (tot.toNat + 4294967296 - b) % 4294967296
    s.fau.meters[i]? = some m → mine m → (∀ (j : Nat) (z : Meter), j < i → s.fau.meters[j]? = some z → ¬mine z) →
    x.getLsbD 0 = false → x.getLsbD 1 = false → m.state = .running → m.baseline = some b → delta ≤ most →
    let scaled : Int := delta * (1000000 - 84 * (max (-200) (min temp.toInt 900) - 150))
    let within := fun v : Int => max (-140737488355328) (min v 140737488355327)
    let r := { m with baseline := some tot.toNat, lastReport := some s.now, silence := some (s.now + 5000 * Config.usPerMs) }
    ∃ t, exec (.meter n tot temp x) s = .next t ∧
      Told { s with fau := t.fau, piu := { s.piu with engines := t.piu.engines } } t ∧
      t.fau.temperatureClamp = (if temp.toInt < -200 ∨ 900 < temp.toInt then min 65535 (s.fau.temperatureClamp + 1)
        else s.fau.temperatureClamp) ∧
      t.fau.voyage = s.fau.voyage ∧ t.fau.jump = s.fau.jump ∧
      (∀ e, m.entry.role = .ret e ∨ (m.entry.role = .supply e ∧ isMetered s.fau.meters e = false) → t.piu = s.piu) ∧
      (∀ e, m.entry.role = .supply e ∨ m.entry.role = .ret e →
        t.fau.meters = s.fau.meters.set i r ∧ ∀ f : Fin 4, f ≠ e → t.fau.accounts[f] = s.fau.accounts[f]) ∧
      (∀ e, m.entry.role = .supply e ∨ m.entry.role = .ret e → isMetered s.fau.meters e = false →
        t.fau.accounts = s.fau.accounts ∧ t.fau.tanks = s.fau.tanks) ∧
      (∀ e, m.entry.role = .ret e → isMetered s.fau.meters e = true →
        t.fau.tanks = s.fau.tanks ∧ t.fau.accounts[e] =
          { s.fau.accounts[e] with pendingReturn := s.fau.accounts[e].pendingReturn + scaled }) ∧
      (∀ e, m.entry.role = .supply e → isMetered s.fau.meters e = true →
        let a := s.fau.accounts[e]
        let net := a.pendingSupply + scaled - a.pendingReturn + a.carry
        let l := s.fau.lineup[e]
        (0 ≤ net →
          t.fau.accounts[e] = { a with pendingSupply := 0, pendingReturn := 0, carry := net % 1000000,
                                       total := within (a.total + net / 1000000), metered := a.metered + net / 1000000 } ∧
          t.fau.tanks[l].balance = within (s.fau.tanks[l].balance - net / 1000000) ∧
          (∀ k : Fin 8, k ≠ l → t.fau.tanks[k] = s.fau.tanks[k]) ∧
          CapsFollow false s t ∧
          (within (a.total + net / 1000000) ≠ a.total + net / 1000000 → t.fau.sat = true)) ∧
        (net < 0 →
          t.fau.accounts[e] = { a with pendingSupply := 0, pendingReturn := 0, carry := max net (-(most * 1000000 : Int)) } ∧
          t.fau.tanks = s.fau.tanks ∧ t.piu = s.piu ∧
          t.fau.carryBound = if net < -(most * 1000000 : Int) then min 65535 (s.fau.carryBound + 1) else s.fau.carryBound)) ∧
      ∀ a d, m.entry.role = .transfer a d →
        let sum := scaled + m.carry
        t.fau.meters = s.fau.meters.set i { r with carry := (sum % 1000000).toNat } ∧ t.fau.accounts = s.fau.accounts ∧
        (a = d → t.fau.tanks = s.fau.tanks ∧ t.piu = s.piu) ∧
        (a ≠ d → CapsFollow false s t ∧ t.fau.tanks[a].balance = within (s.fau.tanks[a].balance - sum / 1000000) ∧
          t.fau.tanks[d].balance = within (s.fau.tanks[d].balance + sum / 1000000) ∧
          ∀ k : Fin 8, k ≠ a → k ≠ d → t.fau.tanks[k] = s.fau.tanks[k])

/-- R98, R99, R107, R114, R124, R126, R127: the expiries of the accounting unit's timers. A silent meter becomes
FAULT; a jump leaves its list after 10 minutes; the 60 s window ends for each engine; the 60 s checkpoint request is
dealt with by the state of the store. -/
def Obligations.FuelTimersExpire : Prop :=
  ∀ s : State, s.power = .run →
    (∀ (k : Fin 12) (m : Meter) (d : Nat), s.fau.meters[k.val]? = some m → m.silence = some d →
      let later := max s.now d
      (m.state = .fault → exec (.meterSilenceTimerExpiry k) s = .next { s with
        now := later, fau := { s.fau with meters := s.fau.meters.set k.val { m with silence := none, clean := 0 } } }) ∧
      (m.state ≠ .fault → ∃ t, exec (.meterSilenceTimerExpiry k) s = .next t ∧
        isRaised .meterFault (.meter m.entry.node) t = true ∧ Told { s with now := later, fau := t.fau } t ∧
        t.fau.meters = s.fau.meters.set k.val { m with silence := none, state := .fault, clean := 0, jumps := [] } ∧
        t.fau.tanks = s.fau.tanks ∧ ∀ e : Fin 4, t.fau.accounts[e] =
          if isMetered s.fau.meters e = true ∧ isMetered t.fau.meters e = false
          then { s.fau.accounts[e] with pendingSupply := 0, pendingReturn := 0, void := true } else s.fau.accounts[e])) ∧
    (∀ (k : Fin 12) (m : Meter) (d : Nat) (rest : List Nat), s.fau.meters[k.val]? = some m → m.jumps = d :: rest →
      exec (.jumpListAgeOut k) s = .next { s with
        now := max s.now (d + 600000 * Config.usPerMs),
        fau := { s.fau with meters := s.fau.meters.set k.val { m with jumps := rest } } }) ∧
    (∀ d, s.fau.windowTimer = some d →
      ∃ t, exec .fuelWindowTimerExpiry s = .next t ∧
        Told { s with now := max s.now d, fau := { s.fau with
          windowTimer := some (max s.now d + 60000 * Config.usPerMs), accounts := t.fau.accounts } } t ∧
        ∀ e : Fin 4,
          let a := s.fau.accounts[e]
          let off := (a.metered - a.estimated).natAbs
          let apart := 2000 < off ∧ 15 * a.metered < 100 * (off : Int)
          let count := if a.void = true ∨ ¬apart then 0 else min 3 (a.disagree + 1)
          t.fau.accounts[e] = { a with disagree := count, metered := 0, estimated := 0, void := !isMetered s.fau.meters e } ∧
          isRaised .fuelDisagree (.engine ⟨e.val, by omega⟩) t =
            (if a.void = true then isRaised .fuelDisagree (.engine ⟨e.val, by omega⟩) s
             else if ¬apart then false
             else isRaised .fuelDisagree (.engine ⟨e.val, by omega⟩) s || decide (count = 3))) ∧
    ∀ d, s.fau.checkpointTimer = some d →
      let later := max s.now d
      let u : State := { s with now := later, fau := { s.fau with checkpointTimer := some (later + 60000 * Config.usPerMs) } }
      let p : Snapshot := { number := s.fau.voyage.number, isOpen := s.fau.voyage.isOpen, opening := s.fau.voyage.opening,
                            bunkered := s.fau.voyage.bunkered, balances := s.fau.tanks.map (·.balance),
                            totals := s.fau.accounts.map (·.total), lineup := s.fau.lineup, sat := s.fau.sat, closing := false }
      let slot : Fin 8 := match s.nvs.newest with | none => 0 | some x => x.slot + 1
      let last : Nat := match s.nvs.newest with | none => 0 | some x => x.seq
      let c : Checkpoint := { snapshot := p, owed := false, slot := slot, seq := last + 1, failures := 0 }
      let erase : RunningOp := { op := .slotErase, deadline := later + 60 * Config.usPerMs }
      (∀ w, s.nvs.waiting = some w → exec .checkpointTimerExpiry s = .next { u with nvs := { s.nvs with
        replacedSnapshot := min 65535 (s.nvs.replacedSnapshot + 1),
        waiting := some { snapshot := { p with closing := w.snapshot.closing && !s.fau.voyage.isOpen }, owed := w.owed } } }) ∧
      (s.nvs.waiting = none → s.nvs.current = none → last ≠ 4294967294 →
        exec .checkpointTimerExpiry s = .next { u with nvs := { s.nvs with checkpoint := some c, current := some erase } }) ∧
      (s.nvs.waiting = none → s.nvs.current = none → last = 4294967294 →
        exec .checkpointTimerExpiry s = .next (raiseAlarm .storeFail (.slot slot) u)) ∧
      (∀ b e, s.nvs.waiting = none → s.nvs.current = some ⟨.bankErase b, e⟩ → last ≠ 4294967294 →
        exec .checkpointTimerExpiry s = .next { u with nvs := { s.nvs with
          checkpoint := some c, current := some erase, suspended := some { bank := b, remaining := e - later },
          eraseSuspend := min 65535 (s.nvs.eraseSuspend + 1) } }) ∧
      (∀ o, s.nvs.waiting = none → s.nvs.current = some o → (∀ b, o.op ≠ .bankErase b) →
        exec .checkpointTimerExpiry s = .next { u with nvs := { s.nvs with waiting := some { snapshot := p, owed := false } } })

/-- R108 to R115, R124, R198: the account requests. SET-LINEUP, BUNKER, the parts of VOYAGE-OPEN and VOYAGE-CLOSE,
each with its refusals. BUNKER, a voyage that opens and one that closes each ask for a checkpoint with the accounts
as they then stand: it starts, suspends a running bank erase, waits, or replaces the one that waits. R36, R109: the
caps follow at once (`CapsFollow`). A request that is taken is answered OK, and a VOYAGE-CLOSE at the end of its
checkpoint (the statement CheckpointSlots). A BUNKER that meets a 48-bit limit leaves the quantity at the limit,
sets SAT and raises FUEL-SAT. A checkpoint asked for at the highest sequence number during a bank erase counts a
suspend and ends unwritten at once, and the erase runs on (the model's reading, log entry 40). That the OK goes behind
the ALARM frames that the request hands is the model's choice (log entry 84). (A part above 8 is BAD-ARGUMENT by the
model's reading, log entry 32.) -/
def Obligations.AccountRequests : Prop :=
  ∀ (s : State) (n : Node), s.power = .run → s.mgu.resetting = false →
    let drop : State := { s with mgu := { s.mgu with assembly := none } }
    let capIs := fun (t : State) => ∀ e : Fin 4, t.piu.engines[(⟨e.val, by omega⟩ : Fin 6)].cap =
      if t.fau.tanks[t.fau.lineup[e]].state = .normal then none
      else some (match s.fau.table with | none => 700 | some x => max 0 (min x.cR 1000))
    let lim := fun v : Int => max (-140737488355328) (min 140737488355327 v)
    let asked := fun (t : State) (owed closing : Bool) =>
      let v := t.fau.voyage
      let p : Snapshot := { number := v.number, isOpen := v.isOpen, opening := v.opening, bunkered := v.bunkered,
                            balances := t.fau.tanks.map (·.balance), totals := t.fau.accounts.map (·.total),
                            lineup := t.fau.lineup, sat := t.fau.sat, closing := closing }
      let slot : Fin 8 := match s.nvs.newest with | none => 0 | some x => x.slot + 1
      let last : Nat := match s.nvs.newest with | none => 0 | some x => x.seq
      let c : Checkpoint := { snapshot := p, owed := owed, slot := slot, seq := last + 1, failures := 0 }
      let erase : RunningOp := { op := .slotErase, deadline := s.now + 60000 }
      let away := min 65535 (s.nvs.eraseSuspend + 1)
      (∀ w, s.nvs.waiting = some w → t.nvs = { s.nvs with
        replacedSnapshot := min 65535 (s.nvs.replacedSnapshot + 1),
        waiting := some { snapshot := { p with closing := (closing || w.snapshot.closing) && !v.isOpen },
                          owed := w.owed || owed } }) ∧
      (s.nvs.waiting = none → s.nvs.current = none → last ≠ 4294967294 →
        t.nvs = { s.nvs with checkpoint := some c, current := some erase }) ∧
      (s.nvs.waiting = none → s.nvs.current = none → last = 4294967294 →
        t.nvs = s.nvs ∧ isRaised .storeFail (.slot slot) t = true) ∧
      (∀ b d, s.nvs.waiting = none → s.nvs.current = some ⟨.bankErase b, d⟩ → last ≠ 4294967294 →
        t.nvs = { s.nvs with
          checkpoint := some c, current := some erase, suspended := some { bank := b, remaining := d - s.now },
          eraseSuspend := away }) ∧
      (∀ b d, s.nvs.waiting = none → s.nvs.current = some ⟨.bankErase b, d⟩ → last = 4294967294 →
        isRaised .storeFail (.slot slot) t = true ∧ t.nvs = { s.nvs with
          current := some ⟨.bankErase b, s.now + (d - s.now)⟩, suspended := none, eraseSuspend := away }) ∧
      (∀ o, s.nvs.waiting = none → s.nvs.current = some o → (∀ b, o.op ≠ .bankErase b) →
        t.nvs = { s.nvs with waiting := some { snapshot := p, owed := owed } })
    (∀ e k : Byte, e.toNat < 1 ∨ 4 < e.toNat ∨ 8 ≤ k.toNat →
      exec (.setLineup n e k) s = .next (respond n 18 .badArgument [] s)) ∧
    (∀ (e k : Byte) (i : Fin 4) (j : Fin 8), e.toNat = i.val + 1 → k.toNat = j.val →
      ∃ t, exec (.setLineup n e k) s = .next t ∧ capIs t ∧
        (let w : Fin 6 := ⟨i.val, by omega⟩
         CapsFollow false { s with piu := { s.piu with engines := updAt s.piu.engines w ({ · with lineup := j }) } } t) ∧
        (∃ u, t = respond n 18 .ok [] u ∧
          Told { s with fau := { s.fau with lineup := s.fau.lineup.set i j },
                        piu := { s.piu with engines := t.piu.engines } } u) ∧ t.piu.engines[(⟨i.val, by omega⟩ : Fin 6)].lineup = j ∧
        Told { s with fau := { s.fau with lineup := s.fau.lineup.set i j },
                      piu := { s.piu with engines := t.piu.engines } } t) ∧
    (∀ (k : Byte) (v : BitVec 32), 8 ≤ k.toNat ∨ v = 0 →
      exec (.bunker n k v) s = .next (respond n 17 .badArgument [] s)) ∧
    (∀ (k : Byte) (j : Fin 8) (v : BitVec 32), k.toNat = j.val → v ≠ 0 →
      let b := lim (s.fau.tanks[j].balance + (v.toNat : Int))
      let w := lim (s.fau.voyage.bunkered + (v.toNat : Int))
      let beyond := decide (b ≠ s.fau.tanks[j].balance + (v.toNat : Int) ∨ w ≠ s.fau.voyage.bunkered + (v.toNat : Int))
      ∃ t, exec (.bunker n k v) s = .next t ∧ capIs t ∧ CapsFollow false s t ∧
        (∃ u, t = respond n 17 .ok [] u ∧ Told { s with
          fau := t.fau, piu := { s.piu with engines := t.piu.engines }, nvs := t.nvs } u) ∧ asked t false false ∧ t.fau.tanks[j].balance = b ∧
        isRaised .fuelSat .none t = (isRaised .fuelSat .none s || beyond) ∧
        (tankEntry s j = none → t.fau.tanks[j].state = .normal ∧ t.fau.tanks[j].overfull = false) ∧
        (∀ x, tankEntry s j = some x →
          t.fau.tanks[j].overfull = decide ((x.capacity : Int) < b) ∧
          t.fau.tanks[j].state = (if b ≤ 0 then .empty else if b ≤ x.reserve then .reserve
            else if (x.reserve : Int) + x.hysteresis < b then .normal
            else if s.fau.tanks[j].state = .empty then .reserve else s.fau.tanks[j].state) ∧
          isRaised .tankReserve (.tank j) t = decide (t.fau.tanks[j].state ≠ .normal) ∧
          isRaised .tankEmpty (.tank j) t = decide (t.fau.tanks[j].state = .empty) ∧
          isRaised .tankOverfull (.tank j) t = t.fau.tanks[j].overfull) ∧
        Told { s with
          fau := { s.fau with
            tanks := s.fau.tanks.set j t.fau.tanks[j], voyage := { s.fau.voyage with bunkered := w }, sat := s.fau.sat || beyond },
          piu := { s.piu with engines := t.piu.engines }, nvs := t.nvs } t) ∧
    (∀ v : BitVec 32, s.fau.voyage.isOpen = true →
      exec (.voyageOpen n 0 v) s = .next (respond n 15 .refusedState [] s)) ∧
    (∀ v : BitVec 32, s.fau.voyage.isOpen = false →
      exec (.voyageOpen n 0 v) s = .next (respond n 15 .ok []
        { s with mgu := { s.mgu with assembly := some { number := v.toNat % 65536, soundings := [] } } })) ∧
    (∀ (k : Byte) (v : BitVec 32), 8 < k.toNat → exec (.voyageOpen n k v) s = .next (respond n 15 .badArgument [] s)) ∧
    (∀ (k : Byte) (v : BitVec 32), 1 ≤ k.toNat → k.toNat ≤ 8 →
      (∀ x, s.mgu.assembly = some x → x.soundings.length + 1 ≠ k.toNat) →
      exec (.voyageOpen n k v) s = .next (respond n 15 .sequence [] drop)) ∧
    (∀ (k : Byte) (v : BitVec 32) (x : Assembly), s.mgu.assembly = some x → k.toNat = x.soundings.length + 1 →
      (k.toNat < 8 → exec (.voyageOpen n k v) s = .next (respond n 15 .ok []
        { s with mgu := { s.mgu with assembly := some { x with soundings := x.soundings ++ [v.toNat] } } })) ∧
      (k = 8 → s.fau.voyage.isOpen = true → exec (.voyageOpen n k v) s = .next (respond n 15 .refusedState [] drop)) ∧
      (k = 8 → s.fau.voyage.isOpen = false →
        ∃ t, exec (.voyageOpen n k v) s = .next t ∧ capIs t ∧ CapsFollow false s t ∧
          (∃ u, t = respond n 15 .ok [] u ∧ Told { drop with
            fau := t.fau, piu := { s.piu with engines := t.piu.engines }, nvs := t.nvs } u) ∧ t.mgu.assembly = none ∧ asked t false false ∧
          t.fau = { s.fau with tanks := t.fau.tanks, accounts := t.fau.accounts, voyage := t.fau.voyage, sat := t.fau.sat } ∧
          (∀ i : Fin 8, t.fau.tanks[i].balance = ((x.soundings ++ [v.toNat]).getD i.val 0 : Nat)) ∧
          t.fau.voyage = { number := x.number, isOpen := true, opening := ((x.soundings ++ [v.toNat]).sum : Nat),
                           bunkered := 0 } ∧
          t.fau.sat = false ∧ isRaised .fuelSat .none t = false ∧ (∀ j, isRaised .accountGap j t = false) ∧
          ∀ e : Fin 4, t.fau.accounts[e] = { s.fau.accounts[e] with total := 0 })) ∧
    (s.mgu.slot ≠ none → exec (.voyageClose n) s = .next (respond n 16 .busy [] s)) ∧
    (s.mgu.slot = none → s.fau.voyage.isOpen = false →
      exec (.voyageClose n) s = .next (respond n 16 .refusedState [] s)) ∧
    (s.mgu.slot = none → s.fau.voyage.isOpen = true →
      ∃ t, exec (.voyageClose n) s = .next t ∧ asked t true true ∧
        t.fau = { s.fau with voyage := { s.fau.voyage with isOpen := false } } ∧
        (∀ o, s.nvs.waiting = none → s.nvs.current = some o → (∀ b, o.op ≠ .bankErase b) →
          t.mgu.slot = some { node := n, op := .voyageClose } ∧
          t.nvs.waiting = some { snapshot := snapshotOf t.fau true, owed := true }) ∧
        (s.nvs.waiting = none → s.nvs.current = none →
          ((s.nvs.newest.elim 0 (·.seq)) ≠ 4294967294 → t.mgu.slot = some { node := n, op := .voyageClose } ∧
            ∃ c, t.nvs.checkpoint = some c ∧ c.owed = true ∧ c.snapshot = snapshotOf t.fau true) ∧
          ((s.nvs.newest.elim 0 (·.seq)) = 4294967294 → t.mgu.slot = none ∧ t.nvs.checkpoint = s.nvs.checkpoint)))

/-- R114, R127, R129, section 7.5: a slot that holds the record of a snapshot is valid, and gives back its sequence
and every field of the snapshot, for every value the record admits. -/
def Obligations.CheckpointRecordRoundTrip : Prop :=
  ∀ (p : Snapshot) (seq : Nat), seq ≤ 4294967294 → p.number < 65536 →
    let fits := fun v : Int => -140737488355328 ≤ v ∧ v ≤ 140737488355327
    fits p.opening → fits p.bunkered → (∀ i : Fin 8, fits p.balances[i]) → (∀ e : Fin 4, fits p.totals[e]) →
    let x : Slot := { cells := slotCells p seq, torn := false }
    slotValid x = true ∧ slotSeq x = seq ∧ slotSnapshot x = p

/-- R122, R123, R190 to R195, section 7.2: the long requests on banks, each check in its order. An operation handed
to the store starts at once when the store is free and waits otherwise, and it lasts the time of section 7.2. From
its start an erase has taken the mark word, and a bank is locked from the start of its LOCK-PROGRAM. That the whole
header reads 255 from the start of the erase is the model's reading (log entry 12), and that the bank is marked torn
from then on until the erase ends well is the model's choice (log entry 48). -/
def Obligations.BankRequests : Prop :=
  ∀ (s : State) (n : Node) (k b : Byte), s.power = .run → s.mgu.resetting = false →
    let handed := fun (op : StoreOp) (time : Nat) (u : State) => match s.nvs.current with
      | some _ => { u with nvs := { s.nvs with waitingOp := some op } }
      | none => { u with nvs := { u.nvs with current := some { op := op, deadline := s.now + time * Config.usPerMs } } }
    let slotted := fun (op : LongOp) => { s with mgu := { s.mgu with slot := some { node := n, op := op } } }
    (s.mgu.slot ≠ none → ∀ (v q : BitVec 16) (l : List Byte) (z : BitVec 32), l.length = 6 →
      exec (.bankErase n k b) s = .next (respond n 7 .busy [] s) ∧
      exec (.bankBlankCheck n k b) s = .next (respond n 8 .busy [] s) ∧
      exec (.loadBegin n k b v) s = .next (respond n 9 .busy [] s) ∧
      exec (.loadData n q l) s = .next (respond n 10 .busy [] s) ∧ exec (.loadEnd n z) s = .next (respond n 11 .busy [] s) ∧
      exec (.bankCommit n k) s = .next (respond n 12 .busy [] s) ∧ exec (.bankLock n k b) s = .next (respond n 13 .busy [] s) ∧
      exec (.bankUnlock n k b) s = .next (respond n 14 .busy [] s)) ∧
    (s.mgu.slot = none → bankOf k b = none → ∀ v : BitVec 16,
      exec (.bankErase n k b) s = .next (respond n 7 .badArgument [] s) ∧
      exec (.bankBlankCheck n k b) s = .next (respond n 8 .badArgument [] s) ∧
      exec (.loadBegin n k b v) s = .next (respond n 9 .badArgument [] s) ∧
      exec (.bankLock n k b) s = .next (respond n 13 .badArgument [] s) ∧
      exec (.bankUnlock n k b) s = .next (respond n 14 .badArgument [] s)) ∧
    (s.mgu.slot = none → ∀ x : BankId, bankOf k b = some x →
      let active := s.nvs.active[kindIx x.kind] = some x.isB
      let loading := ∃ c, s.mgu.load = some c ∧ c.bank = x
      let locked := s.nvs.locked[bankIx x] = true
      (active ∨ loading → exec (.bankErase n k b) s = .next (respond n 7 .refusedState [] s)) ∧
      (¬active → ¬loading → locked → exec (.bankErase n k b) s = .next (respond n 7 .locked [] s)) ∧
      (¬active → ¬loading → ¬locked →
        (s.nvs.current ≠ none →
          exec (.bankErase n k b) s = .next (handed (.bankErase x) 400 (slotted (.erase x)))) ∧
        (s.nvs.current = none → ∃ cells : Memory,
          (∀ a, memRead cells a = if a < 32 then 255 else memRead s.nvs.banks[bankIx x].cells a) ∧
          exec (.bankErase n k b) s = .next (handed (.bankErase x) 400
            { slotted (.erase x) with nvs := { s.nvs with
              banks := s.nvs.banks.set (bankIx x) { cells := cells, torn := true, markTorn := false } } }))) ∧
      (loading → exec (.bankBlankCheck n k b) s = .next (respond n 8 .refusedState [] s)) ∧
      (¬loading → exec (.bankBlankCheck n k b) s = .next (handed (.blankCheck x) 20 (slotted (.blankCheck x)))) ∧
      (∀ v : BitVec 16,
        (4064 < v.toNat → exec (.loadBegin n k b v) s = .next (respond n 9 .badArgument [] s)) ∧
        (v.toNat ≤ 4064 → s.mgu.load ≠ none → exec (.loadBegin n k b v) s = .next (respond n 9 .busy [] s)) ∧
        (v.toNat ≤ 4064 → s.mgu.load = none → active →
          exec (.loadBegin n k b v) s = .next (respond n 9 .refusedState [] s)) ∧
        (v.toNat ≤ 4064 → s.mgu.load = none → ¬active → locked →
          exec (.loadBegin n k b v) s = .next (respond n 9 .locked [] s)) ∧
        (v.toNat ≤ 4064 → s.mgu.load = none → ¬active → ¬locked →
          exec (.loadBegin n k b v) s = .next (handed (.blankCheck x) 20 (slotted (.loadBegin x v.toNat))))) ∧
      (locked → exec (.bankLock n k b) s = .next (respond n 13 .ok [] s)) ∧
      (¬locked → exec (.bankLock n k b) s = .next (match s.nvs.current with
        | some _ => handed (.lockProgram x) 10 (slotted (.lock x))
        | none => handed (.lockProgram x) 10
            { slotted (.lock x) with nvs := { s.nvs with locked := s.nvs.locked.set (bankIx x) true } })) ∧
      (active ∨ s.fau.voyage.isOpen = true → exec (.bankUnlock n k b) s = .next (respond n 14 .refusedState [] s)) ∧
      (¬active → s.fau.voyage.isOpen = false → ¬locked → exec (.bankUnlock n k b) s = .next (respond n 14 .ok [] s)) ∧
      (¬active → s.fau.voyage.isOpen = false → locked →
        exec (.bankUnlock n k b) s = .next (handed (.lockErase x) 60 (slotted (.unlock x))))) ∧
    (s.mgu.slot = none → kindOf k = none → exec (.bankCommit n k) s = .next (respond n 12 .badArgument [] s)) ∧
    ∀ x : Kind, s.mgu.slot = none → kindOf k = some x →
      let loads := ∃ c, s.mgu.load = some c ∧ c.bank.kind = x
      let standby := standbyBank s x
      (loads ∨ markErased s.nvs.banks[bankIx standby] = false ∨ 4294967294 ≤ activeCommit s x →
        exec (.bankCommit n k) s = .next (respond n 12 .refusedState [] s)) ∧
      (¬loads → markErased s.nvs.banks[bankIx standby] = true → activeCommit s x < 4294967294 →
        exec (.bankCommit n k) s = .next (handed (.commitCheck standby) 20 (slotted (.commit x))))

/-- R193: LOAD-DATA, LOAD-END and the load idle timer. An aborted context is gone, and its bank keeps its bytes and is
not blank, so that a BLANK-CHECK of it that ends answers NOT-BLANK and a LOAD-BEGIN opens no context. That it is so too
where every byte of the bank reads 255, which R122 calls blank, is the model's choice (log entry 91). -/
def Obligations.LoadRequests : Prop :=
  ∀ (s : State) (n : Node), s.power = .run → s.mgu.resetting = false → s.mgu.slot = none →
    let handed := fun (op : StoreOp) (time : Nat) (u : State) => match s.nvs.current with
      | some _ => { u with nvs := { s.nvs with waitingOp := some op } }
      | none => { u with nvs := { s.nvs with current := some { op := op, deadline := s.now + time * Config.usPerMs } } }
    let slotted := fun (op : LongOp) =>
      { s with mgu := { s.mgu with slot := some { node := n, op := op }, loadIdle := none } }
    let aborted : State := { s with
      nvs := { s.nvs with
        banks := s.mgu.load.elim s.nvs.banks fun c => updAt s.nvs.banks (bankIx c.bank) ({ · with torn := true }) },
      mgu := { s.mgu with load := none, loadIdle := none } }
    (∀ (q : BitVec 16) (l : List Byte), l.length = 6 →
      (s.mgu.load = none → exec (.loadData n q l) s = .next (respond n 10 .sequence [] s)) ∧
      ∀ c, s.mgu.load = some c →
        (c.node ≠ n → exec (.loadData n q l) s = .next (respond n 10 .busy [] s)) ∧
        (c.node = n → q.toNat ≠ c.next ∨ (c.count + 5) / 6 ≤ c.next →
          exec (.loadData n q l) s = .next (respond n 10 .sequence [] aborted)) ∧
        (c.node = n → q.toNat = c.next → c.next < (c.count + 5) / 6 →
          let bytes := l.take (c.count - 6 * q.toNat)
          exec (.loadData n q l) s =
            .next (handed (.loadProgram c.bank (6 * q.toNat) bytes) 1 (slotted (.loadData bytes))))) ∧
    (∀ (x : BitVec 32),
      (s.mgu.load = none → exec (.loadEnd n x) s = .next (respond n 11 .sequence [] s)) ∧
      ∀ c, s.mgu.load = some c →
        (c.node ≠ n → exec (.loadEnd n x) s = .next (respond n 11 .busy [] s)) ∧
        (c.node = n → c.next < (c.count + 5) / 6 → exec (.loadEnd n x) s = .next (respond n 11 .sequence [] aborted)) ∧
        (c.node = n → (c.count + 5) / 6 ≤ c.next → x ≠ ~~~c.crc →
          exec (.loadEnd n x) s = .next (respond n 11 .checkFailed [] aborted)) ∧
        (c.node = n → (c.count + 5) / 6 ≤ c.next → x = ~~~c.crc →
          exec (.loadEnd n x) s = .next (handed (.headerFields c.bank c.count x) 5 (slotted .loadEnd)))) ∧
    (∀ d, s.mgu.loadIdle = some d → exec .loadIdleTimerExpiry s = .next { aborted with now := max s.now d }) ∧
    ∀ (c : LoadCtx) (v : State) (r : LongOp) (d : Nat), s.mgu.load = some c → v.power = .run → v.nvs.suspended = none →
      v.nvs.waiting = none → v.nvs.waitingOp = none → v.nvs.banks[bankIx c.bank] = aborted.nvs.banks[bankIx c.bank] →
      v.nvs.current = some ⟨.blankCheck c.bank, d⟩ → v.mgu.slot = some { node := n, op := r } →
      r = .blankCheck c.bank ∨ (∃ k, r = .loadBegin c.bank k) →
      exec .blankCheckEnd v = .next (respond n (if r = .blankCheck c.bank then 8 else 9) .notBlank []
        { v with now := max v.now d, nvs := { v.nvs with current := none }, mgu := { v.mgu with slot := none } })

/-- R117, R121, R122, R125, R187, R188, R191 to R195: the end of each of the management unit's operations: what the
area then holds (programming only turns erased bits to written ones; an operation that failed has done a free part
of its work, log entry 12, and leaves the area marked, the model's choice, log entry 48), and the answer. Whether
the cells took it is the operand ok, the model's choice (log entry 50). A commit's check refuses a wrong kind,
length or CRC and a body that fails a field check of its kind. A checkpoint that waits starts; that it starts before
the mark word that follows a passed check is the model's reading (log entry 33). A commit of WINDOW with the switch
free, or of FUELMAP, is answered OK with its commit number after its swap. At a FUELMAP swap a meter whose entry
stays is kept, another starts UNSEEN, a dropped one clears its METER-FAULT, an engine that leaves METERED loses its
pendings, every tank is evaluated anew with its alarms, and the lineup and the caps are written. That a failed erase
too drops the standby choice is the model's choice (log entry 41). That a FUELMAP swap writes every cap, also one
that is the value last written, is the model's reading (log entry 79), as is that a meter it keeps keeps its last
report time (log entry 74); that the response goes behind the ALARM frames of the swap is the model's choice (log entry
84), and that the flag of a LOCK-PROGRAM that
fails is left partly written its choice (log entry 80), as are the bytes of a FUELMAP that the check of its tank indices
leaves out (log entry 90), and so is the mark that an aborted context leaves on its bank (log entry 91). -/
def Obligations.StoreOperationsEnd : Prop :=
  ∀ (s : State) (b : BankId) (d : Nat), s.power = .run → s.nvs.suspended = none → s.nvs.waitingOp = none →
    (∀ w, s.nvs.waiting = some w → s.nvs.newest.elim 0 (·.seq) < 4294967294) → s.nvs.Canonical →
    let later := max s.now d
    let bank := s.nvs.banks[bankIx b]
    let runs := fun op : StoreOp => s.nvs.current = some ⟨op, d⟩
    let given := fun u : State => match s.nvs.waiting with
      | none => u
      | some w => { u with nvs := { u.nvs with
          waiting := none, current := some ⟨.slotErase, later + 60 * Config.usPerMs⟩,
          checkpoint := some { snapshot := w.snapshot, owed := w.owed, slot := s.nvs.newest.elim 0 (·.slot + 1),
                               seq := s.nvs.newest.elim 0 (·.seq) + 1, failures := 0 } } }
    let left := fun (x : Bank) => given
      { s with now := later, nvs := { s.nvs with current := none, banks := s.nvs.banks.set (bankIx b) x } }
    let failed := fun (x : Bank) =>
      let u := left x
      { u with
        nvs := { u.nvs with
          banks := s.mgu.load.elim u.nvs.banks fun c => updAt u.nvs.banks (bankIx c.bank) ({ · with torn := true }) },
        mgu := { s.mgu with load := none, loadIdle := none } }
    let four := fun v : Nat => [BitVec.ofNat 8 (v / 16777216), BitVec.ofNat 8 (v / 65536), BitVec.ofNat 8 (v / 256),
      (BitVec.ofNat 8 v : Byte)]
    let overlaid := fun (cells : Memory) (at' : Nat) (l : List Byte) => ∀ a, memRead cells a =
      if at' ≤ a ∧ a < at' + l.length then memRead bank.cells a &&& l.getD (a - at') 0 else memRead bank.cells a
    let takes := fun (at' : Nat) (l : List Byte) => ∀ i, i < l.length →
      memRead bank.cells (at' + i) &&& l.getD i 0 = l.getD i 0
    let flagged := fun (f : LockFlag) (locked : Bool) => given { s with now := later, nvs := { s.nvs with
      current := none, flags := s.nvs.flags.set (bankIx b) f, locked := s.nvs.locked.set (bankIx b) locked } }
    let chosen := if s.mgu.standby[kindIx b.kind] = some b.isB then s.mgu.standby.set (kindIx b.kind) none
      else s.mgu.standby
    (runs (.bankErase b) →
      exec (.bankEraseEnd true) s = .next (finishLong .ok [] { left Bank.erased with mgu := { s.mgu with standby := chosen } }) ∧
      ∃ cells, erasedInPart bank.cells cells ∧ exec (.bankEraseEnd false) s = .next (finishLong .eraseFailed []
        { left { bank with cells := cells, torn := true } with
          freeCount := s.freeCount + 1, mgu := { s.mgu with standby := chosen } })) ∧
    (runs (.blankCheck b) →
      let blank := bank.cells = [] ∧ bank.torn = false ∧ bank.markTorn = false
      (¬blank → exec .blankCheckEnd s = .next (finishLong .notBlank [] (left bank))) ∧
      (∀ n, blank → s.mgu.slot = some { node := n, op := .blankCheck b } →
        exec .blankCheckEnd s = .next (finishLong .ok [] (left bank))) ∧
      (∀ n v, blank → s.mgu.slot = some { node := n, op := .loadBegin b v } →
        exec .blankCheckEnd s = .next (finishLong .ok [] { left bank with mgu := { s.mgu with
          load := some { bank := b, node := n, count := v, next := 0, taken := 0, crc := 0xFFFFFFFF#32 },
          loadIdle := some (later + 10000 * Config.usPerMs) } }))) ∧
    (∀ (o : Nat) (l : List Byte), runs (.loadProgram b o l) →
      ∃ cells : Memory, overlaid cells (32 + o) l ∧
        (takes (32 + o) l → exec (.loadProgramEnd true) s =
          .next (finishLong .ok [] { left { bank with cells := cells } with mgu := { s.mgu with
            load := s.mgu.load.map (fun c => { c with next := c.next + 1, taken := c.taken + l.length, crc := crc32Run c.crc l }),
            loadIdle := some (later + 10000 * Config.usPerMs) } })) ∧
        (¬takes (32 + o) l → exec (.loadProgramEnd true) s =
          .next (finishLong .programFailed [] (failed { bank with cells := cells, torn := true }))) ∧
        ∃ part, writtenInPart bank.cells part (32 + o) l ∧ exec (.loadProgramEnd false) s =
          .next (finishLong .programFailed [] { failed { bank with cells := part, torn := true } with
            freeCount := s.freeCount + 1 })) ∧
    (∀ (v : Nat) (x : BitVec 32), runs (.headerFields b v x) →
      let l := headerBytes b.kind v x
      (takes 0 l → ∃ cells, overlaid cells 0 l ∧ exec (.headerFieldsProgramEnd true) s =
        .next (finishLong .ok [] { left { bank with cells := cells } with mgu := { s.mgu with
          load := none, loadIdle := none, standby := s.mgu.standby.set (kindIx b.kind) (some b.isB) } })) ∧
      (¬takes 0 l → ∃ cells, overlaid cells 0 l ∧ exec (.headerFieldsProgramEnd true) s =
        .next (finishLong .programFailed [] (failed { bank with cells := cells, torn := true }))) ∧
      ∃ part, writtenInPart bank.cells part 0 l ∧ exec (.headerFieldsProgramEnd false) s =
        .next (finishLong .programFailed [] { failed { bank with cells := part, torn := true } with
          freeCount := s.freeCount + 1 })) ∧
    (∀ v : Nat, runs (.markWord b v) →
      (∃ part, writtenInPart bank.cells part 16 (markBytes v) ∧ exec (.markWordProgramEnd false) s =
        .next (finishLong .programFailed [] { left { bank with cells := part, markTorn := true } with
          freeCount := s.freeCount + 1 })) ∧
      (markErased bank = true → v ≤ 4294967294 →
        ∃ t, exec (.markWordProgramEnd true) s = .next t ∧
          t.nvs.active = s.nvs.active.set (kindIx b.kind) (some b.isB) ∧ markGood t.nvs.banks[bankIx b] = true ∧
          bankCommit t.nvs.banks[bankIx b] = v ∧
          (∀ a, a < 16 ∨ 25 ≤ a → memRead t.nvs.banks[bankIx b].cells a = memRead bank.cells a) ∧
          t.nvs.current = (left bank).nvs.current ∧ t.nvs.checkpoint = (left bank).nvs.checkpoint ∧ t.nvs.waiting = none ∧
          (b.kind = .alloc → t.tau = { s.tau with swapWaiting := true } ∧ t.mgu = s.mgu) ∧
          (b.kind = .makeup → t.cmu = { s.cmu with makeupSwap := true } ∧ t.mgu = s.mgu) ∧
          (b.kind = .coupling → t.cmu = { s.cmu with couplingSwap := true } ∧ t.mgu = s.mgu) ∧
          (b.kind = .window → s.fsw.inSwitch ≠ none → t.fsw = { s.fsw with swapWaiting := true } ∧ t.mgu = s.mgu) ∧
          (b.kind = .window → s.fsw.inSwitch = none → t.fsw.table = activeWindow t ∧ t.fsw.commit = v ∧ t.mgu.slot = none ∧
            ∀ n, s.mgu.slot = some { node := n, op := .commit .window } →
              t.pcw = (respond n 12 .ok (four v) { s with fsw := t.fsw }).pcw) ∧
          (b.kind = .fuelmap → t.fau.table = activeFuel t ∧ t.mgu.slot = none ∧
            (∀ n, s.mgu.slot = some { node := n, op := .commit .fuelmap } → ∃ u, t = respond n 12 .ok (four v) u ∧
              Told { s with now := later, nvs := t.nvs, fau := t.fau, piu := t.piu, mgu := { s.mgu with slot := none } } u) ∧
            ∀ x, activeFuel t = some x →
              let entries := x.meters.map fun e => { e with node := max 1 (min e.node 62) }
              let ignored := fun (k : Nat) (e : MeterEntry) => ∃ j z, j < k ∧ entries[j]? = some z ∧
                (z.node = e.node ∨ (z.role = e.role ∧ ∀ a a', e.role ≠ .transfer a a'))
              let fresh := fun e : MeterEntry => ({
                entry := e, unused := false, state := .unseen, baseline := none, jumps := [], clean := 0, lastReport := none,
                carry := 0, silence := some (later + 5000 * Config.usPerMs) } : Meter)
              let dropped := fun m : Meter => m ∈ s.fau.meters ∧ m.unused = false ∧
                ∀ z : Meter, z ∈ t.fau.meters → z.unused = false → z.entry ≠ m.entry
              t.fau = { s.fau with
                table := some x, lineup := x.lineup, meters := t.fau.meters, accounts := t.fau.accounts, tanks := t.fau.tanks } ∧
              t.fau.meters.length = entries.length ∧
              (∀ (k : Nat) (e : MeterEntry), entries[k]? = some e →
                (ignored k e → t.fau.meters[k]? = some { fresh e with unused := true, silence := none }) ∧
                (¬ignored k e → (∀ m ∈ s.fau.meters, m.unused = false → m.entry ≠ e) → t.fau.meters[k]? = some (fresh e)) ∧
                (∀ j m, ¬ignored k e → s.fau.meters[j]? = some m → m.unused = false → m.entry = e →
                  (∀ (i : Nat) (z : Meter), i < j → s.fau.meters[i]? = some z → z.unused = false → z.entry ≠ e) →
                  t.fau.meters[k]? = some m)) ∧
              (∀ n, isRaised .meterFault (.meter n) t = true ↔
                isRaised .meterFault (.meter n) s = true ∧ ∀ m, dropped m → m.entry.node ≠ n) ∧
              (∀ e : Fin 4, t.fau.accounts[e] =
                if isMetered s.fau.meters e = true ∧ isMetered t.fau.meters e = false
                then { s.fau.accounts[e] with pendingSupply := 0, pendingReturn := 0, void := true } else s.fau.accounts[e]) ∧
              (∀ i : Fin 8, t.fau.tanks[i].balance = s.fau.tanks[i].balance ∧
                (let y := x.tanks[i]
                 let capacity := max 1 (min y.capacity 140737488355327)
                 let reserve := min y.reserve (capacity - 1)
                 let v := s.fau.tanks[i].balance
                 t.fau.tanks[i].overfull = (y.defined && decide ((capacity : Int) < v)) ∧
                 t.fau.tanks[i].state =
                   if y.defined = false then .normal else if v ≤ 0 then .empty else if v ≤ reserve then .reserve else .normal) ∧
                isRaised .tankReserve (.tank i) t = decide (t.fau.tanks[i].state ≠ .normal) ∧
                isRaised .tankEmpty (.tank i) t = decide (t.fau.tanks[i].state = .empty) ∧
                isRaised .tankOverfull (.tank i) t = t.fau.tanks[i].overfull) ∧
              CapsFollow true { s with piu := { s.piu with engines := Vector.ofFn fun i : Fin 6 =>
                if h : i.val < 4 then { s.piu.engines[i] with lineup := x.lineup[i.val] } else s.piu.engines[i] } } t ∧
              ∀ e : Fin 4,
                let r := t.piu.engines[(⟨e.val, by omega⟩ : Fin 6)]
                r.lineup = x.lineup[e] ∧
                  r.cap = if t.fau.tanks[x.lineup[e]].state = .normal then none else some (min x.cR 1000)))) ∧
    (runs (.commitCheck b) →
      let body := bankBody bank
      let byte := fun o : Nat => (body.getD o 0).toNat
      let word := fun o : Nat => 256 * byte o + byte (o + 1)
      let volume := fun o : Nat => 4294967296 * word o + 65536 * word (o + 2) + word (o + 4)
      let upTo := fun (n base width off m : Nat) => ∀ i, i < n → byte (base + width * i + off) ≤ m
      let known := fun v : Nat => match activeMakeup s with | none => v = 0 | some l => ∃ x ∈ l, x.id = v
      let passes : Prop := match b.kind with
        | .alloc => body.length = 207 ∧ upTo 6 0 20 0 1 ∧ upTo 6 0 20 19 2 ∧ upTo 3 120 12 0 1 ∧ upTo 3 120 12 11 1 ∧
            upTo 4 156 4 0 1 ∧ upTo 4 156 4 2 1 ∧ upTo 4 156 4 3 1 ∧
            (∀ i, i < 6 → (byte (20 * i) = 1 → word (20 * i + 5) < word (20 * i + 7) ∧ word (20 * i + 5) < word (20 * i + 9)) ∧
              word (20 * i + 1) ≤ 1000 ∧ (word (20 * i + 3) ≤ 1000 ∨ 64536 ≤ word (20 * i + 3))) ∧
            ∀ i j, i < j → j < 4 → byte (156 + 4 * i) = 1 → byte (156 + 4 * j) = 1 → byte (157 + 4 * i) ≠ byte (157 + 4 * j)
        | .window => body.length = 374 ∧ byte 357 ≤ 16 ∧ upTo 32 0 9 0 1 ∧ upTo 32 0 9 1 15 ∧ upTo 32 0 9 6 3 ∧
            upTo 32 0 9 7 15 ∧ upTo 4 288 1 0 1 ∧ upTo 64 292 1 0 3 ∧
            ∀ i, i < 32 → byte (9 * i) = 1 → word (9 * i + 2) ≤ word (9 * i + 4)
        | .makeup => byte 0 ≤ 48 ∧ body.length = 1 + 4 * byte 0 ∧ upTo (byte 0) 1 4 3 3 ∧
            (∀ i j, i < j → j < byte 0 → byte (1 + 4 * i) ≠ byte (1 + 4 * j) ∧ word (2 + 4 * i) ≠ word (2 + 4 * j)) ∧
            ∃ i, i < byte 0 ∧ byte (1 + 4 * i) = 0 ∧ byte (4 + 4 * i) = 0
        | .coupling => byte 10 ≤ 62 ∧ body.length = 11 + 9 * byte 10 ∧ upTo (byte 10) 11 9 3 3 ∧ upTo (byte 10) 11 9 8 1 ∧
            (∀ i j, i < j → j < byte 10 → byte (11 + 9 * i) ≠ byte (11 + 9 * j)) ∧
            ∀ i, i < byte 10 → 1 ≤ byte (11 + 9 * i) ∧ byte (11 + 9 * i) ≤ 62 ∧ known (byte (12 + 9 * i)) ∧ known (byte (13 + 9 * i))
        | .fuelmap => byte 162 ≤ 12 ∧ body.length = 163 + 4 * byte 162 ∧ upTo 8 10 19 0 1 ∧ upTo (byte 162) 163 4 1 2 ∧
            (∀ i, i < byte 162 → (byte (164 + 4 * i) ≤ 1 → byte (165 + 4 * i) ≤ 3) ∧
              (byte (164 + 4 * i) = 2 → byte (165 + 4 * i) ≤ 7 ∧ byte (166 + 4 * i) ≤ 7)) ∧
            ∀ i, i < 8 → byte (10 + 19 * i) = 1 → volume (17 + 19 * i) < volume (11 + 19 * i)
      let good := (memRead bank.cells 0).toNat = (kindIx b.kind).val + 1 ∧ bankLength bank ≤ 4064 ∧
        crc32 body = bankCrc bank ∧ passes
      (¬good → exec .commitCheckEnd s = .next (finishLong .checkFailed [] (left bank))) ∧
      let mark := StoreOp.markWord b (activeCommit s b.kind + 1)
      (good → s.nvs.waiting = none → exec .commitCheckEnd s = .next { s with now := later, nvs := { s.nvs with
        current := some ⟨mark, later + 5 * Config.usPerMs⟩ } }) ∧
      (good → s.nvs.waiting ≠ none → exec .commitCheckEnd s =
        .next { left bank with nvs := { (left bank).nvs with waitingOp := some mark } })) ∧
    (runs (.lockProgram b) →
      exec (.lockProgramEnd true) s = .next (finishLong .ok [] (flagged .written true)) ∧
      exec (.lockProgramEnd false) s = .next (finishLong .programFailed [] (flagged .partly true))) ∧
    (runs (.lockErase b) →
      exec (.lockEraseEnd true) s = .next (finishLong .ok [] (flagged .erased false)) ∧
      exec (.lockEraseEnd false) s = .next (finishLong .eraseFailed [] (flagged .partly true)))

/-- R123, R125 to R128: the two operations of a checkpoint. The erase is followed at once by the program; a written
slot is the newest; a slot that fails raises STORE-FAIL and the checkpoint goes on to the next slot, or ends
unwritten when every slot it may try has failed. When the checkpoint has ended, the store goes to the next operation
by the rows of R125: a waiting checkpoint, the suspended erase, or the waiting operation of the management unit; a
waiting BANK-ERASE starts, and a checkpoint that waits suspends it at once. That the header of such an erase reads
255 from its start is the model's reading (log entry 12), that its bank is marked torn from then on, and that a slot
whose operation failed is marked torn, is the model's choice (log entry 48), and so is the operand ok, which says
whether the cells took the operation (log entry 50). R113: a VOYAGE-CLOSE whose answer is owed is answered as its
checkpoint ends, OK when it is written and PROGRAM-FAILED when it is not. -/
def Obligations.CheckpointSlots : Prop :=
  ∀ (s : State) (c : Checkpoint) (d : Nat), s.power = .run → s.nvs.checkpoint = some c →
    let later := max s.now d
    let tries := if s.nvs.newest = none then 8 else 7
    let lasts := fun op : StoreOp => (match op with
      | .bankErase _ => 400 | .blankCheck _ => 20 | .loadProgram _ _ _ => 1 | .headerFields _ _ _ => 5 | .markWord _ _ => 5
      | .commitCheck _ => 20 | .lockProgram _ => 10 | .lockErase _ => 60 | .slotErase => 60 | .slotProgram => 20) *
        Config.usPerMs
    let rows := fun (n : Option Newest) (t : State) =>
      let last := n.elim 0 (·.seq)
      let started := fun w : WaitingCheckpoint =>
        t.nvs.checkpoint = some { snapshot := w.snapshot, owed := w.owed, slot := n.elim 0 (·.slot + 1), seq := last + 1,
                                  failures := 0 } ∧
        t.nvs.current = some ⟨.slotErase, later + lasts .slotErase⟩ ∧ t.nvs.waiting = none
      (∀ w, last < 4294967294 → s.nvs.waiting = some w → s.nvs.suspended ≠ none ∨ s.nvs.waitingOp = none →
        started w ∧ t.nvs.suspended = s.nvs.suspended ∧ t.nvs.waitingOp = s.nvs.waitingOp) ∧
      (∀ x, s.nvs.suspended = some x → s.nvs.waiting = none →
        t.nvs.checkpoint = none ∧ t.nvs.suspended = none ∧ t.nvs.current = some ⟨.bankErase x.bank, later + x.remaining⟩) ∧
      (∀ op, s.nvs.suspended = none → s.nvs.waitingOp = some op → (∀ b, op ≠ .bankErase b) →
        t.nvs.checkpoint = none ∧ t.nvs.waitingOp = none ∧ t.nvs.waiting = s.nvs.waiting ∧
        t.nvs.current = some ⟨op, later + lasts op⟩ ∧ ∀ b, op = .lockProgram b → t.nvs.locked[bankIx b] = true) ∧
      (∀ b, s.nvs.suspended = none → s.nvs.waitingOp = some (.bankErase b) →
        t.nvs.waitingOp = none ∧ t.nvs.banks[bankIx b].torn = true ∧
        (∀ a, memRead t.nvs.banks[bankIx b].cells a = if a < 32 then 255 else memRead s.nvs.banks[bankIx b].cells a) ∧
        (s.nvs.waiting = none → t.nvs.checkpoint = none ∧ t.nvs.suspended = none ∧
          t.nvs.current = some ⟨.bankErase b, later + lasts (.bankErase b)⟩) ∧
        ∀ w, last < 4294967294 → s.nvs.waiting = some w → started w ∧
          t.nvs.suspended = some { bank := b, remaining := lasts (.bankErase b) } ∧
          t.nvs.eraseSuspend = min 65535 (s.nvs.eraseSuspend + 1)) ∧
      (s.nvs.suspended = none → s.nvs.waiting = none → s.nvs.waitingOp = none →
        t.nvs.checkpoint = none ∧ t.nvs.current = none)
    let answered := fun (a : Answer) (t : State) => ∀ n, s.mgu.slot = some { node := n, op := .voyageClose } →
      ∃ u, Told { s with now := later, freeCount := u.freeCount, nvs := u.nvs, mgu := { s.mgu with slot := none } } u ∧
        ∀ q : Fin 4, (respond n 16 a [] u).pcw.tx[q] <+: t.pcw.tx[q]
    (s.nvs.current = some ⟨.slotErase, d⟩ →
      exec (.slotEraseEnd true) s = .next { s with now := later, nvs := { s.nvs with
        slots := s.nvs.slots.set c.slot { cells := [], torn := false },
        current := some ⟨.slotProgram, later + 20 * Config.usPerMs⟩ } }) ∧
    (∀ e : Instr, (e = .slotEraseEnd false ∧ s.nvs.current = some ⟨.slotErase, d⟩) ∨
        (e = .slotProgramEnd false ∧ s.nvs.current = some ⟨.slotProgram, d⟩) →
      ∃ t, exec e s = .next t ∧ isRaised .storeFail (.slot c.slot) t = true ∧
        t.nvs.slotFailure = min 65535 (s.nvs.slotFailure + 1) ∧ slotValid t.nvs.slots[c.slot] = false ∧
        (∀ i, i ≠ c.slot → t.nvs.slots[i] = s.nvs.slots[i]) ∧ t.nvs.newest = s.nvs.newest ∧
        (c.failures + 1 < tries → t.nvs.checkpoint = some { c with slot := c.slot + 1, failures := c.failures + 1 } ∧
          t.nvs.current = some ⟨.slotErase, later + 60 * Config.usPerMs⟩ ∧ t.mgu.slot = s.mgu.slot) ∧
        (tries ≤ c.failures + 1 → rows s.nvs.newest t ∧ (c.owed = true → t.mgu.slot = none ∧ answered .programFailed t))) ∧
    (s.nvs.current = some ⟨.slotProgram, d⟩ →
      ∃ t, exec (.slotProgramEnd true) s = .next t ∧
        t.nvs.slots = s.nvs.slots.set c.slot { cells := slotCells c.snapshot c.seq, torn := false } ∧
        t.nvs.newest = some { slot := c.slot, seq := c.seq } ∧ t.fau = s.fau ∧
        ((∀ b, s.nvs.waitingOp ≠ some (.bankErase b)) → t.nvs.banks = s.nvs.banks) ∧
        (c.owed = true → t.mgu.slot = none ∧ answered .ok t) ∧ (c.owed = false → c.seq < 4294967294 → t.mgu.slot = s.mgu.slot) ∧
        (c.failures = 0 → c.seq < 4294967294 → ∀ j, isRaised .storeFail j t = false) ∧
        rows (some { slot := c.slot, seq := c.seq }) t)

/-- R135, R137 to R139, R150, R153, R154: a frame on a segment up to its acknowledge slot. A port in RUN that is not
waiting for bus idle and not sending follows it; one that passes the checks is acknowledged and placed by the class
map, or dropped and counted at a full queue, with QUEUE-OVERRUN when the queue's flag is clear; the frame switch
takes it at once when it is free and nothing waits. A payload of another length than the length field fails the CRC
check (the model's choice, log entry 16). -/
def Obligations.PortReceives : Prop :=
  ∀ (s : State) (seg : Segment) (h : BitVec 16) (l : BitVec 4) (payload : List Byte) (x : BitVec 16) (d : Bool), s.power = .run →
    let c := s.port seg
    let follows := c.state = .run ∧ c.line ≠ .waitIdle ∧ c.sending = none
    let sound := payload.length = l.toNat ∧ crc16 (bitsOf h ++ bitsOf l ++ payload.flatMap bitsOf) = x
    let f : Frame := { cls := h.extractLsb' 12 4, node := h.extractLsb' 6 6, kind := h.extractLsb' 0 6, payload := payload }
    let q := classQueue s (segPort seg) f.cls
    (¬follows → exec (.receiveFrame seg h l payload x d) s = .next s) ∧
    (follows → 8 < l.toNat → exec (.receiveFrame seg h l payload x d) s = .next (s.onPort seg fun c =>
      { c with window := none, acked := false, line := .waitIdle, busError := min 65535 (c.busError + 1) })) ∧
    (follows → l.toNat ≤ 8 → ¬sound ∨ d = false → exec (.receiveFrame seg h l payload x d) s = .next (s.onPort seg fun c =>
      { c with window := none, acked := false, line := .busy,
               crcError := if sound then c.crcError else min 65535 (c.crcError + 1),
               busError := if d = true then c.busError else min 65535 (c.busError + 1) })) ∧
    (follows → l.toNat ≤ 8 → sound → d = true → c.rx[q].length < 16 →
      (s.fsw.inSwitch ≠ none → exec (.receiveFrame seg h l payload x d) s = .next (s.onPort seg fun c =>
        { c with window := none, acked := true, line := .busy, rx := updAt c.rx q (· ++ [f]) })) ∧
      (s.fsw.inSwitch = none → (∀ i : Fin 4, s.pcw.rx[i] = [] ∧ s.pcp.rx[i] = [] ∧ s.pck.rx[i] = [] ∧ s.hlc.queues[i].rx = []) →
        exec (.receiveFrame seg h l payload x d) s = .next ({ s with fsw := { s.fsw with
            inSwitch := some { frame := f, ingress := segPort seg, deadline := s.now + 200 }, lastServed := segPort seg } }.onPort seg
          fun c => { c with window := none, acked := true, line := .busy }))) ∧
    (follows → l.toNat ≤ 8 → sound → d = true → 16 ≤ c.rx[q].length → s.fsw.inSwitch ≠ none →
      let full : State := s.onPort seg fun c =>
        { c with window := none, acked := true, line := .busy, overrun := updAt c.overrun q (fun n => min 65535 (n + 1)),
                 overrunFlag := c.overrunFlag.set q true }
      exec (.receiveFrame seg h l payload x d) s =
        .next (if c.overrunFlag[q] = true then full else raiseAlarm .queueOverrun (.portQueue seg q) full))

/-- R136, R140 to R143, R148, R149 and section 8.4: the sending of a frame. The port offers the head of its lowest
queue at bus idle in RUN, outside an open reply window; a lost arbitration leaves it there; its end takes it from
its queue, and its originator is told. That the port waits for bus idle after a bit error, and does not follow what
is still on the bus, is the model's reading (log entry 69). -/
def Obligations.PortSends : Prop :=
  ∀ (s : State) (seg : Segment), s.power = .run →
    let c := s.port seg
    let may := c.state = .run ∧ c.line = .idle ∧ c.sending = none ∧ c.window = none
    (¬may ∨ (∀ q : Fin 4, c.tx[q] = []) → exec (.frameOffer seg) s = .next s) ∧
    (∀ q : Fin 4, may → c.tx[q] ≠ [] → (∀ j : Fin 4, j < q → c.tx[j] = []) →
      exec (.frameOffer seg) s = .next (s.onPort seg fun c => { c with sending := some q, line := .busy })) ∧
    (c.sending = none → exec (.arbitrationLoss seg) s = .next s ∧ exec (.acknowledgeSlot seg true) s = .next s ∧
      exec (.acknowledgeSlot seg false) s = .next s ∧ exec (.bitError seg) s = .next s) ∧
    ∀ (q : Fin 4) (e : TxEntry) (rest : List TxEntry), c.sending = some q → c.tx[q] = e :: rest →
      let gone := fun (z : PortCtl) => { z with sending := none, tx := z.tx.set q rest }
      let acked : State := s.onPort seg gone
      let unacked : State := s.onPort seg fun z => { gone z with ackFailure := min 65535 (z.ackFailure + 1) }
      let broken : State := s.onPort seg fun z => { gone z with busError := min 65535 (z.busError + 1), line := .waitIdle }
      let poll := seg = .k ∧ e.frame.cls = 4 ∧ e.frame.kind = 1
      exec (.arbitrationLoss seg) s = .next (s.onPort seg fun z =>
        { z with sending := none, arbitrationLoss := min 65535 (z.arbitrationLoss + 1) }) ∧
      (¬poll → e.origin ≠ .mguReset → (∀ n, e.origin ≠ .cmuPoll n) → exec (.acknowledgeSlot seg true) s = .next acked) ∧
      (∀ n r, poll → e.origin = .cmuPoll n → s.cmu.round = some r → r.poll.serial = n →
        exec (.acknowledgeSlot seg true) s = .next { acked with
          cmu := { s.cmu with answer := some (s.now + 20 * Config.usPerMs) },
          pck := { acked.pck with window := some (s.now + 80 + 4 * Config.usPerMs) } }) ∧
      (∀ (b : Instr) (u : State), (b = .acknowledgeSlot seg false ∧ u = unacked) ∨ (b = .bitError seg ∧ u = broken) →
        (e.origin = .mgu ∨ e.origin = .csu ∨ e.origin = .fsw → exec b s = .next u) ∧
        (e.origin = .piu → exec b s =
          .next { u with piu := { s.piu with unackedSetpoint := min 65535 (s.piu.unackedSetpoint + 1) } }) ∧
        (∀ n r, e.origin = .cmuPoll n → s.cmu.round = some r → r.poll.serial ≠ n → exec b s = .next u) ∧
        (∀ n r, e.origin = .cmuPoll n → s.cmu.round = some r → r.poll.serial = n → r.rest = [] → s.cmu.startMarked = false →
          ∃ t, exec b s = .next t ∧ t.cmu.round = none ∧ t.cmu.answer = none ∧
            ∀ z, s.cmu.couplings[r.poll.index]? = some z → isTension z.state = true → z.missed < 2 →
              t.cmu.couplings = s.cmu.couplings.set r.poll.index { z with missed := z.missed + 1 }) ∧
        (∀ st j m k n, e.origin = .cmuRelease n → s.cmu.release = .releasing st j m k n →
          ∃ t, exec b s = .next t ∧ t.cmu.release = .idle ∧
            (s.cmu.couplings[j]? ≠ none → isRaised .releaseFailed (.coupler m) t = true))) ∧
      (e.origin = .mguReset → ∀ b : Instr, b = .acknowledgeSlot seg true ∨ b = .acknowledgeSlot seg false ∨ b = .bitError seg →
        ∃ t, exec b s = .next t ∧ t.power = .coreReset)

/-- R135, R143, R145 to R149, R199: the events of the line. An ISOLATED port detects none; the ninth dominant bit
ends the frame being sent, and its originator is told: a setpoint is counted as unacknowledged, a POLL is missed, a
RELEASE fails, the response to RESET-CORE begins the reset. A stuck bus isolates the port for 1000 ms with its
transmit queues flushed and counted and its receive queues kept; on W the ALARM frame of PORT-ISOLATED, handed while
ISOLATED, counts too. Where the response to RESET-CORE is among the flushed frames, the core reset begins. After 11
recessive bit times in RESTART the port runs again with the bus idle. A start bit in the reply window closes it with
the bus busy until the next bus idle. That each window is treated alike, whoever handed the POLL, that its expiry
with no poll outstanding only closes it, and that with one outstanding it is the missed poll, are the model's
readings (log entries 17 and 18). -/
def Obligations.PortLineEvents : Prop :=
  ∀ (s : State) (seg : Segment), s.power = .run →
    let c := s.port seg
    (c.state = .isolated → exec (.dominantRunNinthBit seg) s = .next s ∧ exec (.dominantRunEnd seg) s = .next s ∧
      exec (.stuckBus seg) s = .next s) ∧
    (c.state ≠ .isolated → c.sending = none → exec (.dominantRunNinthBit seg) s = .next (s.onPort seg fun c =>
      { c with line := .waitIdle, window := none })) ∧
    (∀ (q : Fin 4) (e : TxEntry) (rest : List TxEntry), c.state ≠ .isolated → c.sending = some q → c.tx[q] = e :: rest →
      let ended : State := s.onPort seg fun c =>
        { c with line := .waitIdle, window := none, sending := none, tx := c.tx.set q rest }
      (e.origin = .mgu ∨ e.origin = .csu ∨ e.origin = .fsw → exec (.dominantRunNinthBit seg) s = .next ended) ∧
      (e.origin = .piu → exec (.dominantRunNinthBit seg) s =
        .next { ended with piu := { s.piu with unackedSetpoint := min 65535 (s.piu.unackedSetpoint + 1) } }) ∧
      (∀ n, e.origin = .cmuPoll n → (∀ r, s.cmu.round = some r → r.poll.serial ≠ n) →
        exec (.dominantRunNinthBit seg) s = .next ended) ∧
      (∀ n r, e.origin = .cmuPoll n → s.cmu.round = some r → r.poll.serial = n → r.rest = [] → s.cmu.startMarked = false →
        ∃ t, exec (.dominantRunNinthBit seg) s = .next t ∧ t.cmu.round = none ∧ t.cmu.answer = none ∧
          ∀ z, s.cmu.couplings[r.poll.index]? = some z → isTension z.state = true → z.missed < 2 →
            t.cmu.couplings = s.cmu.couplings.set r.poll.index { z with missed := z.missed + 1 }) ∧
      (∀ st j m k n, e.origin = .cmuRelease n → s.cmu.release = .releasing st j m k n →
        ∃ t, exec (.dominantRunNinthBit seg) s = .next t ∧ t.cmu.release = .idle ∧
          (s.cmu.couplings[j]? ≠ none → isRaised .releaseFailed (.coupler m) t = true)) ∧
      (e.origin = .mguReset → ∃ t, exec (.dominantRunNinthBit seg) s = .next t ∧ t.power = .coreReset)) ∧
    (c.state ≠ .isolated → exec (.dominantRunEnd seg) s = .next (s.onPort seg fun c =>
      { c with busError := min 65535 (c.busError + 1) })) ∧
    (c.state ≠ .isolated → (∀ (q : Fin 4), ∀ e ∈ c.tx[q], e.origin ≠ .mguReset) →
      ∃ t, exec (.stuckBus seg) s = .next t ∧ (t.port seg).state = .isolated ∧ (t.port seg).line = .waitIdle ∧
        (∀ q : Fin 4, (t.port seg).tx[q] = []) ∧ (t.port seg).sending = none ∧ (t.port seg).window = none ∧
        (t.port seg).isolation = some (s.now + 1000 * Config.usPerMs) ∧ (t.port seg).rx = c.rx ∧
        (t.port seg).overrun = c.overrun ∧ (t.port seg).overrunFlag = c.overrunFlag ∧
        isRaised .portIsolated (.port seg) t = true ∧
        (let flushed := min 65535 (c.flushDrop + (c.tx[(0 : Fin 4)].length + c.tx[(1 : Fin 4)].length +
           c.tx[(2 : Fin 4)].length + c.tx[(3 : Fin 4)].length))
         (seg = .p → (t.port seg).flushDrop = flushed) ∧
         (seg = .k → (∀ r, s.cmu.round = some r → r.rest = [] ∧ s.cmu.startMarked = false) →
           (t.port seg).flushDrop = flushed) ∧
         (seg = .w → c.window = none → (∀ (q : Fin 4), ∀ e ∈ c.tx[q], e.origin ∈ ([.mgu, .csu, .fsw, .piu] : List Origin)) →
           (t.port seg).flushDrop =
             if isRaised .portIsolated (.port .w) s = true then flushed else min 65535 (flushed + 1))) ∧
        (seg = .k → ∀ st j m d n, t.cmu.release ≠ .releasing st j m d n)) ∧
    (c.state ≠ .isolated → (∃ (q : Fin 4), ∃ e ∈ c.tx[q], e.origin = .mguReset) →
      ∃ t, exec (.stuckBus seg) s = .next t ∧ t.power = .coreReset) ∧
    (∀ d, c.isolation = some d → exec (.isolationTimerExpiry seg) s =
      .next ({ s with now := max s.now d }.onPort seg fun c => { c with isolation := none, state := .restart })) ∧
    (c.isolation = none → exec (.isolationTimerExpiry seg) s = .next s) ∧
    (c.state ≠ .restart → exec (.portRestart seg) s = .next s) ∧
    (c.state = .restart → ∃ t, exec (.portRestart seg) s = .next t ∧ isRaised .portIsolated (.port seg) t = false ∧
      Told (s.onPort seg fun c => { c with state := .run, line := .idle }) t) ∧
    (s.pck.window = none → exec .replyWindowAnswered s = .next s) ∧
    (s.pck.window ≠ none → exec .replyWindowAnswered s = .next { s with pck := { s.pck with
      window := none, line := if s.pck.line = .waitIdle then .waitIdle else .busy } }) ∧
    (s.pck.window = none → exec .replyWindowExpiry s = .next s) ∧
    (∀ d, s.pck.window = some d → s.cmu.round = none →
      exec .replyWindowExpiry s = .next { s with now := max s.now d, pck := { s.pck with window := none } }) ∧
    (∀ d r, s.pck.window = some d → s.cmu.round = some r → r.rest = [] → s.cmu.startMarked = false →
      ∃ t, exec .replyWindowExpiry s = .next t ∧ t.pck.window = none ∧ t.cmu.round = none ∧ t.cmu.answer = none ∧
        ∀ z, s.cmu.couplings[r.poll.index]? = some z → isTension z.state = true → z.missed < 2 →
          t.cmu.couplings = s.cmu.couplings.set r.poll.index { z with missed := z.missed + 1 }) ∧
    (c.state = .run → c.sending = none → exec (.busIdle seg) s = .next (s.onPort seg fun c => { c with line := .idle })) ∧
    (c.state ≠ .run ∨ c.sending ≠ none → exec (.busIdle seg) s = .next s)

/-- R153, R154, R156 to R162, R164 to R166, R182: the end of a switching. The first window that matches decides the
frame, or the default of its ingress, which is DROP while WINDOW is unloaded. A frame whose action asks for a
delivery goes to the unit of its class as that unit's command; a class 8 frame of W goes to the management unit by
its node alone, whatever decides it. Then a copy with its node moved by the offset goes to each egress port but the
ingress, and what the port or the link cannot take is counted there and as an egress drop. Drops, undeliverable and
refused frames are counted at the ingress; a forward with no egress port left counts as a window drop, unless the
frame was also delivered. A WINDOW swap that waits takes the table and the commit number; an H queue enabled becomes
PENDING and is announced while UP; one disabled loses its frames, counted as disabled drops and as flushed, and its
credit, and while UP a withdrawn announce is sent; the commit is answered. Then the arbiter takes, from the port
after the last served in the cycle W, P, K, H, the oldest frame of the lowest-numbered queue that is not empty; a
DISABLED H queue is passed over, and an entry freed of another is returned while UP. The order of the counts, the
delivery and the copies (behind what it hands on) is log entry 34. That a management
frame under a default of DROP counts as a default drop also while WINDOW is unloaded is
the model's reading (log entry 64), as is what a class 7 frame of another kind counts (log entry 25). That a class 0
or class 1 frame without fields is taken whatever its payload is log entry 15, that a VOYAGE-OPEN part above 8 is
taken as its row log entry 32, and that limits act where a value is used, here the node and offset of a window, log
entry 19. What a withdrawal leaves (log entry 42), a DATA frame cut off (log entry 83), the order of the
announces of one swap (log entry 43) and no return outside UP (log entry 97) are the model's too. -/
def Obligations.SwitchingEnds : Prop :=
  ∀ (s : State), s.power = .run →
    (s.fsw.inSwitch = none → exec .switchingEnd s = .next s) ∧
    ∀ x : InSwitch, s.fsw.inSwitch = some x →
      let i := portIx x.ingress
      let f := x.frame
      let h := (headerOf f).toNat
      let matched := fun w : Window =>
        w.valid = true ∧ portSetHas w.ingress x.ingress = true ∧ w.base ≤ h ∧ h ≤ w.limit
      let first := fun w : Window => ∃ (t : WindowTable) (k : Fin 32), s.fsw.table = some t ∧ t.windows[k] = w ∧ matched w ∧
        ∀ j : Fin 32, j < k → ¬matched t.windows[j]
      let delivering := (∀ w, ¬first w) ∧ ∃ t, s.fsw.table = some t ∧ t.defaults[i] = true
      let asks := delivering ∨ ∃ w, first w ∧ (w.action = .deliver ∨ w.action = .deliverAndForward)
      let forwards := fun n : PortName => n ≠ x.ingress ∧ ∃ w, first w ∧ portSetHas w.egress n = true ∧
        (w.action = .forward ∨ w.action = .deliverAndForward)
      let managed := x.ingress = .w ∧ ∀ t, s.fsw.table = some t → t.nodes = [] ∨ f.node.toNat ∈ t.nodes
      let hasUnit := f.cls ∈ ([0, 1, 3, 5, 6] : List (BitVec 4)) ∨ (f.cls = 2 ∧ s.role = .helper ∧ x.ingress = .h) ∨
        (f.cls = 4 ∧ x.ingress = .k) ∨ (f.cls = 7 ∧ x.ingress = .h)
      let taken := (f.cls = 8 ∧ managed) ∨ (f.cls ≠ 8 ∧ asks ∧ hasUnit)
      let counted := fun (p : Prop) (old new : Vector Nat 4) =>
        (p → new = old.set i (min 65535 (old[i] + 1))) ∧ (¬p → new = old)
      let copied := fun (e : TxEntry) (a t : State) =>
        let full := fun seg : Segment => 16 ≤ (a.port seg).tx[classQueue a (segPort seg) f.cls].length
        let shut := a.hlc.state = .down ∨ a.hlc.state = .roleMismatch
        let z := a.hlc.queues[classQueue a .h f.cls]
        let more := fun (b : Bool) (n : Nat) => if b then min 65535 (n + 1) else n
        let onH := fun (g : LinkQueue → LinkQueue) =>
          t.hlc = { a.hlc with queues := updAt a.hlc.queues (classQueue a .h f.cls) g }
        t = { a with pcw := t.pcw, pcp := t.pcp, pck := t.pck, hlc := t.hlc, fsw := { a.fsw with egressDrop := t.fsw.egressDrop } } ∧
        (∀ seg : Segment, let q := classQueue a (segPort seg) f.cls
          let c := a.port seg
          let drops := t.fsw.egressDrop[portIx (segPort seg)] = min 65535 (a.fsw.egressDrop[portIx (segPort seg)] + 1)
          let keeps := t.fsw.egressDrop[portIx (segPort seg)] = a.fsw.egressDrop[portIx (segPort seg)]
          (¬forwards (segPort seg) → t.port seg = c ∧ keeps) ∧
          (forwards (segPort seg) → c.state = .isolated → t.port seg = { c with flushDrop := more true c.flushDrop } ∧ drops) ∧
          (forwards (segPort seg) → c.state ≠ .isolated → full seg →
            t.port seg = { c with txDrop := updAt c.txDrop q (more true) } ∧ drops) ∧
          (forwards (segPort seg) → c.state ≠ .isolated → ¬full seg →
            t.port seg = { c with tx := updAt c.tx q (· ++ [e]) } ∧ keeps)) ∧
        (¬forwards .h → t.hlc = a.hlc) ∧
        (forwards .h → shut → t.hlc = { a.hlc with flushDrop := more true a.hlc.flushDrop }) ∧
        (forwards .h → ¬shut → z.state = .disabled → t.hlc = { a.hlc with disabledDrop := more true a.hlc.disabledDrop }) ∧
        (forwards .h → ¬shut → z.state ≠ .disabled → z.tx.length < 32 → onH fun y => { y with tx := y.tx ++ [e] }) ∧
        (forwards .h → ¬shut → z.state ≠ .disabled → 32 ≤ z.tx.length → onH fun y => { y with txDrop := more true y.txDrop }) ∧
        (¬forwards .h ∨ (¬shut ∧ z.state ≠ .disabled ∧ z.tx.length < 32) → t.fsw.egressDrop[3] = a.fsw.egressDrop[3]) ∧
        (forwards .h → shut ∨ z.state = .disabled ∨ 32 ≤ z.tx.length →
          t.fsw.egressDrop[3] = more true a.fsw.egressDrop[3])
      let swapped := fun a : State =>
        let on := fun q : Fin 4 => (activeWindow a).elim (q == 0) fun w => w.enables[q]
        let opens := fun q : Fin 4 => on q && a.hlc.queues[q].state == .disabled
        let shuts := fun q : Fin 4 => !on q && a.hlc.queues[q].state != .disabled
        let up := a.hlc.state == .up
        let told := fun (l : Lane) => (List.finRange 4).flatMap fun q =>
          let y := a.hlc.queues[q]
          if up ∧ laneOfQueue a q = some l ∧ opens q then [Control.announce q ((y.epoch + 1) % 256) (32 - y.rx.length)]
          else if up ∧ laneOfQueue a q = some l ∧ shuts q then [.announce q ((y.epoch + 1) % 256) 255] else []
        let lane := fun (l : Lane) (c : LaneCtl) =>
          let cut := (List.finRange 4).any fun q => shuts q && c.sending == some q
          { c with
            sending := if cut then none else c.sending, out := if cut then .idleSymbols else c.out,
            control := c.control ++ told l }
        let summed := fun (n : Nat) (size : LinkQueue → Nat) =>
          (List.finRange 4).foldl (fun k q => if shuts q then min 65535 (k + size a.hlc.queues[q]) else k) n
        let b := { a with
          fsw := { a.fsw with
            table := activeWindow a, commit := (activeBank a .window).elim 0 bankCommit, swapWaiting := false },
          hlc := { a.hlc with
            queues := Vector.ofFn fun q =>
              let y := a.hlc.queues[q]
              if opens q ∧ up then { y with
                state := .pending, epoch := (y.epoch + 1) % 256, announced := 32 - y.rx.length, freed := 0, expected := 0,
                confirmed := false }
              else if opens q then { y with state := .pending }
              else if shuts q then { y with
                state := .disabled, tx := [], rx := [], credit := 0, partner := none, confirmed := false,
                epoch := if up then (y.epoch + 1) % 256 else y.epoch }
              else y,
            flushDrop := summed a.hlc.flushDrop fun y => y.tx.length,
            disabledDrop := summed a.hlc.disabledDrop fun y => y.rx.length,
            lane0 := lane .h0 a.hlc.lane0, lane1 := lane .h1 a.hlc.lane1 } }
        match a.mgu.slot with
        | none => b
        | some r => respond r.node (longKind r.op) .ok (beBytes 4 ((activeBank a .window).elim 0 bankCommit))
            { b with mgu := { b.mgu with slot := none } }
      ∀ offset : Nat, (∀ w, first w → min w.offset 63 = offset) →
        let e : TxEntry := { frame := { f with node := f.node + BitVec.ofNat 6 offset }, origin := .fsw }
        let ends := fun v : State =>
          (v.power ≠ .run → exec .switchingEnd s = .next v) ∧
          (v.power = .run → ∃ t r, copied e v t ∧ ArbiterLooked (if t.fsw.swapWaiting = true then swapped t else t) r ∧
            exec .switchingEnd s = .next r)
        let odd := fun l : List (Nat × Nat) => (f.kind.toNat, f.payload.length) ∉ l
        ∃ u : State,
          u = { s with now := max s.now x.deadline, fsw := { s.fsw with
            inSwitch := none, windowDrop := u.fsw.windowDrop, defaultDrop := u.fsw.defaultDrop,
            undeliverable := u.fsw.undeliverable, refused := u.fsw.refused } } ∧
          counted (∃ w, first w ∧ (w.action = .drop ∨ (w.action = .forward ∧ ∀ n, ¬forwards n) ∨
            (w.action = .deliverAndForward ∧ (∀ n, ¬forwards n) ∧ ¬taken))) s.fsw.windowDrop u.fsw.windowDrop ∧
          counted ((∀ w, ¬first w) ∧ ¬delivering) s.fsw.defaultDrop u.fsw.defaultDrop ∧
          counted (f.cls ≠ 8 ∧ asks ∧ ¬hasUnit) s.fsw.undeliverable u.fsw.undeliverable ∧
          counted (f.cls = 8 ∧ ¬managed ∧ (x.ingress = .w ∨ asks)) s.fsw.refused u.fsw.refused ∧
          (¬taken → ends u) ∧
          (taken → f.cls = 7 → odd [(1, 0), (2, 0), (3, 1)] →
            ends { u with csu := { u.csu with class7Ignored := min 65535 (u.csu.class7Ignored + 1) } }) ∧
          (taken → ∀ (c : Instr) (n : Node) (p : List Byte) (a b a' b' a'' b'' y z : Byte),
            (c = .allStop n ∧ f = { cls := 0, node := n, kind := 1, payload := p }) ∨
            (c = .helm n (a ++ b) (a' ++ b') y ∧ f = { cls := 1, node := n, kind := 1, payload := [a, b, a', b', y] }) ∨
            (∃ k, f = { cls := 1, node := n, kind := k, payload := p } ∧
              ((k = 2 ∧ c = .take n) ∨ (k = 3 ∧ c = .give n) ∨ (k = 4 ∧ c = .takeForce n) ∨ (k = 5 ∧ c = .takeBack n) ∨
                (k = 6 ∧ c = .joinGive n) ∨ (k = 7 ∧ c = .allStopClear n))) ∨
            (c = .unknownNodeFrame f ∧ ((f.cls = 0 ∧ f.kind ≠ 1) ∨
              (f.cls = 1 ∧ (f.kind = 0 ∨ 7 < f.kind.toNat ∨ (f.kind = 1 ∧ f.payload.length ≠ 5))))) ∨
            (c = .hSetpointFrame f ∧ f.cls = 2) ∨
            (c = .engineFb n (a ++ b) y (a' ++ b') a'' ∧
              f = { cls := 3, node := n, kind := 1, payload := [a, b, y, a', b', a''] }) ∨
            (c = .rudderFb n (a ++ b) ∧ f = { cls := 3, node := n, kind := 2, payload := [a, b] }) ∨
            (c = .malformedFeedback f ∧ f.cls = 3 ∧ odd [(1, 6), (2, 2)]) ∨
            (c = .report n (a ++ b) y ∧ f = { cls := 4, node := n, kind := 2, payload := [a, b, y] }) ∨
            (c = .releaseDone n a ∧ f = { cls := 4, node := n, kind := 4, payload := [a] }) ∨
            (c = .malformedReport f ∧ f.cls = 4 ∧ odd [(2, 3), (4, 1)]) ∨
            (c = .meter n (a ++ b ++ a' ++ b') (a'' ++ b'') y ∧
              f = { cls := 5, node := n, kind := 1, payload := [a, b, a', b', a'', b'', y] }) ∨
            (c = .malformedMeter f ∧ f.cls = 5 ∧ odd [(1, 7)]) ∨
            (c = .releaseArm n a ∧ f = { cls := 6, node := n, kind := 1, payload := [a] }) ∨
            (c = .releaseGo n a b ∧ f = { cls := 6, node := n, kind := 2, payload := [a, b] }) ∨
            (c = .releaseFrameUnknownKind f ∧ f.cls = 6 ∧ odd [(1, 1), (2, 2)]) ∨
            (∃ k, f = { cls := 7, node := n, kind := k, payload := p } ∧
              ((k = 1 ∧ p = [] ∧ c = .joinOffer) ∨ (k = 2 ∧ p = [] ∧ c = .joinAccept) ∨ (k = 3 ∧ p = [a] ∧ c = .unjoin a))) ∨
            (∃ k, f = { cls := 8, node := n, kind := k, payload := p } ∧
              ((p = [] ∧ ((k = 1 ∧ c = .identify n) ∨ (k = 6 ∧ c = .clearSticky n) ∨ (k = 16 ∧ c = .voyageClose n) ∨
                  (k = 19 ∧ c = .makeupConfirm n) ∨ (k = 20 ∧ c = .resetCore n))) ∨
                (p = [a] ∧ ((k = 3 ∧ c = .readStatus n a) ∨ (k = 4 ∧ c = .counterRead n a) ∨ (k = 5 ∧ c = .counterClear n a) ∨
                  (k = 12 ∧ c = .bankCommit n a))) ∨
                (p = [a, b] ∧ ((k = 2 ∧ c = .readRecord n a b) ∨ (k = 7 ∧ c = .bankErase n a b) ∨
                  (k = 8 ∧ c = .bankBlankCheck n a b) ∨ (k = 13 ∧ c = .bankLock n a b) ∨ (k = 14 ∧ c = .bankUnlock n a b) ∨
                  (k = 18 ∧ c = .setLineup n a b))) ∨
                (p = [a, b, a', b'] ∧ ((k = 9 ∧ c = .loadBegin n a b (a' ++ b')) ∨ (k = 11 ∧ c = .loadEnd n (a ++ b ++ a' ++ b')))) ∨
                (p = [0, a, b] ∧ k = 15 ∧ c = .voyageOpen n 0 ((a ++ b).setWidth 32)) ∨
                (p = [y, a, b, a', b'] ∧ ((k = 15 ∧ y ≠ 0 ∧ c = .voyageOpen n y (a ++ b ++ a' ++ b')) ∨
                  (k = 17 ∧ c = .bunker n y (a ++ b ++ a' ++ b')))) ∨
                (p = [a, b, a', b', a'', b'', y, z] ∧ k = 10 ∧ c = .loadData n (a ++ b) [a', b', a'', b'', y, z]))) ∨
            (c = .malformedRequest f ∧ f.cls = 8 ∧
              ((f.kind = 15 ∧ (f.payload.headD 0 = 0 ↔ f.payload.length = 5)) ∨
                odd [(1, 0), (2, 2), (3, 1), (4, 1), (5, 1), (6, 0), (7, 2), (8, 2), (9, 4), (10, 8), (11, 4), (12, 1), (13, 2),
                  (14, 2), (15, 3), (15, 5), (16, 0), (17, 5), (18, 2), (19, 0), (20, 0)])) →
            ∃ v, exec c u = .next v ∧ ends v)

/-- R171 to R176, R178, R181, R184: training. The retry timer starts it; TS go out each 100 µs on the lanes not
marked bad; 2 ms after the entry the good set is fixed; a partner of the same role means ROLE-MISMATCH; a common
lane makes the chosen set, none or the 100 ms timer means DOWN; a ready TS with another chosen set makes it form
anew; the link is UP once a ready TS has been sent and one with the same chosen set received, and each enabled queue
is then announced afresh. That the TS which starts a training counts as its first is the model's reading (log entry
27). With the partner's equal ready TS in, the ready TS that begins makes the link UP and still goes out on the lanes
not marked bad; that it counts as sent from its beginning is the model's choice (log entry 88). That the first TS goes out 100 µs after the entry, and that the lanes' outputs stay until then, is the model's
reading (log entry 71). A retraining that a mark of the one lane in use started fixes an empty good set, so its
width is 0 (R174); that the good set is where this shows is the model's reading (log entry 82). That the TS sent in
ROLE-MISMATCH carry no set and say fixed no and ready no, and that an entry into a training or into DOWN discards
the credit control frames that wait on a lane, are the model's choices (log entries 85, 86). -/
def Obligations.LinkTrains : Prop :=
  ∀ (s : State), s.power = .run →
    let ms := Config.usPerMs
    let fresh := fun x : LaneCtl => { x with tsRun := 0, good := false, control := [], sending := none }
    let started := fun (st : LinkState) (now : Nat) (h : Hlc) =>
      { h with state := st, progress := Training.initial, retry := none, training := some (now + 100 * ms),
               goodFix := some (now + 2 * ms), tsTimer := some (now + 100), creditRefresh := none,
               lane0 := fresh h.lane0, lane1 := fresh h.lane1 }
    let common := fun a b : LaneSet => (⟨a.h0 && b.h0, a.h1 && b.h1⟩ : LaneSet)
    let noLane : LaneSet := ⟨false, false⟩
    let pended := fun q : LinkQueue => if q.state = .disabled then { q with credit := 0 }
      else { q with state := .pending, credit := 0, partner := none, confirmed := false }
    let isDown := fun t : State => t.hlc.state = .down ∧ t.hlc.inUse = none ∧ t.hlc.training = none ∧ t.hlc.tsTimer = none ∧
      t.hlc.retry = some (t.now + 100 * ms) ∧ t.hlc.lane0 = { LaneCtl.initial with crcError := s.hlc.lane0.crcError } ∧
      t.hlc.lane1 = { LaneCtl.initial with crcError := s.hlc.lane1.crcError } ∧
      (∀ q : Fin 4, t.hlc.queues[q] = { pended s.hlc.queues[q] with tx := [] }) ∧
      (s.hlc.state = .retraining → isRaised .linkDown .linkH t = true) ∧
      (s.hlc.state = .training → isRaised .linkDown .linkH t = isRaised .linkDown .linkH s)
    let isUp := fun (c : LaneSet) (t : State) => t.hlc.state = .up ∧ t.hlc.inUse = some c ∧ t.hlc.training = none ∧
      t.hlc.creditRefresh = some (t.now + 10 * ms) ∧ isRaised .linkDown .linkH t = false ∧
      (c.h0 = true → c.h1 = true → ∀ l, isRaised .linkDegraded (.lane l) t = false) ∧
      (c.h0 = true → c.h1 = false → isRaised .linkDegraded (.lane .h1) t = true) ∧
      (c.h0 = false → isRaised .linkDegraded (.lane .h0) t = true) ∧
      ∀ q : Fin 4, t.hlc.queues[q] = if s.hlc.queues[q].state = .disabled then s.hlc.queues[q]
        else { s.hlc.queues[q] with epoch := (s.hlc.queues[q].epoch + 1) % 256, freed := 0, expected := 0, confirmed := false,
                                    announced := 32 - s.hlc.queues[q].rx.length }
    (s.hlc.retry = none → exec .retryTimerExpiry s = .next s) ∧
    (∀ d, s.hlc.retry = some d → exec .retryTimerExpiry s =
      .next { s with now := max s.now d, hlc := started .training (max s.now d) s.hlc }) ∧
    (∀ d, s.hlc.tsTimer = some d →
      let later := max s.now d
      let x := s.hlc.progress
      let ts : Ts := { role := s.role, fixed := x.good.isSome, good := x.good.getD noLane, ready := x.chosen.isSome,
                       chosen := x.chosen.getD noLane }
      let sends := fun l : LaneCtl => { l with out := if l.bad = true then .silent else .frame (.ts ts) }
      ((∀ c, x.chosen = some c → x.partnerReady ≠ some c) →
        exec .tsSendTimer s = .next { s with now := later, hlc := { s.hlc with
          tsTimer := some (later + 100), lane0 := sends s.hlc.lane0, lane1 := sends s.hlc.lane1,
          progress := { x with readySent := x.readySent || x.chosen.isSome } } }) ∧
      (∀ c, x.chosen = some c → x.partnerReady = some c → ∃ t, exec .tsSendTimer s = .next t ∧ isUp c t ∧
        t.hlc.lane0.out = (sends s.hlc.lane0).out ∧ t.hlc.lane1.out = (sends s.hlc.lane1).out)) ∧
    (∀ d, s.hlc.goodFix = some d → s.hlc.state = .training ∨ s.hlc.state = .retraining →
      let later := max s.now d
      let x := s.hlc.progress
      let good : LaneSet := if x.spent = true then noLane
        else ⟨s.hlc.lane0.good && !s.hlc.lane0.bad, s.hlc.lane1.good && !s.hlc.lane1.bad⟩
      let fixed : State := { s with now := later, hlc := { s.hlc with goodFix := none, progress := { x with good := some good } } }
      (x.partnerGood = none → exec .goodSetFix s = .next fixed) ∧
      (∀ g, x.partnerGood = some g → common good g = noLane → ∃ t, exec .goodSetFix s = .next t ∧ isDown t) ∧
      (∀ g, x.partnerGood = some g → common good g ≠ noLane → x.readySent = false ∨ x.partnerReady ≠ some (common good g) →
        exec .goodSetFix s = .next { fixed with hlc := { fixed.hlc with progress :=
          { x with good := some good, chosen := some (common good g) } } }) ∧
      (∀ g, x.partnerGood = some g → common good g ≠ noLane → x.readySent = true → x.partnerReady = some (common good g) →
        ∃ t, exec .goodSetFix s = .next t ∧ isUp (common good g) t)) ∧
    (∀ d, s.hlc.training = some d → s.hlc.state = .training ∨ s.hlc.state = .retraining →
      ∃ t, exec .trainingTimerExpiry s = .next t ∧ isDown t) ∧
    (∀ (l : Lane) (ts : Ts),
      let heard := some (s.now + 20 * ms)
      let counted := fun x : LaneCtl =>
        { x with tsRun := min 4 (x.tsRun + 1), good := x.good || decide (3 ≤ x.tsRun), loss := heard }
      let noted := fun x : Training => { x with
        roleSeen := true, partnerGood := if ts.fixed = true then some ts.good else x.partnerGood,
        partnerReady := if ts.ready = true then some ts.chosen else x.partnerReady }
      let atLane := fun (h : Hlc) => { h with
        lane0 := if l = Lane.h0 then counted h.lane0 else h.lane0, lane1 := if l = Lane.h1 then counted h.lane1 else h.lane1 }
      (s.hlc.state = .roleMismatch → exec (.tsReceived l ts) s = .next (onLane l ({ · with loss := heard }) s)) ∧
      (s.hlc.state = .down → ts.role ≠ s.role → exec (.tsReceived l ts) s =
        .next { s with hlc := { atLane (started .training s.now s.hlc) with progress := noted Training.initial } }) ∧
      (s.hlc.state = .up → ts.role ≠ s.role → (laneOf s .h0).sending = none → (laneOf s .h1).sending = none →
        exec (.tsReceived l ts) s = .next { s with hlc := { atLane (started .retraining s.now s.hlc) with
          queues := s.hlc.queues.map pended, progress := noted Training.initial } }) ∧
      (s.hlc.state = .training ∨ s.hlc.state = .retraining → s.hlc.progress.roleSeen = false → ts.role = s.role →
        ∃ t, exec (.tsReceived l ts) s = .next t ∧ t.hlc.state = .roleMismatch ∧ t.hlc.training = none ∧
          t.hlc.progress = Training.initial ∧ t.hlc.tsTimer = s.hlc.tsTimer ∧
          isRaised .linkRoleMismatch .linkH t = true ∧
          ∀ q : Fin 4, t.hlc.queues[q] = { pended s.hlc.queues[q] with tx := [] }) ∧
      (s.hlc.state = .training ∨ s.hlc.state = .retraining → s.hlc.progress.roleSeen = true ∨ ts.role ≠ s.role →
        let x := noted s.hlc.progress
        (s.hlc.progress.good = none → s.hlc.progress.chosen = none →
          exec (.tsReceived l ts) s = .next { s with hlc := { atLane s.hlc with progress := x } }) ∧
        let next := fun y : Training => { s with hlc := { atLane s.hlc with progress := y } }
        let forms := s.hlc.progress.chosen = none ∨
          (ts.ready = true ∧ ∃ c, s.hlc.progress.chosen = some c ∧ c ≠ ts.chosen)
        (∀ g k, s.hlc.progress.good = some g → x.partnerGood = some k → forms → common g k ≠ noLane →
          (s.hlc.progress.readySent = false ∨ x.partnerReady ≠ some (common g k) →
            exec (.tsReceived l ts) s = .next (next { x with chosen := some (common g k) })) ∧
          (s.hlc.progress.readySent = true → x.partnerReady = some (common g k) →
            ∃ t, exec (.tsReceived l ts) s = .next t ∧ isUp (common g k) t)) ∧
        (∀ g k, s.hlc.progress.good = some g → x.partnerGood = some k → forms → common g k = noLane →
          ∃ t, exec (.tsReceived l ts) s = .next t ∧ isDown t) ∧
        (∀ c, s.hlc.progress.chosen = some c → ts.ready = false ∨ ts.chosen = c → s.hlc.progress.readySent = false →
          exec (.tsReceived l ts) s = .next (next x)) ∧
        (∀ c, s.hlc.progress.chosen = some c → s.hlc.progress.readySent = true → ts.ready = true → ts.chosen = c →
          ∃ t, exec (.tsReceived l ts) s = .next t ∧ isUp c t)))

/-- R170, R174 to R176: what goes wrong on a lane. While UP the eighth bad frame within a second, or a loss of
symbols while the other lane in use delivers, marks the lane bad and starts a retraining, in which every enabled
queue is PENDING with no credit; at width 1 that retraining is spent, for its good set is empty, and no TS and no
timer of the training then takes the link UP (R174; how the model comes to the width of 0 is log entry 82); a loss
on every lane in use, or on every lane in ROLE-MISMATCH, takes the link DOWN. The operand that says whether the
other lane delivers, and that this counts while UP or RETRAINING only where the other lane is in use, are the
model's choice (log entry 44). That a frame with a length above 8 counts among the bad ones is the model's reading
(log entry 81). -/
def Obligations.LaneFaults : Prop :=
  ∀ (s : State) (l : Lane), s.power = .run →
    let ms := Config.usPerMs
    let x := laneOf s l
    let used := laneSetHas (s.hlc.inUse.getD ⟨false, false⟩)
    let retrains := fun t : State => t.hlc.state = .retraining ∧ (laneOf t l).bad = true ∧
      t.hlc.training = some (t.now + 100 * ms) ∧ t.hlc.progress = { Training.initial with spent := !used (otherLane l) } ∧
      ∀ q : Fin 4, t.hlc.queues[q].credit = 0 ∧ t.hlc.queues[q].rx = s.hlc.queues[q].rx ∧
        (s.hlc.queues[q].state ≠ .disabled → t.hlc.queues[q].state = .pending) ∧
        ((laneOf s .h0).sending ≠ some q → (laneOf s .h1).sending ≠ some q → t.hlc.queues[q].tx = s.hlc.queues[q].tx)
    let spent := fun h : Hlc => h.state = .retraining ∧ h.progress.spent = true ∧ h.progress.chosen = none ∧
      (h.progress.good = none ∨ h.progress.good = some ⟨false, false⟩)
    let noticed := { x with crcError := min 65535 (x.crcError + 1), tsRun := 0, loss := some (s.now + 20 * ms) }
    (s.hlc.state = .down → exec (.linkFrameCrcError l) s =
      .next (onLane l (fun x => { x with crcError := min 65535 (x.crcError + 1), tsRun := 0 }) s)) ∧
    (s.hlc.state ≠ .down → s.hlc.state ≠ .up ∨ used l = false →
      exec (.linkFrameCrcError l) s = .next (onLane l (fun _ => noticed) s)) ∧
    (s.hlc.state = .up → used l = true → x.errors.length < 7 →
      exec (.linkFrameCrcError l) s = .next (onLane l (fun _ => { noticed with errors := x.errors ++ [s.now] }) s)) ∧
    (s.hlc.state = .up → used l = true → 7 ≤ x.errors.length →
      ∃ t, exec (.linkFrameCrcError l) s = .next t ∧ retrains t) ∧
    (spent s.hlc → ∀ (c : Instr) (ts : Ts),
      c = .goodSetFix ∨ c = .tsSendTimer ∨ c = .trainingTimerExpiry ∨ c = .tsReceived l ts →
        ∃ t, exec c s = .next t ∧ (spent t.hlc ∨ t.hlc.state = .down ∨ t.hlc.state = .roleMismatch)) ∧
    (x.errors = [] → exec (.laneErrorAgeOut l) s = .next s) ∧
    (∀ d rest, x.errors = d :: rest → exec (.laneErrorAgeOut l) s =
      .next (onLane l ({ · with errors := rest }) { s with now := max s.now (d + 1000 * ms) })) ∧
    ∀ (d : Nat) (o : Bool), x.loss = some d →
      let other := o = true ∧ used (otherLane l) = true
      (s.hlc.state = .up → used l = true → other → ∃ t, exec (.laneLossTimerExpiry l o) s = .next t ∧ retrains t) ∧
      ((s.hlc.state = .up ∨ s.hlc.state = .retraining) ∧ used l = true ∧ ¬other ∨ s.hlc.state = .roleMismatch ∧ o = false →
        ∃ t, exec (.laneLossTimerExpiry l o) s = .next t ∧ t.hlc.state = .down ∧ t.hlc.inUse = none ∧
          (∀ q : Fin 4, t.hlc.queues[q].tx = [] ∧ t.hlc.queues[q].credit = 0 ∧ t.hlc.queues[q].rx = s.hlc.queues[q].rx) ∧
          (s.hlc.state = .roleMismatch → isRaised .linkRoleMismatch .linkH t = false) ∧
          (s.hlc.state ≠ .roleMismatch → isRaised .linkDown .linkH t = true) ∧
          t.csu.join ≠ .joined ∧ t.csu.join ≠ .holding) ∧
      ((s.hlc.state = .up ∧ used l = false) ∨ (s.hlc.state = .retraining ∧ (used l = false ∨ other)) ∨
          (s.hlc.state = .roleMismatch ∧ o = true) ∨ s.hlc.state = .training →
        exec (.laneLossTimerExpiry l o) s = .next (onLane l ({ · with loss := none }) { s with now := max s.now d }))

/-- R170, R178 to R180: the credits and frames of the H queues. A queue opens once the partner's announce is taken
and the own one confirmed; a DATA frame takes one credit, leaves its queue when sent whole, and on arrival while UP
is placed by the sequence and the own class map, a gap giving its credits back; a switch that is free takes it at
once. One that meets a full queue or another class map is discarded, counted, and its entry given back. Outside UP
it is discarded without count, and one of more than 8 bytes is a bad frame of its lane. That a free count of 33 to
254 is taken as it stands, that a DISABLED queue answers with its current epoch, and that a control frame other than
a return may wait twice, are the model's readings (log entries 35, 42, 43). So is that a frame of more than 8 bytes
enters the error list of its lane (log entry 81). That the freed total is kept mod 256 also in the part is log entry
87, and that an entry freed outside UP places no return is log entry 97. -/
def Obligations.LinkQueuesMove : Prop :=
  ∀ (s : State) (l : Lane) (q : Fin 4), s.power = .run →
    let ms := Config.usPerMs
    let y := s.hlc.queues[q]
    let heard := onLane l (fun x => { x with tsRun := 0, loss := some (s.now + 20 * ms) }) s
    let put := fun (z : LinkQueue) (u : State) => { u with hlc := { u.hlc with queues := u.hlc.queues.set q z } }
    let opens := fun z : LinkQueue => if z.confirmed = true ∧ z.partner ≠ none then { z with state := .opened } else z
    let sendsOn := s.hlc.inUse.bind fun x =>
      if x.h0 = true ∧ x.h1 = true then some (if q.val % 2 = 0 then Lane.h0 else .h1)
      else if x.h0 = true then some .h0 else if x.h1 = true then some .h1 else none
    let places := fun (f : Control) (u : State) => match sendsOn with
      | none => u
      | some k => onLane k (fun x => { x with control := x.control ++ [f] }) u
    let returns := fun (u : State) => match sendsOn with
      | none => u
      | some k => if (laneOf u k).control.contains (.ret q) then u
          else onLane k (fun x => { x with control := x.control ++ [.ret q] }) u
    (s.hlc.state ≠ .up → s.hlc.state ≠ .down → ∀ e v : Byte, exec (.creditAnnounce l q e v) s = .next heard ∧
      exec (.creditConfirm l q e) s = .next heard ∧ exec (.creditReturn l q e v) s = .next heard) ∧
    (s.hlc.state = .up →
      (∀ e v : Byte,
        (y.state = .disabled → exec (.creditAnnounce l q e v) s = .next heard) ∧
        (y.state ≠ .disabled → v = 255 → ∃ free, free = 32 - y.rx.length ∧ exec (.creditAnnounce l q e v) s =
          .next (places (.announce q ((y.epoch + 1) % 256) free) (put { y with
            state := .pending, credit := 0, partner := none, confirmed := false, epoch := (y.epoch + 1) % 256,
            announced := free, freed := 0, expected := 0 } heard))) ∧
        (y.state ≠ .disabled → v ≠ 255 → y.partner = some e.toNat →
          exec (.creditAnnounce l q e v) s = .next (places (.confirm q e.toNat) heard)) ∧
        (y.state ≠ .disabled → v ≠ 255 → y.partner ≠ some e.toNat →
          exec (.creditAnnounce l q e v) s = .next (places (.confirm q e.toNat) (put (opens { y with
            credit := v.toNat, sendSeq := 0, lastReturn := 0, partner := some e.toNat }) heard))) ∧
        (y.state ≠ .disabled → y.epoch = e.toNat →
          exec (.creditConfirm l q e) s = .next (put (opens { y with confirmed := true }) heard)) ∧
        (y.state = .disabled ∨ y.epoch ≠ e.toNat → exec (.creditConfirm l q e) s = .next heard) ∧
        (y.state = .opened → y.partner = some e.toNat →
          exec (.creditReturn l q e v) s = .next (put { y with
            credit := y.credit + (v.toNat + 256 - y.lastReturn) % 256, lastReturn := v.toNat } heard)) ∧
        (y.state ≠ .opened ∨ y.partner ≠ some e.toNat → exec (.creditReturn l q e v) s = .next heard)) ∧
      (∀ (n : Byte) (f : Frame), f.payload.length ≤ 8 →
        let lands := fun u => ∃ t, exec (.data l q n f) s = .next t ∧ ArbiterLooked u t
        let g := (n.toNat + 256 - y.expected) % 256
        let z := { y with expected := (n.toNat + 1) % 256 }
        (y.state = .disabled → lands (places (.announce q y.epoch 255)
          { heard with hlc := { heard.hlc with disabledDrop := min 65535 (s.hlc.disabledDrop + 1) } })) ∧
        (y.state ≠ .disabled → 32 < g → ∃ u, lands u ∧ u.hlc.state = .retraining ∧
          u.hlc.sequenceError = min 65535 (s.hlc.sequenceError + 1) ∧ ∀ j : Fin 4, u.hlc.queues[j].rx = s.hlc.queues[j].rx) ∧
        (y.state ≠ .disabled → g = 0 → classQueue s .h f.cls = q → y.rx.length < 32 →
          lands (put { z with rx := y.rx ++ [f] } heard)) ∧
        (y.state ≠ .disabled → 1 ≤ g → g ≤ 32 → classQueue s .h f.cls = q → y.rx.length < 32 →
          lands (put { z with
            rx := y.rx ++ [f], lostFrames := min 65535 (y.lostFrames + g), freed := (y.freed + g) % 256 } (returns heard))) ∧
        (y.state ≠ .disabled → g = 0 → classQueue s .h f.cls = q → 32 ≤ y.rx.length →
          lands (put { z with
            overrun := min 65535 (y.overrun + 1), freed := (y.freed + 1) % 256 } (returns heard))) ∧
        (y.state ≠ .disabled → 1 ≤ g → g ≤ 32 → classQueue s .h f.cls = q → 32 ≤ y.rx.length →
          lands (put { z with
            lostFrames := min 65535 (y.lostFrames + g), overrun := min 65535 (y.overrun + 1),
            freed := (y.freed + g + 1) % 256 } (returns heard))) ∧
        (y.state ≠ .disabled → 1 ≤ g → g ≤ 32 → classQueue s .h f.cls ≠ q →
          lands (put { z with
            lostFrames := min 65535 (y.lostFrames + g), freed := (y.freed + g + 1) % 256 }
            { returns heard with hlc := { (returns heard).hlc with mapMismatch := min 65535 (s.hlc.mapMismatch + 1) } })) ∧
        (y.state ≠ .disabled → g = 0 → classQueue s .h f.cls ≠ q →
          lands (put { z with freed := (y.freed + 1) % 256 }
            { returns heard with hlc := { (returns heard).hlc with mapMismatch := min 65535 (s.hlc.mapMismatch + 1) } })))) ∧
    (∀ (n : Byte) (f : Frame),
      let z := { laneOf s l with
        tsRun := 0, loss := if s.hlc.state = .down then (laneOf s l).loss else some (s.now + 20 * ms) }
      let now := fun x : LaneCtl => onLane l (fun _ => x) s
      let bad := { z with crcError := min 65535 (z.crcError + 1) }
      (s.hlc.state ≠ .up → f.payload.length ≤ 8 → ∃ t, exec (.data l q n f) s = .next t ∧ ArbiterLooked (now z) t) ∧
      (8 < f.payload.length → s.hlc.state ≠ .up ∨ laneInUse s l = false → exec (.data l q n f) s = .next (now bad)) ∧
      (8 < f.payload.length → s.hlc.state = .up → laneInUse s l = true →
        (z.errors.length < 7 → exec (.data l q n f) s = .next (now { bad with errors := bad.errors ++ [s.now] })) ∧
        (7 ≤ z.errors.length → ∃ t, exec (.data l q n f) s = .next t ∧ t.hlc.state = .retraining ∧
          (laneOf t l).bad = true ∧ t.hlc.progress.spent = !laneInUse s (otherLane l) ∧ (laneOf t l).crcError = bad.crcError))) ∧
    (∀ d, s.hlc.creditRefresh = some d →
      ∃ t, exec .creditRefreshTimerExpiry s = .next t ∧
        t = { s with now := max s.now d, hlc := { s.hlc with
          creditRefresh := some (max s.now d + 10 * ms), lane0 := { s.hlc.lane0 with control := t.hlc.lane0.control },
          lane1 := { s.hlc.lane1 with control := t.hlc.lane1.control } } } ∧
        ∀ (k : Lane) (f : Control), f ∈ (laneOf t k).control ↔ f ∈ (laneOf s k).control ∨
          ∃ j : Fin 4, laneOfQueue s j = some k ∧
            ((s.hlc.queues[j].state ≠ .disabled ∧ s.hlc.queues[j].confirmed = false ∧
              f = .announce j s.hlc.queues[j].epoch s.hlc.queues[j].announced) ∨
             (s.hlc.queues[j].state = .opened ∧ f = .ret j))) ∧
    (s.hlc.state = .up → laneInUse s l = true → (laneOf s l).sending = none →
      (∀ f rest, (laneOf s l).control = f :: rest →
        let sent : LinkFrame := match f with
          | .announce j e v => .announce j e v
          | .confirm j e => .confirm j e
          | .ret j => .ret j s.hlc.queues[j].epoch s.hlc.queues[j].freed
        exec (.linkControlSend l) s = .next (onLane l (fun x => { x with control := rest, out := .frame sent }) s) ∧
        exec (.dataSend l) s = .next s) ∧
      (∀ e rest, (laneOf s l).control = [] → laneOfQueue s q = some l → y.state = .opened → y.tx = e :: rest →
        0 < y.credit → (∀ j : Fin 4, j < q → laneOfQueue s j = some l →
          s.hlc.queues[j].state ≠ .opened ∨ s.hlc.queues[j].tx = [] ∨ s.hlc.queues[j].credit = 0) →
        exec (.dataSend l) s = .next (onLane l (fun x =>
          { x with sending := some q, out := .frame (.data q y.sendSeq e.frame) })
          (put { y with credit := y.credit - 1, sendSeq := (y.sendSeq + 1) % 256 } s)))) ∧
    (s.hlc.state = .up → (laneOf s l).sending = some q →
      exec (.dataSendEnd l) s = .next (onLane l (fun x => { x with sending := none, out := .idleSymbols })
        (put { y with tx := y.tx.drop 1 } s)) ∧
      exec (.dataSend l) s = .next s ∧ exec (.linkControlSend l) s = .next s)

/-- R189, R196, R197, R199: the reads and counters. Each request is answered once by class 9 frames to its node, the
data cut into parts of 6 bytes with bit 7 set on the last part's index, and a part that the port drops is counted;
an argument out of range is BAD-ARGUMENT, a record that does not exist is REFUSED-STATE; after RESET-CORE has been
taken every request is discarded. Said in full: IDENTIFY, the rudder, station, coupling, unit and window records,
the command, switch, port, alarms and management areas, the counters of the units, and the clearing of one unit's
and of every counter. The bytes of the all-stop cause, the layout of a raised alarm and the order in which the
raised set lists them, the helm age, the place of the failed-release mark in a coupling's record and the fields of
the management area are the model's choice (log entry 31).
That the loaded flag and the commit number of the switch area follow the switch while IDENTIFY follows the store is
log entry 70; that a record shows values as stored is log entry 19, a retiring engine record apart (log entry 73);
the presence bytes of the frame in the switch are log entry 31; that the running CRC of a load is its register and the
high bound of a coupling is rounded down are log entries 92 and 93; that a time left and a helm age are rounded down to
whole milliseconds is log entry 95. -/
def Obligations.ReadRequests : Prop :=
  ∀ (s : State) (n : Node), s.power = .run →
    (s.mgu.resetting = true → ∀ (f : Frame) (a b : Byte) (v : BitVec 16) (w : BitVec 32) (l : List Byte),
      ∀ c ∈ ([.identify n, .readRecord n a b, .readStatus n a, .counterRead n a, .counterClear n a, .clearSticky n,
        .bankErase n a b, .bankBlankCheck n a b, .loadBegin n a b v, .loadData n v l, .loadEnd n w, .bankCommit n a,
        .bankLock n a b, .bankUnlock n a b, .voyageOpen n a w, .voyageClose n, .bunker n a w, .setLineup n a b,
        .makeupConfirm n, .resetCore n, .malformedRequest f] : List Instr), exec c s = .next s) ∧
    (s.mgu.resetting = false →
      let q := classQueue s .w 9
      let entry := fun (k : BitVec 6) (p : List Byte) =>
        ({ frame := { cls := 9, node := n, kind := k, payload := p }, origin := .mgu } : TxEntry)
      let sent := fun (k : BitVec 6) (parts : List (List Byte)) =>
        { s with pcw := { s.pcw with tx := updAt s.pcw.tx q (· ++ parts.map (entry k)) } }
      let two := fun v : Nat => [BitVec.ofNat 8 (v / 256), BitVec.ofNat 8 v]
      let signed := fun v : Int => two (v % 65536).toNat
      let bit := fun b : Bool => if b = true then (1 : Byte) else 0
      let station := fun x : Option (Fin 4) => x.elim ([0, 0] : List Byte) fun i => [1, BitVec.ofNat 8 i.val]
      let loaded := fun k : Fin 5 => if s.nvs.active[k] = none then 0 else 1
      let room := fun k : Nat => s.pcw.state ≠ .isolated ∧ s.pcw.tx[q].length + k ≤ 16
      (room 1 → exec (.identify n) s = .next (sent 1 [[0, 128, 1, 154, if s.role = .lead then 0 else 1,
        BitVec.ofNat 8 (loaded 0 + 2 * loaded 1 + 4 * loaded 2 + 8 * loaded 3 + 16 * loaded 4),
        BitVec.ofNat 8 (match s.mgu.load with | none => 0 | some c => (kindIx c.bank.kind).val + 1),
        BitVec.ofNat 8 (match s.mgu.slot with | none => 0 | some r => longKind r.op)]])) ∧
      (room 2 → exec (.counterRead n 5) s = .next (sent 4
        [[0, 0] ++ two s.csu.helmClamp ++ two s.csu.helmRepeat ++ two s.csu.unknownNode,
         [0, 129] ++ two s.csu.class7Ignored])) ∧
      (∀ i : Byte, room 1 → 8 ≤ i.toNat → exec (.readRecord n 5 i) s = .next (sent 2 [[9, 128]])) ∧
      (∀ t i : Byte, room 1 → 8 ≤ t.toNat → exec (.readRecord n t i) s = .next (sent 2 [[9, 128]])) ∧
      (∀ i : Byte, room 1 → i.toNat < 48 → (∀ u ∈ s.cmu.units, u.entry.id ≠ i.toNat) →
        exec (.readRecord n 4 i) s = .next (sent 2 [[8, 128]])) ∧
      (∀ (i : Byte) (k : Nat) (u : TowUnit), room 1 → i.toNat < 48 → s.cmu.units[k]? = some u → u.entry.id = i.toNat →
        (∀ (j : Nat) (z : TowUnit), j < k → s.cmu.units[j]? = some z → z.entry.id ≠ i.toNat) →
        exec (.readRecord n 4 i) s = .next (sent 2 [[0, 128, i, BitVec.ofNat 8 u.entry.row, BitVec.ofNat 8 u.entry.column,
          BitVec.ofNat 8 (match u.entry.kind with | .ownBoat => 0 | .helperBoat => 1 | .bargeLoaded => 2 | .bargeEmpty => 3),
          bit u.attached]])) ∧
      (∀ i : Byte, room 1 → s.cmu.couplings.length ≤ i.toNat → i.toNat < 62 →
        exec (.readRecord n 3 i) s = .next (sent 2 [[8, 128]])) ∧
      (∀ i : Byte, room 1 → s.fau.meters.length ≤ i.toNat → i.toNat < 12 →
        exec (.readRecord n 6 i) s = .next (sent 2 [[8, 128]])) ∧
      (exec (.readStatus n 0) s = .next (respond n 3 .ok
          (station s.csu.inCommand ++ [match s.csu.phase with | .fresh => (0 : Byte) | .hold => 1 | .zero => 2] ++
            station s.csu.request ++ [bit s.csu.allStop.isSome] ++
            (match s.csu.allStop with | none => ([0, 0] : List Byte) | some .busBreak => [1, 0] | some (.station i) => [1, BitVec.ofNat 8 (1 + i.val)]) ++
            signed s.csu.dAp ++ signed s.csu.dStar ++ signed s.csu.tStar ++
            [match s.csu.join with | .localMode => (0 : Byte) | .offering => 1 | .joined => 2 | .holding => 3]) s)) ∧
      (∀ a : Byte, room 1 → 11 ≤ a.toNat → exec (.readStatus n a) s = .next (sent 3 [[9, 128]]) ∧
        exec (.counterRead n a) s = .next (sent 4 [[9, 128]])) ∧
      (s.pcw.state = .isolated → exec (.identify n) s = .next { s with
        pcw := { s.pcw with flushDrop := min 65535 (s.pcw.flushDrop + 1) },
        mgu := { s.mgu with responseDrop := min 65535 (s.mgu.responseDrop + 1) } }) ∧
      (s.pcw.state ≠ .isolated → 16 ≤ s.pcw.tx[q].length → exec (.identify n) s = .next { s with
        pcw := { s.pcw with txDrop := updAt s.pcw.txDrop q fun k => min 65535 (k + 1) },
        mgu := { s.mgu with responseDrop := min 65535 (s.mgu.responseDrop + 1) } }) ∧
      (s.pcw.state ≠ .isolated → s.pcw.tx[q].length = 15 → exec (.counterRead n 5) s = .next { s with
        pcw := { s.pcw with
          tx := updAt s.pcw.tx q (· ++ [entry 4 ([0, 0] ++ two s.csu.helmClamp ++ two s.csu.helmRepeat ++ two s.csu.unknownNode)]),
          txDrop := updAt s.pcw.txDrop q fun k => min 65535 (k + 1) },
        mgu := { s.mgu with responseDrop := min 65535 (s.mgu.responseDrop + 1) } }) ∧
      (let number := fun (w : Nat) (v : Int) => (List.range w).map fun k =>
         BitVec.ofNat 8 ((v % (256 ^ w : Nat)).toNat / 256 ^ (w - 1 - k))
       let held := fun (w : Nat) (x : Option (List Byte)) => x.elim (List.replicate (w + 1) (0 : Byte)) (1 :: ·)
       let byte := fun v : Nat => BitVec.ofNat 8 v
       let ports := fun x : PortSet => byte (x.w.toNat + 2 * x.p.toNat + 4 * x.k.toNat + 8 * x.h.toNat)
       let state : CouplingState → Byte := fun
         | .slack => 1 | .loaded => 2 | .high => 3 | .over => 4 | .silent => 5 | .parted => 6 | .releasing => 7 | .released => 8
       let action : WindowAction → Byte := fun
         | .deliver => 0 | .forward => 1 | .deliverAndForward => 2 | .drop => 3
       let when' := fun t : Nat => number 4 ((t - s.origin) / 1000 : Nat)
       (∀ t, s.tau.alloc = some t →
         (∀ i : Fin 3,
           let e := t.rudders[i]
           let r := s.piu.rudders[i]
           exec (.readRecord n 1 (byte i.val)) s = .next (respond n 2 .ok ([byte i.val, bit e.configured, byte e.setNode,
             byte e.fbNode, bit e.fromXs,
             match r.avail with | .unconfigured => (0 : Byte) | .lost => 1 | .available => 2] ++ held 2 (r.angle.map (number 2)) ++
             held 2 (r.feedback.map fun f => number 2 f.angle) ++ held 4 (r.feedback.map fun f => when' f.time)) s)) ∧
         ∀ i : Fin 4,
           let e := t.stations[i]
           let r := s.csu.stations[i]
           exec (.readRecord n 2 (byte i.val)) s = .next (respond n 2 .ok ([bit e.configured, byte e.node,
             match e.kind with | .manual => (0 : Byte) | .autopilot => 1, bit e.force,
             match r.state with | .absent => (0 : Byte) | .present => 1 | .inCommand => 2 | .requesting => 3, bit r.silent] ++
             held 2 (r.last.map fun h => number 2 h.d) ++ held 2 (r.last.map fun h => number 2 h.t) ++
             held 2 (r.last.map fun h => number 2 h.seq) ++
             held 4 (r.last.map fun h => number 4 ((s.now - h.time) / 1000 : Nat))) s)) ∧
       (∀ (i : Byte) (c : Coupling), i.toNat < 62 → s.cmu.couplings[i.toNat]? = some c →
         let e := c.entry
         let limit := max 1 (min e.limit 4000)
         exec (.readRecord n 3 i) s = .next (respond n 2 .ok ([byte e.node, byte e.unitA, byte e.unitB,
           match e.kind with | .face => (0 : Byte) | .foreAft => 1 | .side => 2 | .cross => 3] ++ number 2 e.limit ++
           number 2 (e.threshold.getD 65535) ++ [bit e.locked,
           state c.state] ++ held 2 (c.tension.map fun v : Nat => number 2 v) ++
           held 1 (c.brake.map fun b => [bit b]) ++ held 1 (c.hook.map fun b => [bit b]) ++ number 2 c.missed ++
           number 2 c.good ++ [bit c.failed] ++ number 2 (limit * max 0 (min s.cmu.params.slack 1000) / 1000 : Nat) ++
           number 2 (limit * max 0 (min s.cmu.params.part 1000) / 1000 : Nat) ++ number 2 (4 * limit / 5 : Nat)) s)) ∧
       (∀ (i : Fin 32) (t : WindowTable), s.fsw.table = some t →
         let w := t.windows[i]
         exec (.readRecord n 7 (byte i.val)) s = .next (respond n 2 .ok ([bit w.valid, ports w.ingress] ++ number 2 w.base ++
           number 2 w.limit ++ [action w.action, ports w.egress, byte w.offset]) s)) ∧
       (exec (.readStatus n 4) s = .next (respond n 3 .ok ([bit s.fsw.table.isSome] ++
         held 4 (s.fsw.table.map fun _ => number 4 s.fsw.commit) ++ [bit s.fsw.swapWaiting] ++
         held 1 (s.fsw.inSwitch.map fun x => [byte (portIx x.ingress).val]) ++
         held 2 (s.fsw.inSwitch.map fun x => number 2 (headerOf x.frame).toNat) ++ [byte (portIx s.fsw.lastServed).val] ++
         ([s.pcw, s.pcp, s.pck].flatMap fun c => (List.finRange 4).flatMap fun j => number 2 c.rx[j].length) ++
         (List.finRange 4).flatMap fun j =>
           number 2 (if s.hlc.queues[j].state = .disabled then 0 else s.hlc.queues[j].rx.length : Nat)) s)) ∧
       (∀ (a : Byte) (seg : Segment), (a = 6 ∧ seg = .w) ∨ (a = 7 ∧ seg = .p) ∨ (a = 8 ∧ seg = .k) →
         let c := s.port seg
         exec (.readStatus n a) s = .next (respond n 3 .ok
           ((match c.state with | .run => (0 : Byte) | .isolated => 1 | .restart => 2) ::
             held 4 (c.isolation.map fun d => number 4 ((d - s.now) / 1000 : Nat)) ++
             ((List.finRange 4).flatMap fun j => number 2 c.rx[j].length) ++
             ((List.finRange 4).flatMap fun j => number 2 c.tx[j].length) ++
             ((List.finRange 4).map fun j => bit c.overrunFlag[j]) ++
             if seg = .k then [bit c.window.isSome] else []) s)) ∧
       (exec (.readStatus n 9) s = .next (respond n 3 .ok (s.mgu.sticky.toList.map bit ++
         byte s.mgu.raised.length :: s.mgu.raised.flatMap fun x =>
           let named := fun (type : Byte) (k : Nat) => type :: 1 :: number 2 k
           byte (alarmIx x.1).val :: match x.2 with
             | .none => [0, 0, 0, 0]
             | .station i => named 1 i.val
             | .engine i => named 2 i.val
             | .rudder i => named 3 i.val
             | .coupler k => named 4 k
             | .unit k => named 5 k
             | .tank i => named 6 i.val
             | .meter k => named 7 k
             | .port seg => named 8 (portIx (segPort seg)).val
             | .linkH => named 8 3
             | .portQueue seg j => named 9 (4 * (portIx (segPort seg)).val + j.val)
             | .lane y => named 10 (if y = .h0 then 0 else 1)
             | .slot i => named 11 i.val) s)) ∧
       (exec (.readStatus n 10) s = .next (respond n 3 .ok (
         held 1 (s.mgu.slot.map fun r => [match r.op with
           | .erase _ => (6 : Byte)
           | .blankCheck _ => 7
           | .loadBegin _ _ => 8
           | .loadData _ => 9
           | .loadEnd => 10
           | .commit _ => 11
           | .lock _ => 12
           | .unlock _ => 13
           | .voyageClose => 15]) ++
         held 14 (s.mgu.load.map fun c => [byte (kindIx c.bank.kind).val, bit c.bank.isB] ++ number 2 c.node.toNat ++
           number 2 c.count ++ number 2 c.next ++ number 2 c.taken ++ number 4 c.crc.toNat) ++
         held 5 (s.mgu.assembly.map fun y => number 2 y.number ++ number 2 (y.soundings.length + 1 : Nat) ++
           byte y.soundings.length :: y.soundings.flatMap fun v : Nat => number 4 v)) s)) ∧
       ∀ (a : Byte) (l : List Nat),
         (a = 4 ∧ l = s.fsw.windowDrop.toList ++ s.fsw.defaultDrop.toList ++ s.fsw.undeliverable.toList ++
           s.fsw.refused.toList ++ s.fsw.egressDrop.toList) ∨
         (a = 6 ∧ l = [s.piu.unknownFeedback, s.piu.malformedFeedback, s.piu.unackedSetpoint, s.piu.hDiscarded]) ∨
         (a = 7 ∧ l = [s.cmu.roundOverrun, s.cmu.malformedReport, s.cmu.unsolicitedReport, s.cmu.tensionClamp,
           s.cmu.coalesced]) ∨
         (a = 8 ∧ l = [s.fau.unknownMeter, s.fau.malformedMeter, s.fau.jump, s.fau.temperatureClamp, s.fau.carryBound]) ∨
         (a = 9 ∧ l = [s.nvs.replacedSnapshot, s.nvs.eraseSuspend, s.nvs.slotFailure]) ∨
         (a = 10 ∧ l = [s.mgu.malformedRequest, s.mgu.responseDrop, s.mgu.statusDrop]) →
         exec (.counterRead n a) s = .next (respond n 4 .ok (l.flatMap fun v : Nat => number 2 v) s)) ∧
      (let zero : Vector Nat 4 := Vector.replicate 4 0
       let port := fun c : PortCtl => { c with
         crcError := 0, busError := 0, arbitrationLoss := 0, ackFailure := 0, flushDrop := 0, txDrop := zero, overrun := zero,
         breaks := 0 }
       exec (.counterClear n 255) s = .next (respond n 5 .ok [] { s with
         pcw := port s.pcw, pcp := port s.pcp, pck := port s.pck,
         hlc := { s.hlc with
           lane0 := { s.hlc.lane0 with crcError := 0 }, lane1 := { s.hlc.lane1 with crcError := 0 },
           queues := s.hlc.queues.map fun y => { y with lostFrames := 0, overrun := 0, txDrop := 0 },
           sequenceError := 0, mapMismatch := 0, disabledDrop := 0, flushDrop := 0 },
         fsw := { s.fsw with
           windowDrop := zero, defaultDrop := zero, undeliverable := zero, refused := zero, egressDrop := zero },
         csu := { s.csu with helmClamp := 0, helmRepeat := 0, unknownNode := 0, class7Ignored := 0 },
         piu := { s.piu with unknownFeedback := 0, malformedFeedback := 0, unackedSetpoint := 0, hDiscarded := 0 },
         cmu := { s.cmu with
           roundOverrun := 0, malformedReport := 0, unsolicitedReport := 0, tensionClamp := 0, coalesced := 0 },
         fau := { s.fau with unknownMeter := 0, malformedMeter := 0, jump := 0, temperatureClamp := 0, carryBound := 0 },
         nvs := { s.nvs with replacedSnapshot := 0, eraseSuspend := 0, slotFailure := 0 },
         mgu := { s.mgu with malformedRequest := 0, responseDrop := 0, statusDrop := 0 } })) ∧
      exec (.counterClear n 5) s = .next (respond n 5 .ok [] { s with csu := { s.csu with
        helmClamp := 0, helmRepeat := 0, unknownNode := 0, class7Ignored := 0 } }) ∧
      exec (.counterClear n 9) s = .next (respond n 5 .ok [] { s with nvs := { s.nvs with
        replacedSnapshot := 0, eraseSuspend := 0, slotFailure := 0 } }) ∧
      (∀ a : Byte, 11 ≤ a.toNat → a ≠ 255 → exec (.counterClear n a) s = .next (respond n 5 .badArgument [] s)) ∧
      (∀ f : Frame,
        let k := f.kind.toNat
        let v := f.payload.length
        k = 0 ∨ 20 < k ∨ (k ∈ [1, 6, 16, 19, 20] ∧ v ≠ 0) ∨ (k ∈ [3, 4, 5, 12] ∧ v ≠ 1) ∨
          (k ∈ [2, 7, 8, 13, 14, 18] ∧ v ≠ 2) ∨ (k ∈ [9, 11] ∧ v ≠ 4) ∨ (k = 17 ∧ v ≠ 5) ∨ (k = 10 ∧ v ≠ 8) ∨
          (k = 15 ∧ v ≠ 3 ∧ v ≠ 5) →
        exec (.malformedRequest f) s = .next (respond f.node k .badArgument []
          { s with mgu := { s.mgu with malformedRequest := min 65535 (s.mgu.malformedRequest + 1) } })))

/-- R79, R81, R139, R199 to R202: what the management unit does by itself or for the part as a whole: CLEAR-STICKY,
MAKEUP-CONFIRM, RESET-CORE, the SUMMARY each second, and the ALARM frame of every raise and of every clear, with its
code, its subject and the count of subjects then raised, sent or dropped and counted; a raise sets the sticky flag
of its code. Every raise and clear of the model is `raiseAlarm` or `clearAlarm`; one by a command, RUDDER-FAULT, is
written out. A RESET-CORE ends the operation of a busy slot without a response as it is taken (the moment is the
model's choice, log entry 51). The marks that an interruption leaves on a bank, torn and a mark word that is not
good, are the model's choice (log entry 48). That the response goes behind the ALARM frames of CLEAR-STICKY and
MAKEUP-CONFIRM is the model's reading (log entry 8), and that a raised pair stands last in the raised set is log entry
31. Of a SUMMARY that the PCW drops at a full queue nothing is said. -/
def Obligations.PartRequests : Prop :=
  ∀ (s : State) (n : Node), s.power = .run →
    let q9 := classQueue s .w 9
    let q12 := classQueue s .w 12
    let two := fun v : Nat => [BitVec.ofNat 8 (v / 256), BitVec.ofNat 8 v]
    let signed := fun v : Int => two (v % 65536).toNat
    let faulty := s.cmu.causes.breakaway = true ∨ s.cmu.causes.makeupCommit = true ∨ s.cmu.causes.couplingCommit = true
    (s.mgu.resetting = false →
      (∃ t, exec (.clearSticky n) s = .next t ∧
        (∀ i : Fin 4, t.pcw.overrunFlag[i] = false ∧ t.pcp.overrunFlag[i] = false ∧ t.pck.overrunFlag[i] = false) ∧
        (∀ j, isRaised .queueOverrun j t = false) ∧
        (∀ a j, a ≠ .queueOverrun → isRaised a j t = isRaised a j s) ∧
        (∀ i : Fin 27, t.mgu.sticky[i] = true ↔
          s.mgu.sticky[i] = true ∧ ∃ x ∈ s.mgu.raised, x.1 ≠ .queueOverrun ∧ alarmIx x.1 = i) ∧
        Told { s with pcw := { s.pcw with overrunFlag := t.pcw.overrunFlag },
                      pcp := { s.pcp with overrunFlag := t.pcp.overrunFlag },
                      pck := { s.pck with overrunFlag := t.pck.overrunFlag } } t ∧
        ∃ u, t = respond n 6 .ok [] u ∧
          Told { s with pcw := { s.pcw with overrunFlag := t.pcw.overrunFlag },
                        pcp := { s.pcp with overrunFlag := t.pcp.overrunFlag },
                        pck := { s.pck with overrunFlag := t.pck.overrunFlag } } u) ∧
      (¬faulty → exec (.makeupConfirm n) s = .next (respond n 19 .refusedState [] s)) ∧
      (faulty → ∃ t, exec (.makeupConfirm n) s = .next t ∧ (∀ j, isRaised .breakaway j t = false) ∧
        Told { s with cmu := { s.cmu with causes := ⟨false, false, false⟩, breakaways := [] } } t ∧
        ∃ u, t = respond n 19 .ok [] u ∧
          Told { s with cmu := { s.cmu with causes := ⟨false, false, false⟩, breakaways := [] } } u) ∧
      (s.mgu.slot ≠ none → s.pcw.state ≠ .isolated → s.pcw.tx[q9].length < 16 →
        (∀ w, s.nvs.waiting = some w → s.nvs.newest.elim 0 (·.seq) < 4294967294) →
        ∃ t, exec (.resetCore n) s = .next t ∧ t.power = .run ∧ t.mgu.resetting = true ∧ t.mgu.slot = none ∧
          t.nvs.suspended = none ∧ t.nvs.waitingOp = none ∧ t.nvs.active = s.nvs.active ∧ t.nvs.newest = s.nvs.newest ∧
          (∀ e, s.nvs.suspended = some e → t.nvs.banks[bankIx e.bank].torn = true) ∧
          (∀ op d, s.nvs.current = some ⟨op, d⟩ → op = .slotErase ∨ op = .slotProgram →
            t.nvs.current = s.nvs.current ∧ t.nvs.checkpoint = s.nvs.checkpoint ∧ t.nvs.waiting = s.nvs.waiting) ∧
          (∀ op d, s.nvs.current = some ⟨op, d⟩ → op ≠ .slotErase → op ≠ .slotProgram →
            (s.nvs.waiting = none → t.nvs.current = none ∧ t.pcw = { s.pcw with tx := updAt s.pcw.tx q9 (· ++
              [{ frame := { cls := 9, node := n, kind := 20, payload := [0, 128] }, origin := .mguReset }]) }) ∧
            (s.nvs.waiting ≠ none →
              t.nvs.current = some ⟨.slotErase, s.now + 60 * Config.usPerMs⟩ ∧ t.nvs.waiting = none) ∧
            (∀ b, op = .bankErase b ∨ (∃ o l, op = .loadProgram b o l) ∨ (∃ v x, op = .headerFields b v x) →
              t.nvs.banks[bankIx b].torn = true) ∧
            (∀ b v, op = .markWord b v → markGood t.nvs.banks[bankIx b] = false) ∧
            ∀ b, op = .lockProgram b ∨ op = .lockErase b → t.nvs.flags[bankIx b] = .partly ∧ t.nvs.locked[bankIx b] = true)) ∧
      (s.mgu.slot = none → s.pcw.state ≠ .isolated → s.pcw.tx[q9].length < 16 →
        exec (.resetCore n) s = .next { s with
          mgu := { s.mgu with resetting := true },
          pcw := { s.pcw with tx := updAt s.pcw.tx q9 (· ++
            [{ frame := { cls := 9, node := n, kind := 20, payload := [0, 128] }, origin := .mguReset }]) } }) ∧
      (s.pcw.state = .isolated ∨ 16 ≤ s.pcw.tx[q9].length →
        ∃ t, exec (.resetCore n) s = .next t ∧ t.power = .coreReset ∧ t.fau.voyage = s.fau.voyage ∧
          (∀ i : Fin 27, s.mgu.sticky[i] = true → t.mgu.sticky[i] = true) ∧
          (s.mgu.slot = none → t.mgu.sticky = s.mgu.sticky) ∧ t.nvs.current = none)) ∧
    (∀ d, s.mgu.summary = some d →
      let later := max s.now d
      let joined := s.csu.join = .joined ∨ s.csu.join = .holding
      let payload : List Byte :=
        signed s.tau.dEff ++ signed s.tau.tEff ++ two s.cmu.headroom ++
        [BitVec.ofNat 8 (s.cmu.nAtt % 64 + (if s.csu.allStop = none then 0 else 64) + (if joined then 128 else 0)),
         BitVec.ofNat 8 ((match s.csu.inCommand with | none => 4 | some i => i.val) +
           8 * (match s.hlc.state with | .down => 0 | .training => 1 | .up => 2 | .retraining => 3 | .roleMismatch => 4) +
           if faulty then 64 else 0)]
      let summary : Frame := { cls := 12, node := 0, kind := 2, payload := payload }
      (s.pcw.state ≠ .isolated → s.pcw.tx[q12].length < 16 →
        exec .summaryTimerExpiry s = .next { s with
          now := later, mgu := { s.mgu with summary := some (later + 1000 * Config.usPerMs) },
          pcw := { s.pcw with tx := updAt s.pcw.tx q12 (· ++ [{ frame := summary, origin := .mgu }]) } }) ∧
      (s.pcw.state = .isolated → exec .summaryTimerExpiry s = .next { s with
        now := later, mgu := { s.mgu with summary := some (later + 1000 * Config.usPerMs),
                                          statusDrop := min 65535 (s.mgu.statusDrop + 1) },
        pcw := { s.pcw with flushDrop := min 65535 (s.pcw.flushDrop + 1) } })) ∧
    (let named : List Alarm := [.commandStale, .helperUnjoined, .noPropulsion, .engineLost, .engineFault, .engineWarning, .rudderLost,
       .rudderFault, .couplingHigh, .couplingOver, .couplingSilent, .couplingParted, .breakaway, .releaseFailed, .meterFault,
       .fuelDisagree, .tankReserve, .tankEmpty, .tankOverfull, .fuelSat, .storeFail, .accountGap, .queueOverrun, .portIsolated,
       .linkDown, .linkDegraded, .linkRoleMismatch]
     let bytes : Subject → List Byte := fun j => match j with
       | .none => [0, Config.noSubject]
       | .station i => [1, BitVec.ofNat 8 i.val] | .engine i => [2, BitVec.ofNat 8 i.val] | .rudder i => [3, BitVec.ofNat 8 i.val]
       | .coupler v => [4, BitVec.ofNat 8 v] | .unit v => [5, BitVec.ofNat 8 v] | .tank i => [6, BitVec.ofNat 8 i.val]
       | .meter v => [7, BitVec.ofNat 8 v] | .port .w => [8, 0] | .port .p => [8, 1] | .port .k => [8, 2] | .linkH => [8, 3]
       | .portQueue .w i => [9, BitVec.ofNat 8 i.val] | .portQueue .p i => [9, BitVec.ofNat 8 (4 + i.val)]
       | .portQueue .k i => [9, BitVec.ofNat 8 (8 + i.val)] | .lane .h0 => [10, 0] | .lane .h1 => [10, 1]
       | .slot i => [11, BitVec.ofNat 8 i.val]
     ∀ (a : Alarm) (j : Subject) (k : Fin 27), named[k.val]? = some a →
       let l := s.mgu.raised
       let on : List (Alarm × Subject) := l ++ [(a, j)]
       let off := l.filter (· ≠ (a, j))
       let raising : Mgu := { s.mgu with raised := on, sticky := s.mgu.sticky.set k true }
       let clearing : Mgu := { s.mgu with raised := off }
       let frame := fun (v : Byte) (x : List (Alarm × Subject)) =>
         ({ frame := { cls := 12, node := 0, kind := 3, payload :=
              [BitVec.ofNat 8 (if k.val < 13 then k.val + 1 else k.val + 2), v] ++ bytes j ++
                [BitVec.ofNat 8 (min 255 (x.countP (fun y => y.1 == a)))] }, origin := .mgu } : TxEntry)
       let told := fun (v : Byte) (x : List (Alarm × Subject)) (m : Mgu) (t : State) =>
         let dropped : Mgu := { m with statusDrop := min 65535 (m.statusDrop + 1) }
         (s.pcw.state ≠ .isolated → s.pcw.tx[q12].length < 16 →
           t = { s with mgu := m, pcw := { s.pcw with tx := updAt s.pcw.tx q12 (· ++ [frame v x]) } }) ∧
         (s.pcw.state ≠ .isolated → 16 ≤ s.pcw.tx[q12].length →
           t = { s with mgu := dropped, pcw := { s.pcw with txDrop := updAt s.pcw.txDrop q12 (fun y => min 65535 (y + 1)) } }) ∧
         (s.pcw.state = .isolated →
           t = { s with mgu := dropped, pcw := { s.pcw with flushDrop := min 65535 (s.pcw.flushDrop + 1) } })
       (isRaised a j s = true → raiseAlarm a j s = s) ∧ (isRaised a j s = false → clearAlarm a j s = s) ∧
       (isRaised a j s = false → told 1 on raising (raiseAlarm a j s)) ∧
       (isRaised a j s = true → told 0 off clearing (clearAlarm a j s))) ∧
    ∀ (i : Fin 3) (d : Nat), s.piu.rudders[i].deviation = some d → isRaised .rudderFault (.rudder i) s = false →
      s.pcw.state ≠ .isolated → s.pcw.tx[q12].length < 16 →
      let count := min 255 (s.mgu.raised.countP (fun x => x.1 == .rudderFault) + 1)
      exec (.deviationTimerExpiry i) s = .next { s with
        now := max s.now d,
        piu := { s.piu with rudders := updAt s.piu.rudders i ({ · with deviation := none }) },
        mgu := { s.mgu with raised := s.mgu.raised ++ [(.rudderFault, .rudder i)], sticky := s.mgu.sticky.set 7 true },
        pcw := { s.pcw with tx := updAt s.pcw.tx q12 (· ++ [{
          frame := { cls := 12, node := 0, kind := 3, payload := [8, 1, 3, BitVec.ofNat 8 i.val, BitVec.ofNat 8 count] },
          origin := .mgu }]) } }
end

