-- ==== Sys2Proof/Laws/Arbiter.lean ====
section
/-! SUPPORT. What the arbiter of the switch can do, said once: `arbiterTake` answers a state that `ArbiterLooked` describes
(R153, R154, R180). -/

namespace Sys2Proof.Machine

variable {a : State}

theorem framesAt_eq_rxOf (n : PortName) (q : Fin 4) : framesAt a n q = rxOf a n q := by
  unfold framesAt rxOf; cases n <;> rfl

theorem nextOf_of_empty {n : PortName} (h : ∀ j, rxOf a n j = []) : nextOf a n = none := by
  unfold nextOf; simp [List.finRange, h]

theorem nextOf_of_head {n : PortName} {q : Fin 4} {f : Frame} {rest : List Frame} (h : rxOf a n q = f :: rest)
    (hj : ∀ j, j < q → rxOf a n j = []) : nextOf a n = some (n, q, f) := by
  unfold nextOf
  rw [show List.finRange 4 = [0, 1, 2, 3] by decide]
  match q, h, hj with
  | 0, h, _ => simp [h]
  | 1, h, hj => simp [h, hj 0 (by decide)]
  | 2, h, hj => simp [h, hj 0 (by decide), hj 1 (by decide)]
  | 3, h, hj => simp [h, hj 0 (by decide), hj 1 (by decide), hj 2 (by decide)]

theorem nextTurn_of_head {n : PortName} {q : Fin 4} {f : Frame} {rest : List Frame} (h : rxOf a n q = f :: rest)
    (hj : ∀ j, j < q → rxOf a n j = []) (hm : ∀ m j, turnOf a m < turnOf a n → rxOf a m j = []) :
    nextTurn a = some (n, q, f) := by
  have hn := nextOf_of_head h hj
  have hz : ∀ m, turnOf a m < turnOf a n → nextOf a m = none := fun m x => nextOf_of_empty fun j => hm m j x
  unfold nextTurn turnsAfter
  unfold turnOf at hz
  generalize a.fsw.lastServed = x at *
  have hw := hz .w
  have hp := hz .p
  have hk := hz .k
  have hh := hz .h
  cases x <;> cases n <;> simp [portIx] at hw hp hk hh ⊢ <;> simp [*]

theorem laneOfQueue_of_inUse {b : State} (h : b.hlc.inUse = a.hlc.inUse) (q : Fin 4) :
    laneOfQueue b q = laneOfQueue a q := by
  unfold laneOfQueue; rw [h]

/-- The entry that a take frees at the link (R154, R180). -/
theorem freeEntry_link {q : Fin 4} {f : Frame} {rest : List Frame} (hd : a.hlc.queues[q].state ≠ .disabled)
    (h : a.hlc.queues[q].rx = f :: rest) :
    let owes := fun (l : Lane) (c : LaneCtl) =>
      if a.hlc.state = .up ∧ laneOfQueue a q = some l ∧ Control.ret q ∉ c.control
      then { c with control := c.control ++ [.ret q] } else c
    freeEntry .h q a = { a with hlc := { a.hlc with
      queues := updAt a.hlc.queues q fun y => { y with rx := rest, freed := (y.freed + 1) % 256 },
      lane0 := owes .h0 a.hlc.lane0, lane1 := owes .h1 a.hlc.lane1 } } := by
  unfold freeEntry addFreed placeReturn onQueue
  simp only [State.onHlc]
  have e1 : (updAt (updAt a.hlc.queues q fun y => { y with rx := y.rx.drop 1 }) q
      fun x => { x with freed := (x.freed + 1) % 256 }) =
      updAt a.hlc.queues q fun y => { y with rx := rest, freed := (y.freed + 1) % 256 } := by
    have h' : a.hlc.queues[q.val].rx = f :: rest := h
    simp [updAt, h']
  have e2 : (updAt a.hlc.queues q fun y => { y with rx := rest, freed := (y.freed + 1) % 256 })[q].state =
      a.hlc.queues[q].state := by simp [updAt]
  simp only [e1, e2]
  by_cases hu : a.hlc.state = .up
  · rw [if_pos ⟨hu, hd⟩]
    cases hl : laneOfQueue a q with
    | none => rw [laneOfQueue_of_inUse (a := a), hl] <;> simp
    | some z =>
      rw [laneOfQueue_of_inUse (a := a), hl] <;> [skip; rfl]
      cases z <;> simp [laneOf, onLane, State.onHlc, hu] <;> split <;> simp_all
  · simp [hu]

/-- R153, R154: what `arbiterTake` can do. -/
theorem arbiterTake_looked (a : State) : ArbiterLooked a (arbiterTake a) := by
  refine ⟨?_, ?_⟩
  · rintro (h | h)
    · unfold arbiterTake
      cases hx : a.fsw.inSwitch with
      | none => exact absurd hx h
      | some x => rfl
    · have hn : nextTurn a = none := by
        simp only [framesAt_eq_rxOf] at h
        unfold nextTurn turnsAfter
        cases a.fsw.lastServed <;> simp [nextOf_of_empty (h _)]
      unfold arbiterTake
      rw [hn]
      cases a.fsw.inSwitch <;> rfl
  · intro n q f rest h0 h hj hm
    simp only [framesAt_eq_rxOf] at h hj hm
    have he : arbiterTake a = (freeEntry n q a).onFsw fun w =>
        { w with inSwitch := some { frame := f, ingress := n, deadline := a.now + Config.switchingTime },
                 lastServed := n } := by
      unfold arbiterTake; rw [h0, nextTurn_of_head h hj hm]
    rw [he]
    cases n with
    | w | p | k =>
      simp only [rxOf] at h
      simp [freeEntry, State.onPort, State.onFsw, dropRx, h, updAt, Config.switchingTime]
    | h =>
      simp only [rxOf] at h
      split at h
      · cases h
      · rename_i hd; rw [freeEntry_link hd h]; rfl

end Sys2Proof.Machine
end

