-- ==== Sys2Proof/Laws/State.lean ====
section
/-! SUPPORT. What each update of the state leaves in each field: one lemma per field per update. -/

namespace Sys2Proof.Machine

variable (s : State)

/-! ## onCsu -/

@[simp] theorem State.onCsu_power (f : Csu → Csu) : (s.onCsu f).power = s.power := rfl
@[simp] theorem State.onCsu_role (f : Csu → Csu) : (s.onCsu f).role = s.role := rfl
@[simp] theorem State.onCsu_resetPin (f : Csu → Csu) : (s.onCsu f).resetPin = s.resetPin := rfl
@[simp] theorem State.onCsu_now (f : Csu → Csu) : (s.onCsu f).now = s.now := rfl
@[simp] theorem State.onCsu_origin (f : Csu → Csu) : (s.onCsu f).origin = s.origin := rfl
@[simp] theorem State.onCsu_freeCount (f : Csu → Csu) : (s.onCsu f).freeCount = s.freeCount := rfl
@[simp] theorem State.onCsu_csu (f : Csu → Csu) : (s.onCsu f).csu = f s.csu := rfl
@[simp] theorem State.onCsu_tau (f : Csu → Csu) : (s.onCsu f).tau = s.tau := rfl
@[simp] theorem State.onCsu_piu (f : Csu → Csu) : (s.onCsu f).piu = s.piu := rfl
@[simp] theorem State.onCsu_cmu (f : Csu → Csu) : (s.onCsu f).cmu = s.cmu := rfl
@[simp] theorem State.onCsu_fau (f : Csu → Csu) : (s.onCsu f).fau = s.fau := rfl
@[simp] theorem State.onCsu_nvs (f : Csu → Csu) : (s.onCsu f).nvs = s.nvs := rfl
@[simp] theorem State.onCsu_pcw (f : Csu → Csu) : (s.onCsu f).pcw = s.pcw := rfl
@[simp] theorem State.onCsu_pcp (f : Csu → Csu) : (s.onCsu f).pcp = s.pcp := rfl
@[simp] theorem State.onCsu_pck (f : Csu → Csu) : (s.onCsu f).pck = s.pck := rfl
@[simp] theorem State.onCsu_fsw (f : Csu → Csu) : (s.onCsu f).fsw = s.fsw := rfl
@[simp] theorem State.onCsu_hlc (f : Csu → Csu) : (s.onCsu f).hlc = s.hlc := rfl
@[simp] theorem State.onCsu_mgu (f : Csu → Csu) : (s.onCsu f).mgu = s.mgu := rfl
@[simp] theorem State.onCsu_pending (f : Csu → Csu) : (s.onCsu f).pending = s.pending := rfl
@[simp] theorem State.onCsu_port (f : Csu → Csu) (g : Segment) : (s.onCsu f).port g = s.port g := rfl

/-! ## onTau -/

@[simp] theorem State.onTau_power (f : Tau → Tau) : (s.onTau f).power = s.power := rfl
@[simp] theorem State.onTau_role (f : Tau → Tau) : (s.onTau f).role = s.role := rfl
@[simp] theorem State.onTau_resetPin (f : Tau → Tau) : (s.onTau f).resetPin = s.resetPin := rfl
@[simp] theorem State.onTau_now (f : Tau → Tau) : (s.onTau f).now = s.now := rfl
@[simp] theorem State.onTau_origin (f : Tau → Tau) : (s.onTau f).origin = s.origin := rfl
@[simp] theorem State.onTau_freeCount (f : Tau → Tau) : (s.onTau f).freeCount = s.freeCount := rfl
@[simp] theorem State.onTau_csu (f : Tau → Tau) : (s.onTau f).csu = s.csu := rfl
@[simp] theorem State.onTau_tau (f : Tau → Tau) : (s.onTau f).tau = f s.tau := rfl
@[simp] theorem State.onTau_piu (f : Tau → Tau) : (s.onTau f).piu = s.piu := rfl
@[simp] theorem State.onTau_cmu (f : Tau → Tau) : (s.onTau f).cmu = s.cmu := rfl
@[simp] theorem State.onTau_fau (f : Tau → Tau) : (s.onTau f).fau = s.fau := rfl
@[simp] theorem State.onTau_nvs (f : Tau → Tau) : (s.onTau f).nvs = s.nvs := rfl
@[simp] theorem State.onTau_pcw (f : Tau → Tau) : (s.onTau f).pcw = s.pcw := rfl
@[simp] theorem State.onTau_pcp (f : Tau → Tau) : (s.onTau f).pcp = s.pcp := rfl
@[simp] theorem State.onTau_pck (f : Tau → Tau) : (s.onTau f).pck = s.pck := rfl
@[simp] theorem State.onTau_fsw (f : Tau → Tau) : (s.onTau f).fsw = s.fsw := rfl
@[simp] theorem State.onTau_hlc (f : Tau → Tau) : (s.onTau f).hlc = s.hlc := rfl
@[simp] theorem State.onTau_mgu (f : Tau → Tau) : (s.onTau f).mgu = s.mgu := rfl
@[simp] theorem State.onTau_pending (f : Tau → Tau) : (s.onTau f).pending = s.pending := rfl
@[simp] theorem State.onTau_port (f : Tau → Tau) (g : Segment) : (s.onTau f).port g = s.port g := rfl

/-! ## onPiu -/

@[simp] theorem State.onPiu_power (f : Piu → Piu) : (s.onPiu f).power = s.power := rfl
@[simp] theorem State.onPiu_role (f : Piu → Piu) : (s.onPiu f).role = s.role := rfl
@[simp] theorem State.onPiu_resetPin (f : Piu → Piu) : (s.onPiu f).resetPin = s.resetPin := rfl
@[simp] theorem State.onPiu_now (f : Piu → Piu) : (s.onPiu f).now = s.now := rfl
@[simp] theorem State.onPiu_origin (f : Piu → Piu) : (s.onPiu f).origin = s.origin := rfl
@[simp] theorem State.onPiu_freeCount (f : Piu → Piu) : (s.onPiu f).freeCount = s.freeCount := rfl
@[simp] theorem State.onPiu_csu (f : Piu → Piu) : (s.onPiu f).csu = s.csu := rfl
@[simp] theorem State.onPiu_tau (f : Piu → Piu) : (s.onPiu f).tau = s.tau := rfl
@[simp] theorem State.onPiu_piu (f : Piu → Piu) : (s.onPiu f).piu = f s.piu := rfl
@[simp] theorem State.onPiu_cmu (f : Piu → Piu) : (s.onPiu f).cmu = s.cmu := rfl
@[simp] theorem State.onPiu_fau (f : Piu → Piu) : (s.onPiu f).fau = s.fau := rfl
@[simp] theorem State.onPiu_nvs (f : Piu → Piu) : (s.onPiu f).nvs = s.nvs := rfl
@[simp] theorem State.onPiu_pcw (f : Piu → Piu) : (s.onPiu f).pcw = s.pcw := rfl
@[simp] theorem State.onPiu_pcp (f : Piu → Piu) : (s.onPiu f).pcp = s.pcp := rfl
@[simp] theorem State.onPiu_pck (f : Piu → Piu) : (s.onPiu f).pck = s.pck := rfl
@[simp] theorem State.onPiu_fsw (f : Piu → Piu) : (s.onPiu f).fsw = s.fsw := rfl
@[simp] theorem State.onPiu_hlc (f : Piu → Piu) : (s.onPiu f).hlc = s.hlc := rfl
@[simp] theorem State.onPiu_mgu (f : Piu → Piu) : (s.onPiu f).mgu = s.mgu := rfl
@[simp] theorem State.onPiu_pending (f : Piu → Piu) : (s.onPiu f).pending = s.pending := rfl
@[simp] theorem State.onPiu_port (f : Piu → Piu) (g : Segment) : (s.onPiu f).port g = s.port g := rfl

/-! ## onCmu -/

@[simp] theorem State.onCmu_power (f : Cmu → Cmu) : (s.onCmu f).power = s.power := rfl
@[simp] theorem State.onCmu_role (f : Cmu → Cmu) : (s.onCmu f).role = s.role := rfl
@[simp] theorem State.onCmu_resetPin (f : Cmu → Cmu) : (s.onCmu f).resetPin = s.resetPin := rfl
@[simp] theorem State.onCmu_now (f : Cmu → Cmu) : (s.onCmu f).now = s.now := rfl
@[simp] theorem State.onCmu_origin (f : Cmu → Cmu) : (s.onCmu f).origin = s.origin := rfl
@[simp] theorem State.onCmu_freeCount (f : Cmu → Cmu) : (s.onCmu f).freeCount = s.freeCount := rfl
@[simp] theorem State.onCmu_csu (f : Cmu → Cmu) : (s.onCmu f).csu = s.csu := rfl
@[simp] theorem State.onCmu_tau (f : Cmu → Cmu) : (s.onCmu f).tau = s.tau := rfl
@[simp] theorem State.onCmu_piu (f : Cmu → Cmu) : (s.onCmu f).piu = s.piu := rfl
@[simp] theorem State.onCmu_cmu (f : Cmu → Cmu) : (s.onCmu f).cmu = f s.cmu := rfl
@[simp] theorem State.onCmu_fau (f : Cmu → Cmu) : (s.onCmu f).fau = s.fau := rfl
@[simp] theorem State.onCmu_nvs (f : Cmu → Cmu) : (s.onCmu f).nvs = s.nvs := rfl
@[simp] theorem State.onCmu_pcw (f : Cmu → Cmu) : (s.onCmu f).pcw = s.pcw := rfl
@[simp] theorem State.onCmu_pcp (f : Cmu → Cmu) : (s.onCmu f).pcp = s.pcp := rfl
@[simp] theorem State.onCmu_pck (f : Cmu → Cmu) : (s.onCmu f).pck = s.pck := rfl
@[simp] theorem State.onCmu_fsw (f : Cmu → Cmu) : (s.onCmu f).fsw = s.fsw := rfl
@[simp] theorem State.onCmu_hlc (f : Cmu → Cmu) : (s.onCmu f).hlc = s.hlc := rfl
@[simp] theorem State.onCmu_mgu (f : Cmu → Cmu) : (s.onCmu f).mgu = s.mgu := rfl
@[simp] theorem State.onCmu_pending (f : Cmu → Cmu) : (s.onCmu f).pending = s.pending := rfl
@[simp] theorem State.onCmu_port (f : Cmu → Cmu) (g : Segment) : (s.onCmu f).port g = s.port g := rfl

/-! ## onFau -/

@[simp] theorem State.onFau_power (f : Fau → Fau) : (s.onFau f).power = s.power := rfl
@[simp] theorem State.onFau_role (f : Fau → Fau) : (s.onFau f).role = s.role := rfl
@[simp] theorem State.onFau_resetPin (f : Fau → Fau) : (s.onFau f).resetPin = s.resetPin := rfl
@[simp] theorem State.onFau_now (f : Fau → Fau) : (s.onFau f).now = s.now := rfl
@[simp] theorem State.onFau_origin (f : Fau → Fau) : (s.onFau f).origin = s.origin := rfl
@[simp] theorem State.onFau_freeCount (f : Fau → Fau) : (s.onFau f).freeCount = s.freeCount := rfl
@[simp] theorem State.onFau_csu (f : Fau → Fau) : (s.onFau f).csu = s.csu := rfl
@[simp] theorem State.onFau_tau (f : Fau → Fau) : (s.onFau f).tau = s.tau := rfl
@[simp] theorem State.onFau_piu (f : Fau → Fau) : (s.onFau f).piu = s.piu := rfl
@[simp] theorem State.onFau_cmu (f : Fau → Fau) : (s.onFau f).cmu = s.cmu := rfl
@[simp] theorem State.onFau_fau (f : Fau → Fau) : (s.onFau f).fau = f s.fau := rfl
@[simp] theorem State.onFau_nvs (f : Fau → Fau) : (s.onFau f).nvs = s.nvs := rfl
@[simp] theorem State.onFau_pcw (f : Fau → Fau) : (s.onFau f).pcw = s.pcw := rfl
@[simp] theorem State.onFau_pcp (f : Fau → Fau) : (s.onFau f).pcp = s.pcp := rfl
@[simp] theorem State.onFau_pck (f : Fau → Fau) : (s.onFau f).pck = s.pck := rfl
@[simp] theorem State.onFau_fsw (f : Fau → Fau) : (s.onFau f).fsw = s.fsw := rfl
@[simp] theorem State.onFau_hlc (f : Fau → Fau) : (s.onFau f).hlc = s.hlc := rfl
@[simp] theorem State.onFau_mgu (f : Fau → Fau) : (s.onFau f).mgu = s.mgu := rfl
@[simp] theorem State.onFau_pending (f : Fau → Fau) : (s.onFau f).pending = s.pending := rfl
@[simp] theorem State.onFau_port (f : Fau → Fau) (g : Segment) : (s.onFau f).port g = s.port g := rfl

/-! ## onNvs -/

@[simp] theorem State.onNvs_power (f : Nvs → Nvs) : (s.onNvs f).power = s.power := rfl
@[simp] theorem State.onNvs_role (f : Nvs → Nvs) : (s.onNvs f).role = s.role := rfl
@[simp] theorem State.onNvs_resetPin (f : Nvs → Nvs) : (s.onNvs f).resetPin = s.resetPin := rfl
@[simp] theorem State.onNvs_now (f : Nvs → Nvs) : (s.onNvs f).now = s.now := rfl
@[simp] theorem State.onNvs_origin (f : Nvs → Nvs) : (s.onNvs f).origin = s.origin := rfl
@[simp] theorem State.onNvs_freeCount (f : Nvs → Nvs) : (s.onNvs f).freeCount = s.freeCount := rfl
@[simp] theorem State.onNvs_csu (f : Nvs → Nvs) : (s.onNvs f).csu = s.csu := rfl
@[simp] theorem State.onNvs_tau (f : Nvs → Nvs) : (s.onNvs f).tau = s.tau := rfl
@[simp] theorem State.onNvs_piu (f : Nvs → Nvs) : (s.onNvs f).piu = s.piu := rfl
@[simp] theorem State.onNvs_cmu (f : Nvs → Nvs) : (s.onNvs f).cmu = s.cmu := rfl
@[simp] theorem State.onNvs_fau (f : Nvs → Nvs) : (s.onNvs f).fau = s.fau := rfl
@[simp] theorem State.onNvs_nvs (f : Nvs → Nvs) : (s.onNvs f).nvs = f s.nvs := rfl
@[simp] theorem State.onNvs_pcw (f : Nvs → Nvs) : (s.onNvs f).pcw = s.pcw := rfl
@[simp] theorem State.onNvs_pcp (f : Nvs → Nvs) : (s.onNvs f).pcp = s.pcp := rfl
@[simp] theorem State.onNvs_pck (f : Nvs → Nvs) : (s.onNvs f).pck = s.pck := rfl
@[simp] theorem State.onNvs_fsw (f : Nvs → Nvs) : (s.onNvs f).fsw = s.fsw := rfl
@[simp] theorem State.onNvs_hlc (f : Nvs → Nvs) : (s.onNvs f).hlc = s.hlc := rfl
@[simp] theorem State.onNvs_mgu (f : Nvs → Nvs) : (s.onNvs f).mgu = s.mgu := rfl
@[simp] theorem State.onNvs_pending (f : Nvs → Nvs) : (s.onNvs f).pending = s.pending := rfl
@[simp] theorem State.onNvs_port (f : Nvs → Nvs) (g : Segment) : (s.onNvs f).port g = s.port g := rfl

/-! ## onFsw -/

@[simp] theorem State.onFsw_power (f : Fsw → Fsw) : (s.onFsw f).power = s.power := rfl
@[simp] theorem State.onFsw_role (f : Fsw → Fsw) : (s.onFsw f).role = s.role := rfl
@[simp] theorem State.onFsw_resetPin (f : Fsw → Fsw) : (s.onFsw f).resetPin = s.resetPin := rfl
@[simp] theorem State.onFsw_now (f : Fsw → Fsw) : (s.onFsw f).now = s.now := rfl
@[simp] theorem State.onFsw_origin (f : Fsw → Fsw) : (s.onFsw f).origin = s.origin := rfl
@[simp] theorem State.onFsw_freeCount (f : Fsw → Fsw) : (s.onFsw f).freeCount = s.freeCount := rfl
@[simp] theorem State.onFsw_csu (f : Fsw → Fsw) : (s.onFsw f).csu = s.csu := rfl
@[simp] theorem State.onFsw_tau (f : Fsw → Fsw) : (s.onFsw f).tau = s.tau := rfl
@[simp] theorem State.onFsw_piu (f : Fsw → Fsw) : (s.onFsw f).piu = s.piu := rfl
@[simp] theorem State.onFsw_cmu (f : Fsw → Fsw) : (s.onFsw f).cmu = s.cmu := rfl
@[simp] theorem State.onFsw_fau (f : Fsw → Fsw) : (s.onFsw f).fau = s.fau := rfl
@[simp] theorem State.onFsw_nvs (f : Fsw → Fsw) : (s.onFsw f).nvs = s.nvs := rfl
@[simp] theorem State.onFsw_pcw (f : Fsw → Fsw) : (s.onFsw f).pcw = s.pcw := rfl
@[simp] theorem State.onFsw_pcp (f : Fsw → Fsw) : (s.onFsw f).pcp = s.pcp := rfl
@[simp] theorem State.onFsw_pck (f : Fsw → Fsw) : (s.onFsw f).pck = s.pck := rfl
@[simp] theorem State.onFsw_fsw (f : Fsw → Fsw) : (s.onFsw f).fsw = f s.fsw := rfl
@[simp] theorem State.onFsw_hlc (f : Fsw → Fsw) : (s.onFsw f).hlc = s.hlc := rfl
@[simp] theorem State.onFsw_mgu (f : Fsw → Fsw) : (s.onFsw f).mgu = s.mgu := rfl
@[simp] theorem State.onFsw_pending (f : Fsw → Fsw) : (s.onFsw f).pending = s.pending := rfl
@[simp] theorem State.onFsw_port (f : Fsw → Fsw) (g : Segment) : (s.onFsw f).port g = s.port g := rfl

/-! ## onHlc -/

@[simp] theorem State.onHlc_power (f : Hlc → Hlc) : (s.onHlc f).power = s.power := rfl
@[simp] theorem State.onHlc_role (f : Hlc → Hlc) : (s.onHlc f).role = s.role := rfl
@[simp] theorem State.onHlc_resetPin (f : Hlc → Hlc) : (s.onHlc f).resetPin = s.resetPin := rfl
@[simp] theorem State.onHlc_now (f : Hlc → Hlc) : (s.onHlc f).now = s.now := rfl
@[simp] theorem State.onHlc_origin (f : Hlc → Hlc) : (s.onHlc f).origin = s.origin := rfl
@[simp] theorem State.onHlc_freeCount (f : Hlc → Hlc) : (s.onHlc f).freeCount = s.freeCount := rfl
@[simp] theorem State.onHlc_csu (f : Hlc → Hlc) : (s.onHlc f).csu = s.csu := rfl
@[simp] theorem State.onHlc_tau (f : Hlc → Hlc) : (s.onHlc f).tau = s.tau := rfl
@[simp] theorem State.onHlc_piu (f : Hlc → Hlc) : (s.onHlc f).piu = s.piu := rfl
@[simp] theorem State.onHlc_cmu (f : Hlc → Hlc) : (s.onHlc f).cmu = s.cmu := rfl
@[simp] theorem State.onHlc_fau (f : Hlc → Hlc) : (s.onHlc f).fau = s.fau := rfl
@[simp] theorem State.onHlc_nvs (f : Hlc → Hlc) : (s.onHlc f).nvs = s.nvs := rfl
@[simp] theorem State.onHlc_pcw (f : Hlc → Hlc) : (s.onHlc f).pcw = s.pcw := rfl
@[simp] theorem State.onHlc_pcp (f : Hlc → Hlc) : (s.onHlc f).pcp = s.pcp := rfl
@[simp] theorem State.onHlc_pck (f : Hlc → Hlc) : (s.onHlc f).pck = s.pck := rfl
@[simp] theorem State.onHlc_fsw (f : Hlc → Hlc) : (s.onHlc f).fsw = s.fsw := rfl
@[simp] theorem State.onHlc_hlc (f : Hlc → Hlc) : (s.onHlc f).hlc = f s.hlc := rfl
@[simp] theorem State.onHlc_mgu (f : Hlc → Hlc) : (s.onHlc f).mgu = s.mgu := rfl
@[simp] theorem State.onHlc_pending (f : Hlc → Hlc) : (s.onHlc f).pending = s.pending := rfl
@[simp] theorem State.onHlc_port (f : Hlc → Hlc) (g : Segment) : (s.onHlc f).port g = s.port g := rfl

/-! ## onMgu -/

@[simp] theorem State.onMgu_power (f : Mgu → Mgu) : (s.onMgu f).power = s.power := rfl
@[simp] theorem State.onMgu_role (f : Mgu → Mgu) : (s.onMgu f).role = s.role := rfl
@[simp] theorem State.onMgu_resetPin (f : Mgu → Mgu) : (s.onMgu f).resetPin = s.resetPin := rfl
@[simp] theorem State.onMgu_now (f : Mgu → Mgu) : (s.onMgu f).now = s.now := rfl
@[simp] theorem State.onMgu_origin (f : Mgu → Mgu) : (s.onMgu f).origin = s.origin := rfl
@[simp] theorem State.onMgu_freeCount (f : Mgu → Mgu) : (s.onMgu f).freeCount = s.freeCount := rfl
@[simp] theorem State.onMgu_csu (f : Mgu → Mgu) : (s.onMgu f).csu = s.csu := rfl
@[simp] theorem State.onMgu_tau (f : Mgu → Mgu) : (s.onMgu f).tau = s.tau := rfl
@[simp] theorem State.onMgu_piu (f : Mgu → Mgu) : (s.onMgu f).piu = s.piu := rfl
@[simp] theorem State.onMgu_cmu (f : Mgu → Mgu) : (s.onMgu f).cmu = s.cmu := rfl
@[simp] theorem State.onMgu_fau (f : Mgu → Mgu) : (s.onMgu f).fau = s.fau := rfl
@[simp] theorem State.onMgu_nvs (f : Mgu → Mgu) : (s.onMgu f).nvs = s.nvs := rfl
@[simp] theorem State.onMgu_pcw (f : Mgu → Mgu) : (s.onMgu f).pcw = s.pcw := rfl
@[simp] theorem State.onMgu_pcp (f : Mgu → Mgu) : (s.onMgu f).pcp = s.pcp := rfl
@[simp] theorem State.onMgu_pck (f : Mgu → Mgu) : (s.onMgu f).pck = s.pck := rfl
@[simp] theorem State.onMgu_fsw (f : Mgu → Mgu) : (s.onMgu f).fsw = s.fsw := rfl
@[simp] theorem State.onMgu_hlc (f : Mgu → Mgu) : (s.onMgu f).hlc = s.hlc := rfl
@[simp] theorem State.onMgu_mgu (f : Mgu → Mgu) : (s.onMgu f).mgu = f s.mgu := rfl
@[simp] theorem State.onMgu_pending (f : Mgu → Mgu) : (s.onMgu f).pending = s.pending := rfl
@[simp] theorem State.onMgu_port (f : Mgu → Mgu) (g : Segment) : (s.onMgu f).port g = s.port g := rfl

/-! ## onPort -/

@[simp] theorem State.onPort_power (g : Segment) (f : PortCtl → PortCtl) : (s.onPort g f).power = s.power := by
  cases g <;> rfl
@[simp] theorem State.onPort_role (g : Segment) (f : PortCtl → PortCtl) : (s.onPort g f).role = s.role := by
  cases g <;> rfl
@[simp] theorem State.onPort_resetPin (g : Segment) (f : PortCtl → PortCtl) : (s.onPort g f).resetPin = s.resetPin := by
  cases g <;> rfl
@[simp] theorem State.onPort_now (g : Segment) (f : PortCtl → PortCtl) : (s.onPort g f).now = s.now := by
  cases g <;> rfl
@[simp] theorem State.onPort_origin (g : Segment) (f : PortCtl → PortCtl) : (s.onPort g f).origin = s.origin := by
  cases g <;> rfl
@[simp] theorem State.onPort_freeCount (g : Segment) (f : PortCtl → PortCtl) : (s.onPort g f).freeCount = s.freeCount := by
  cases g <;> rfl
@[simp] theorem State.onPort_csu (g : Segment) (f : PortCtl → PortCtl) : (s.onPort g f).csu = s.csu := by
  cases g <;> rfl
@[simp] theorem State.onPort_tau (g : Segment) (f : PortCtl → PortCtl) : (s.onPort g f).tau = s.tau := by
  cases g <;> rfl
@[simp] theorem State.onPort_piu (g : Segment) (f : PortCtl → PortCtl) : (s.onPort g f).piu = s.piu := by
  cases g <;> rfl
@[simp] theorem State.onPort_cmu (g : Segment) (f : PortCtl → PortCtl) : (s.onPort g f).cmu = s.cmu := by
  cases g <;> rfl
@[simp] theorem State.onPort_fau (g : Segment) (f : PortCtl → PortCtl) : (s.onPort g f).fau = s.fau := by
  cases g <;> rfl
@[simp] theorem State.onPort_nvs (g : Segment) (f : PortCtl → PortCtl) : (s.onPort g f).nvs = s.nvs := by
  cases g <;> rfl
@[simp] theorem State.onPort_fsw (g : Segment) (f : PortCtl → PortCtl) : (s.onPort g f).fsw = s.fsw := by
  cases g <;> rfl
@[simp] theorem State.onPort_hlc (g : Segment) (f : PortCtl → PortCtl) : (s.onPort g f).hlc = s.hlc := by
  cases g <;> rfl
@[simp] theorem State.onPort_mgu (g : Segment) (f : PortCtl → PortCtl) : (s.onPort g f).mgu = s.mgu := by
  cases g <;> rfl
@[simp] theorem State.onPort_pending (g : Segment) (f : PortCtl → PortCtl) : (s.onPort g f).pending = s.pending := by
  cases g <;> rfl
@[simp] theorem State.onPort_port (g : Segment) (f : PortCtl → PortCtl) : (s.onPort g f).port g = f (s.port g) := by
  cases g <;> rfl
theorem State.onPort_port_ne {g h : Segment} (n : h ≠ g) (f : PortCtl → PortCtl) :
    (s.onPort g f).port h = s.port h := by
  cases g <;> cases h <;> first | rfl | exact absurd rfl n
@[simp] theorem State.onPort_w (f : PortCtl → PortCtl) : s.onPort .w f = { s with pcw := f s.pcw } := rfl
@[simp] theorem State.onPort_p (f : PortCtl → PortCtl) : s.onPort .p f = { s with pcp := f s.pcp } := rfl
@[simp] theorem State.onPort_k (f : PortCtl → PortCtl) : s.onPort .k f = { s with pck := f s.pck } := rfl
@[simp] theorem State.port_w : s.port .w = s.pcw := rfl
@[simp] theorem State.port_p : s.port .p = s.pcp := rfl
@[simp] theorem State.port_k : s.port .k = s.pck := rfl

/-! ## upTo -/

@[simp] theorem State.upTo_power (t : Nat) : (s.upTo t).power = s.power := rfl
@[simp] theorem State.upTo_role (t : Nat) : (s.upTo t).role = s.role := rfl
@[simp] theorem State.upTo_resetPin (t : Nat) : (s.upTo t).resetPin = s.resetPin := rfl
@[simp] theorem State.upTo_now (t : Nat) : (s.upTo t).now = max s.now t := rfl
@[simp] theorem State.upTo_origin (t : Nat) : (s.upTo t).origin = s.origin := rfl
@[simp] theorem State.upTo_freeCount (t : Nat) : (s.upTo t).freeCount = s.freeCount := rfl
@[simp] theorem State.upTo_csu (t : Nat) : (s.upTo t).csu = s.csu := rfl
@[simp] theorem State.upTo_tau (t : Nat) : (s.upTo t).tau = s.tau := rfl
@[simp] theorem State.upTo_piu (t : Nat) : (s.upTo t).piu = s.piu := rfl
@[simp] theorem State.upTo_cmu (t : Nat) : (s.upTo t).cmu = s.cmu := rfl
@[simp] theorem State.upTo_fau (t : Nat) : (s.upTo t).fau = s.fau := rfl
@[simp] theorem State.upTo_nvs (t : Nat) : (s.upTo t).nvs = s.nvs := rfl
@[simp] theorem State.upTo_pcw (t : Nat) : (s.upTo t).pcw = s.pcw := rfl
@[simp] theorem State.upTo_pcp (t : Nat) : (s.upTo t).pcp = s.pcp := rfl
@[simp] theorem State.upTo_pck (t : Nat) : (s.upTo t).pck = s.pck := rfl
@[simp] theorem State.upTo_fsw (t : Nat) : (s.upTo t).fsw = s.fsw := rfl
@[simp] theorem State.upTo_hlc (t : Nat) : (s.upTo t).hlc = s.hlc := rfl
@[simp] theorem State.upTo_mgu (t : Nat) : (s.upTo t).mgu = s.mgu := rfl
@[simp] theorem State.upTo_pending (t : Nat) : (s.upTo t).pending = s.pending := rfl
@[simp] theorem State.upTo_port (t : Nat) (g : Segment) : (s.upTo t).port g = s.port g := rfl

/-! ## withPending -/

@[simp] theorem State.withPending_power (t : List Instr) : (s.withPending t).power = s.power := rfl
@[simp] theorem State.withPending_role (t : List Instr) : (s.withPending t).role = s.role := rfl
@[simp] theorem State.withPending_resetPin (t : List Instr) : (s.withPending t).resetPin = s.resetPin := rfl
@[simp] theorem State.withPending_now (t : List Instr) : (s.withPending t).now = s.now := rfl
@[simp] theorem State.withPending_origin (t : List Instr) : (s.withPending t).origin = s.origin := rfl
@[simp] theorem State.withPending_freeCount (t : List Instr) : (s.withPending t).freeCount = s.freeCount := rfl
@[simp] theorem State.withPending_csu (t : List Instr) : (s.withPending t).csu = s.csu := rfl
@[simp] theorem State.withPending_tau (t : List Instr) : (s.withPending t).tau = s.tau := rfl
@[simp] theorem State.withPending_piu (t : List Instr) : (s.withPending t).piu = s.piu := rfl
@[simp] theorem State.withPending_cmu (t : List Instr) : (s.withPending t).cmu = s.cmu := rfl
@[simp] theorem State.withPending_fau (t : List Instr) : (s.withPending t).fau = s.fau := rfl
@[simp] theorem State.withPending_nvs (t : List Instr) : (s.withPending t).nvs = s.nvs := rfl
@[simp] theorem State.withPending_pcw (t : List Instr) : (s.withPending t).pcw = s.pcw := rfl
@[simp] theorem State.withPending_pcp (t : List Instr) : (s.withPending t).pcp = s.pcp := rfl
@[simp] theorem State.withPending_pck (t : List Instr) : (s.withPending t).pck = s.pck := rfl
@[simp] theorem State.withPending_fsw (t : List Instr) : (s.withPending t).fsw = s.fsw := rfl
@[simp] theorem State.withPending_hlc (t : List Instr) : (s.withPending t).hlc = s.hlc := rfl
@[simp] theorem State.withPending_mgu (t : List Instr) : (s.withPending t).mgu = s.mgu := rfl
@[simp] theorem State.withPending_pending (t : List Instr) : (s.withPending t).pending = t := rfl
@[simp] theorem State.withPending_port (t : List Instr) (g : Segment) : (s.withPending t).port g = s.port g := rfl

/-! ## tickFree -/

@[simp] theorem State.tickFree_power : (s.tickFree).power = s.power := rfl
@[simp] theorem State.tickFree_role : (s.tickFree).role = s.role := rfl
@[simp] theorem State.tickFree_resetPin : (s.tickFree).resetPin = s.resetPin := rfl
@[simp] theorem State.tickFree_now : (s.tickFree).now = s.now := rfl
@[simp] theorem State.tickFree_origin : (s.tickFree).origin = s.origin := rfl
@[simp] theorem State.tickFree_freeCount : (s.tickFree).freeCount = s.freeCount + 1 := rfl
@[simp] theorem State.tickFree_csu : (s.tickFree).csu = s.csu := rfl
@[simp] theorem State.tickFree_tau : (s.tickFree).tau = s.tau := rfl
@[simp] theorem State.tickFree_piu : (s.tickFree).piu = s.piu := rfl
@[simp] theorem State.tickFree_cmu : (s.tickFree).cmu = s.cmu := rfl
@[simp] theorem State.tickFree_fau : (s.tickFree).fau = s.fau := rfl
@[simp] theorem State.tickFree_nvs : (s.tickFree).nvs = s.nvs := rfl
@[simp] theorem State.tickFree_pcw : (s.tickFree).pcw = s.pcw := rfl
@[simp] theorem State.tickFree_pcp : (s.tickFree).pcp = s.pcp := rfl
@[simp] theorem State.tickFree_pck : (s.tickFree).pck = s.pck := rfl
@[simp] theorem State.tickFree_fsw : (s.tickFree).fsw = s.fsw := rfl
@[simp] theorem State.tickFree_hlc : (s.tickFree).hlc = s.hlc := rfl
@[simp] theorem State.tickFree_mgu : (s.tickFree).mgu = s.mgu := rfl
@[simp] theorem State.tickFree_pending : (s.tickFree).pending = s.pending := rfl
@[simp] theorem State.tickFree_port (g : Segment) : (s.tickFree).port g = s.port g := rfl

/-! ## Records in a row -/

theorem updAt_get {α : Type} {n : Nat} (v : Vector α n) (i : Fin n) (f : α → α) (j : Nat) (h : j < n) :
    (updAt v i f)[j] = if i.val = j then f v[j] else v[j] := by
  by_cases e : i.val = j
  · subst e; simp [updAt]
  · simp [updAt, e]

@[simp] theorem updAt_same {α : Type} {n : Nat} (v : Vector α n) (i : Fin n) (f : α → α) :
    (updAt v i f)[i.val] = f v[i.val] := by
  simp [updAt_get]

theorem updAt_other {α : Type} {n : Nat} (v : Vector α n) {i j : Fin n} (h : i ≠ j) (f : α → α) :
    (updAt v i f)[j.val] = v[j.val] := by
  have : i.val ≠ j.val := fun e => h (Fin.ext e)
  simp [updAt_get, this]

end Sys2Proof.Machine
end

