-- ==== Sys2Proof/Laws/Caps.lean ====
section
/-! SUPPORT. What a write of the fuel caps does to the engine records: after an update, and after a write of all four, the caps follow
the tanks as `CapsFollow` says (R36, R109, R117). -/

namespace Sys2Proof.Machine

/-- One visit of the update of the caps. -/
theorem updateCaps_eq (s : State) : updateCaps s =
    (List.finRange 4).foldl (fun a e =>
      if capOf s e = a.piu.engines[engineIx e].cap then a else writeCap (engineIx e) (capOf s e) a) s := by
  have key : ∀ (l : List (Fin 4)) (a : State), a.fau = s.fau →
      l.foldl (fun a e => let c := capOf a e
        if c = a.piu.engines[engineIx e].cap then a else writeCap (engineIx e) c a) a =
      l.foldl (fun a e =>
        if capOf s e = a.piu.engines[engineIx e].cap then a else writeCap (engineIx e) (capOf s e) a) a := by
    intro l
    induction l with
    | nil => intro a _; rfl
    | cons e l ih =>
      intro a h
      have hc : capOf a e = capOf s e := by simp only [capOf, reserveCap, h]
      simp only [List.foldl_cons, hc]
      apply ih
      split
      · exact h
      · exact h
  exact key _ s rfl

theorem updateCaps_piu (s : State) : updateCaps s = { s with piu := (updateCaps s).piu } := by
  have key : ∀ (l : List (Fin 4)) (a : State), a = { s with piu := a.piu } →
      l.foldl (fun a e => let c := capOf a e
        if c = a.piu.engines[engineIx e].cap then a else writeCap (engineIx e) c a) a =
      { s with piu := (l.foldl (fun a e => let c := capOf a e
        if c = a.piu.engines[engineIx e].cap then a else writeCap (engineIx e) c a) a).piu } := by
    intro l
    induction l with
    | nil => intro a h; exact h
    | cons e l ih =>
      intro a h
      simp only [List.foldl_cons]
      apply ih
      split
      · exact h
      · rw [h]; rfl
  exact key _ s rfl

theorem limitNat_cap (c : Nat) : limitNat c 0 1000 = min c 1000 := by
  unfold limitNat; omega

theorem capOf_eq (s : State) (e : Fin 4) : capOf s e =
    if s.fau.tanks[s.fau.lineup[e]].state = .normal then none else some (s.fau.table.elim 700 fun x => min x.cR 1000) := by
  unfold capOf
  cases h : s.fau.tanks[s.fau.lineup[e]].state <;> simp [reserveCap, limitNat_cap]
/-- The record of an engine under a written cap. -/
def cappedRec (x : EngineEntry) (cap : Option Nat) (r : EngineRec) : EngineRec :=
  match cap with
  | none => { r with cap := none }
  | some c =>
    if r.filled = true ∧ r.gear ≠ .neutral ∧ capBound x r.gear c < r.rpm then
      { r with cap := some c, rpm := capBound x r.gear c, fresh := true }
    else { r with cap := some c }

theorem writeCap_eq (i : Fin 6) (c : Option Nat) (a : State) :
    writeCap i c a = { a with piu := { a.piu with engines := a.piu.engines.set i (cappedRec (engineOf a i) c a.piu.engines[i]) } } := by
  unfold writeCap onEngine State.onPiu updAt cappedRec
  cases c with
  | none => rfl
  | some c =>
    simp only [Bool.and_eq_true, bne_iff_ne, decide_eq_true_eq, and_assoc]

theorem engineOf_writeCap (i j : Fin 6) (c : Option Nat) (a : State) (h : j ≠ i) :
    engineOf (writeCap i c a) j = engineOf a j := by
  rw [writeCap_eq]
  unfold engineOf
  have : (a.piu.engines.set i (cappedRec (engineOf a i) c a.piu.engines[i]))[j] = a.piu.engines[j] := by
    have hv : i.val ≠ j.val := fun e => h (Fin.ext e.symm)
    show (a.piu.engines.set i.val _ i.isLt)[j.val] = a.piu.engines[j.val]
    rw [Vector.getElem_set_ne _ _ hv]
  exact congrArg (fun r : EngineRec => r.retiring.getD (engineEntry a j)) this

/-- One engine's visit of an update, with the caps of `s`. -/
def capStep (s : State) (a : State) (e : Fin 4) : State :=
  if capOf s e = a.piu.engines[engineIx e].cap then a else writeCap (engineIx e) (capOf s e) a

theorem capStep_at (s a : State) (e : Fin 4) (j : Fin 6) :
    (capStep s a e).piu.engines[j] = if j = engineIx e then
      (if capOf s e = a.piu.engines[j].cap then a.piu.engines[j] else cappedRec (engineOf a j) (capOf s e) a.piu.engines[j])
      else a.piu.engines[j] := by
  unfold capStep
  split
  · rename_i h
    split
    · rename_i hj; subst hj; simp [h]
    · rfl
  · rename_i h
    rw [writeCap_eq]
    split
    · rename_i hj; subst hj; refine Eq.trans ?_ (if_neg h).symm
      show (a.piu.engines.set (engineIx e).val _ (engineIx e).isLt)[(engineIx e).val] = _
      rw [Vector.getElem_set_self]
    · rename_i hj
      have hv : (engineIx e).val ≠ j.val := fun x => hj (Fin.ext x.symm)
      show (a.piu.engines.set (engineIx e).val _ (engineIx e).isLt)[j.val] = a.piu.engines[j.val]
      rw [Vector.getElem_set_ne _ _ hv]

theorem engineOf_capStep (s a : State) (e : Fin 4) (j : Fin 6) (h : j ≠ engineIx e) : engineOf (capStep s a e) j = engineOf a j := by
  unfold capStep
  split
  · rfl
  · exact engineOf_writeCap _ _ _ _ h

theorem capStep_ne (s a : State) (e : Fin 4) (j : Fin 6) (h : j ≠ engineIx e) :
    (capStep s a e).piu.engines[j] = a.piu.engines[j] := by rw [capStep_at, if_neg h]

theorem updateCaps_at (s : State) (e : Fin 4) :
    (updateCaps s).piu.engines[engineIx e] =
      if capOf s e = s.piu.engines[engineIx e].cap then s.piu.engines[engineIx e]
      else cappedRec (engineOf s (engineIx e)) (capOf s e) s.piu.engines[engineIx e] := by
  rw [updateCaps_eq]
  show (capStep s (capStep s (capStep s (capStep s s 0) 1) 2) 3).piu.engines[engineIx e] = _
  have h : ∀ e : Fin 4, e = 0 ∨ e = 1 ∨ e = 2 ∨ e = 3 := by decide
  rcases h e with rfl | rfl | rfl | rfl
  · rw [capStep_ne _ _ _ _ (by decide), capStep_ne _ _ _ _ (by decide), capStep_ne _ _ _ _ (by decide), capStep_at, if_pos rfl]
  · rw [capStep_ne _ _ _ _ (by decide), capStep_ne _ _ _ _ (by decide), capStep_at, if_pos rfl,
      engineOf_capStep _ _ _ _ (by decide), capStep_ne _ _ _ _ (by decide)]
  · rw [capStep_ne _ _ _ _ (by decide), capStep_at, if_pos rfl, engineOf_capStep _ _ _ _ (by decide),
      engineOf_capStep _ _ _ _ (by decide), capStep_ne _ _ _ _ (by decide), capStep_ne _ _ _ _ (by decide)]
  · rw [capStep_at, if_pos rfl, engineOf_capStep _ _ _ _ (by decide), engineOf_capStep _ _ _ _ (by decide),
      engineOf_capStep _ _ _ _ (by decide), capStep_ne _ _ _ _ (by decide), capStep_ne _ _ _ _ (by decide),
      capStep_ne _ _ _ _ (by decide)]

theorem updateCaps_other (s : State) (i : Fin 6) (h : 4 ≤ i.val) : (updateCaps s).piu.engines[i] = s.piu.engines[i] := by
  rw [updateCaps_eq]
  show (capStep s (capStep s (capStep s (capStep s s 0) 1) 2) 3).piu.engines[i] = _
  have h : i = 4 ∨ i = 5 := by revert h; revert i; decide
  rcases h with rfl | rfl <;>
  rw [capStep_at, if_neg (by decide), capStep_at, if_neg (by decide), capStep_at, if_neg (by decide), capStep_at, if_neg (by decide)]

/-- The caps after an update are those of the tanks and the lineup (R36, R109). -/
theorem updateCaps_follow (s : State) : CapsFollow false s (updateCaps s) := by
  have hf : (updateCaps s).fau = s.fau := by rw [updateCaps_piu]
  constructor
  · intro i h; exact updateCaps_other s i h
  · intro e r cap _ hr
    have := updateCaps_at s e
    rw [capOf_eq, if_pos] at this
    · exact this
    · show _ = r.cap; rw [hr]; show _ = cap; simp only [cap, hf]
  · intro e r hr hn
    have := updateCaps_at s e
    simp only [hf] at hn
    rw [capOf_eq, if_pos hn, if_neg] at this
    · exact this
    · intro hc; rcases hr with hr | hr
      · cases hr
      · exact hr hc.symm
  · intro e r x k top bound hr hn
    have := updateCaps_at s e
    simp only [hf] at hn
    have hk : k = s.fau.table.elim 700 fun x => min x.cR 1000 := by simp only [k, hf]
    rw [capOf_eq, if_neg hn, ← hk, if_neg] at this
    · refine this.trans ?_
      unfold cappedRec capBound
      have : maxOf (engineOf s (engineIx e)) s.piu.engines[engineIx e].gear = top := by
        show _ = (match r.gear with | .ahead => x.maxAhead | .astern => x.maxAstern | .neutral => x.idle)
        unfold maxOf; rfl
      rw [this]
      rfl
    · intro hc; rcases hr with hr | hr
      · cases hr
      · exact hr hc.symm
/-- One engine's visit of a write of all caps, with the caps and the lineup of `s`. -/
def allStep (s : State) (a : State) (e : Fin 4) : State :=
  writeCap (engineIx e) (capOf s e) (writeLineup (engineIx e) s.fau.lineup[e] a)

theorem writeAllCaps_eq (s : State) : writeAllCaps s = allStep s (allStep s (allStep s (allStep s s 0) 1) 2) 3 := by
  have key : ∀ (l : List (Fin 4)) (a : State), a.fau = s.fau →
      l.foldl (fun a e => writeCap (engineIx e) (capOf a e) (writeLineup (engineIx e) a.fau.lineup[e] a)) a =
      l.foldl (allStep s) a := by
    intro l
    induction l with
    | nil => intro a _; rfl
    | cons e l ih =>
      intro a h
      have hc : capOf a e = capOf s e := by simp only [capOf, reserveCap, h]
      have hl : a.fau.lineup[e] = s.fau.lineup[e] := by simp only [h]
      simp only [List.foldl_cons, hc, hl]
      exact ih _ h
  exact key _ s rfl

theorem engineOf_allStep (s a : State) (e : Fin 4) (j : Fin 6) (h : j ≠ engineIx e) : engineOf (allStep s a e) j = engineOf a j := by
  unfold allStep
  rw [engineOf_writeCap _ _ _ _ h]
  have : (writeLineup (engineIx e) s.fau.lineup[e] a).piu.engines[j] = a.piu.engines[j] := by
    have hv : (engineIx e).val ≠ j.val := fun x => h (Fin.ext x.symm)
    show (a.piu.engines.set (engineIx e).val _ (engineIx e).isLt)[j.val] = a.piu.engines[j.val]
    rw [Vector.getElem_set_ne _ _ hv]
  exact congrArg (fun r : EngineRec => r.retiring.getD (engineEntry a j)) this

theorem allStep_ne (s a : State) (e : Fin 4) (j : Fin 6) (h : j ≠ engineIx e) :
    (allStep s a e).piu.engines[j] = a.piu.engines[j] := by
  have hv : (engineIx e).val ≠ j.val := fun x => h (Fin.ext x.symm)
  unfold allStep
  rw [writeCap_eq]
  show ((a.piu.engines.set (engineIx e).val _ (engineIx e).isLt).set (engineIx e).val _ (engineIx e).isLt)[j.val] = a.piu.engines[j.val]
  rw [Vector.getElem_set_ne _ _ hv, Vector.getElem_set_ne _ _ hv]

theorem allStep_self (s a : State) (e : Fin 4) : (allStep s a e).piu.engines[engineIx e] =
    cappedRec (engineOf a (engineIx e)) (capOf s e) { a.piu.engines[engineIx e] with lineup := s.fau.lineup[e] } := by
  unfold allStep
  rw [writeCap_eq]
  have h1 : (writeLineup (engineIx e) s.fau.lineup[e] a).piu.engines[engineIx e] =
      { a.piu.engines[engineIx e] with lineup := s.fau.lineup[e] } := by
    show (a.piu.engines.set (engineIx e).val _ (engineIx e).isLt)[(engineIx e).val] = _
    rw [Vector.getElem_set_self]
  have h2 : engineOf (writeLineup (engineIx e) s.fau.lineup[e] a) (engineIx e) = engineOf a (engineIx e) := by
    unfold engineOf
    rw [h1]
    rfl
  rw [h2, h1]
  show ((writeLineup (engineIx e) s.fau.lineup[e] a).piu.engines.set (engineIx e).val _ (engineIx e).isLt)[(engineIx e).val] = _
  rw [Vector.getElem_set_self]

theorem writeAllCaps_at (s : State) (e : Fin 4) : (writeAllCaps s).piu.engines[engineIx e] =
    cappedRec (engineOf s (engineIx e)) (capOf s e) { s.piu.engines[engineIx e] with lineup := s.fau.lineup[e] } := by
  rw [writeAllCaps_eq]
  have h : ∀ e : Fin 4, e = 0 ∨ e = 1 ∨ e = 2 ∨ e = 3 := by decide
  rcases h e with rfl | rfl | rfl | rfl
  · rw [allStep_ne _ _ _ _ (by decide), allStep_ne _ _ _ _ (by decide), allStep_ne _ _ _ _ (by decide), allStep_self]
  · rw [allStep_ne _ _ _ _ (by decide), allStep_ne _ _ _ _ (by decide), allStep_self,
      engineOf_allStep _ _ _ _ (by decide), allStep_ne _ _ _ _ (by decide)]
  · rw [allStep_ne _ _ _ _ (by decide), allStep_self, engineOf_allStep _ _ _ _ (by decide),
      engineOf_allStep _ _ _ _ (by decide), allStep_ne _ _ _ _ (by decide), allStep_ne _ _ _ _ (by decide)]
  · rw [allStep_self, engineOf_allStep _ _ _ _ (by decide), engineOf_allStep _ _ _ _ (by decide),
      engineOf_allStep _ _ _ _ (by decide), allStep_ne _ _ _ _ (by decide), allStep_ne _ _ _ _ (by decide),
      allStep_ne _ _ _ _ (by decide)]

theorem writeAllCaps_other (s : State) (i : Fin 6) (h : 4 ≤ i.val) : (writeAllCaps s).piu.engines[i] = s.piu.engines[i] := by
  rw [writeAllCaps_eq]
  have h : i = 4 ∨ i = 5 := by revert h; revert i; decide
  rcases h with rfl | rfl <;>
  rw [allStep_ne _ _ _ _ (by decide), allStep_ne _ _ _ _ (by decide), allStep_ne _ _ _ _ (by decide), allStep_ne _ _ _ _ (by decide)]

theorem allStep_fau (s a : State) (e : Fin 4) : (allStep s a e).fau = a.fau := by
  unfold allStep
  rw [writeCap_eq]
  rfl

theorem writeAllCaps_fau (s : State) : (writeAllCaps s).fau = s.fau := by
  rw [writeAllCaps_eq, allStep_fau, allStep_fau, allStep_fau, allStep_fau]

/-- After a write of all caps they are those of the tanks and the lineup, over the records `a` that carry the lineup (R36, R117). -/
theorem writeAllCaps_follow (s a : State) (ht : a.tau = s.tau) (h4 : ∀ i : Fin 6, 4 ≤ i.val → a.piu.engines[i] = s.piu.engines[i])
   (hl : ∀ e : Fin 4, a.piu.engines[engineIx e] = { s.piu.engines[engineIx e] with lineup := s.fau.lineup[e] }) :
   CapsFollow true a (writeAllCaps s) := by
  have hf := writeAllCaps_fau s
  have he : ∀ e : Fin 4, engineOf a (engineIx e) = engineOf s (engineIx e) := by
    intro e
    unfold engineOf engineEntry allocOf
    rw [hl, ht]
  constructor
  · intro i h; rw [writeAllCaps_other s i h, h4 i h]
  · intro e r cap h; cases h
  · intro e r hr hn
    have := writeAllCaps_at s e
    simp only [hf] at hn
    rw [capOf_eq, if_pos hn, ← hl] at this
    exact this
  · intro e r x k top bound hr hn
    have := writeAllCaps_at s e
    simp only [hf] at hn
    have hk : k = s.fau.table.elim 700 fun x => min x.cR 1000 := by simp only [k, hf]
    rw [capOf_eq, if_neg hn, ← hk, ← hl, ← he] at this
    refine this.trans ?_
    unfold cappedRec capBound
    have : maxOf (engineOf a (engineIx e)) a.piu.engines[engineIx e].gear = top := by
        show _ = (match r.gear with | .ahead => x.maxAhead | .astern => x.maxAstern | .neutral => x.idle)
        unfold maxOf; rfl
    rw [this]
    rfl

end Sys2Proof.Machine
end

