-- ==== Sys2Proof/Laws/Ops.lean ====
section
/-! SUPPORT. What the shared operations leave alone: a status frame, an alarm, a report and a response change only the PCW
and the management unit (R138, R189, R200, R203); a frame handed to a port or to the link changes only that one. -/

namespace Sys2Proof.Machine

/-- Two states that differ at most in the PCW, the management unit. -/
def SameButStatus (s t : State) : Prop := t = { s with pcw := t.pcw, mgu := t.mgu }

theorem SameButStatus.refl (s : State) : SameButStatus s s := rfl

theorem SameButStatus.onMgu (s : State) (f : Mgu → Mgu) : SameButStatus s (s.onMgu f) := rfl

theorem SameButStatus.trans {s t u : State} (h : SameButStatus s t) (k : SameButStatus t u) : SameButStatus s u := by
  unfold SameButStatus at *
  rw [h] at k
  exact k

theorem SameButStatus.foldl {α : Type} {f : State → α → State} (hf : ∀ s a, SameButStatus s (f s a)) (l : List α)
    (s : State) : SameButStatus s (l.foldl f s) := by
  induction l generalizing s with
  | nil => exact .refl s
  | cons a l ih => exact (hf s a).trans (ih _)

variable (s : State)

/-- A frame handed to a port changes that port alone. -/
theorem handPort_port (seg : Segment) (f : Frame) (o : Origin) :
    ∃ g, (handPort seg f o s).1 = s.onPort seg g := by
  unfold handPort
  dsimp only
  split
  · dsimp only; exact ⟨_, rfl⟩
  · split <;> (dsimp only; exact ⟨_, rfl⟩)

/-- A frame handed to the link changes the link alone. -/
theorem handLink_hlc (f : Frame) (o : Origin) : ∃ g, (handLink f o s).1 = s.onHlc g := by
  unfold handLink
  dsimp only
  split
  · dsimp only; exact ⟨_, rfl⟩
  · split
    · dsimp only; exact ⟨_, rfl⟩
    · split <;> (dsimp only; exact ⟨_, rfl⟩)

theorem handPort_same (f : Frame) (o : Origin) : SameButStatus s (handPort .w f o s).1 := by
  obtain ⟨g, e⟩ := handPort_port s .w f o
  rw [e]
  exact rfl

theorem handStatus_same (f : Frame) : SameButStatus s (handStatus f s) := by
  unfold handStatus
  have h := handPort_same s f .mgu
  revert h
  generalize handPort .w f .mgu s = r
  obtain ⟨t, b⟩ := r
  intro h
  cases b
  · exact h.trans rfl
  · exact h

theorem handResponse_same (o : Origin) (f : Frame) : SameButStatus s (handResponse o f s).1 := by
  unfold handResponse
  have h := handPort_same s f o
  revert h
  generalize handPort .w f o s = r
  obtain ⟨t, b⟩ := r
  intro h
  cases b
  · exact h.trans rfl
  · exact h

theorem raiseAlarm_same (a : Alarm) (j : Subject) : SameButStatus s (raiseAlarm a j s) := by
  unfold raiseAlarm
  split
  · exact .refl s
  · exact SameButStatus.trans (.onMgu s _) (handStatus_same _ _)

theorem clearAlarm_same (a : Alarm) (j : Subject) : SameButStatus s (clearAlarm a j s) := by
  unfold clearAlarm
  split
  · exact SameButStatus.trans (.onMgu s _) (handStatus_same _ _)
  · exact .refl s

theorem syncAlarm_same (a : Alarm) (j : Subject) (b : Bool) : SameButStatus s (syncAlarm a j b s) := by
  unfold syncAlarm
  split
  · exact raiseAlarm_same s a j
  · exact clearAlarm_same s a j

theorem clearAllOf_same (a : Alarm) : SameButStatus s (clearAllOf a s) :=
  SameButStatus.foldl (fun s j => clearAlarm_same s a j) _ s

theorem reportStatus_same (st : Option (Fin 4)) (o : StatusOutcome) (d : Byte) :
    SameButStatus s (reportStatus st o d s) := handStatus_same s _

theorem report_same (st : Fin 4) (o : StatusOutcome) : SameButStatus s (report st o s) := handStatus_same s _

theorem respond_same (node : Node) (kind : Nat) (a : Answer) (data : List Byte) :
    SameButStatus s (respond node kind a data s) :=
  SameButStatus.foldl (fun s f => handResponse_same s .mgu f) _ s

theorem finishLong_same (a : Answer) (data : List Byte) : SameButStatus s (finishLong a data s) := by
  unfold finishLong
  split
  · exact .refl s
  · exact SameButStatus.trans (.onMgu s _) (respond_same _ _ _ _ _)

/-! ## handStatus -/

@[simp] theorem handStatus_power (f : Frame) : (handStatus f s).power = s.power := by
  rw [handStatus_same s _]
@[simp] theorem handStatus_role (f : Frame) : (handStatus f s).role = s.role := by
  rw [handStatus_same s _]
@[simp] theorem handStatus_resetPin (f : Frame) : (handStatus f s).resetPin = s.resetPin := by
  rw [handStatus_same s _]
@[simp] theorem handStatus_now (f : Frame) : (handStatus f s).now = s.now := by
  rw [handStatus_same s _]
@[simp] theorem handStatus_origin (f : Frame) : (handStatus f s).origin = s.origin := by
  rw [handStatus_same s _]
@[simp] theorem handStatus_freeCount (f : Frame) : (handStatus f s).freeCount = s.freeCount := by
  rw [handStatus_same s _]
@[simp] theorem handStatus_csu (f : Frame) : (handStatus f s).csu = s.csu := by
  rw [handStatus_same s _]
@[simp] theorem handStatus_tau (f : Frame) : (handStatus f s).tau = s.tau := by
  rw [handStatus_same s _]
@[simp] theorem handStatus_piu (f : Frame) : (handStatus f s).piu = s.piu := by
  rw [handStatus_same s _]
@[simp] theorem handStatus_cmu (f : Frame) : (handStatus f s).cmu = s.cmu := by
  rw [handStatus_same s _]
@[simp] theorem handStatus_fau (f : Frame) : (handStatus f s).fau = s.fau := by
  rw [handStatus_same s _]
@[simp] theorem handStatus_nvs (f : Frame) : (handStatus f s).nvs = s.nvs := by
  rw [handStatus_same s _]
@[simp] theorem handStatus_pcp (f : Frame) : (handStatus f s).pcp = s.pcp := by
  rw [handStatus_same s _]
@[simp] theorem handStatus_pck (f : Frame) : (handStatus f s).pck = s.pck := by
  rw [handStatus_same s _]
@[simp] theorem handStatus_fsw (f : Frame) : (handStatus f s).fsw = s.fsw := by
  rw [handStatus_same s _]
@[simp] theorem handStatus_hlc (f : Frame) : (handStatus f s).hlc = s.hlc := by
  rw [handStatus_same s _]
@[simp] theorem handStatus_pending (f : Frame) : (handStatus f s).pending = s.pending := by
  rw [handStatus_same s _]

/-! ## raiseAlarm -/

@[simp] theorem raiseAlarm_power (a : Alarm) (j : Subject) : (raiseAlarm a j s).power = s.power := by
  rw [raiseAlarm_same s _ _]
@[simp] theorem raiseAlarm_role (a : Alarm) (j : Subject) : (raiseAlarm a j s).role = s.role := by
  rw [raiseAlarm_same s _ _]
@[simp] theorem raiseAlarm_resetPin (a : Alarm) (j : Subject) : (raiseAlarm a j s).resetPin = s.resetPin := by
  rw [raiseAlarm_same s _ _]
@[simp] theorem raiseAlarm_now (a : Alarm) (j : Subject) : (raiseAlarm a j s).now = s.now := by
  rw [raiseAlarm_same s _ _]
@[simp] theorem raiseAlarm_origin (a : Alarm) (j : Subject) : (raiseAlarm a j s).origin = s.origin := by
  rw [raiseAlarm_same s _ _]
@[simp] theorem raiseAlarm_freeCount (a : Alarm) (j : Subject) : (raiseAlarm a j s).freeCount = s.freeCount := by
  rw [raiseAlarm_same s _ _]
@[simp] theorem raiseAlarm_csu (a : Alarm) (j : Subject) : (raiseAlarm a j s).csu = s.csu := by
  rw [raiseAlarm_same s _ _]
@[simp] theorem raiseAlarm_tau (a : Alarm) (j : Subject) : (raiseAlarm a j s).tau = s.tau := by
  rw [raiseAlarm_same s _ _]
@[simp] theorem raiseAlarm_piu (a : Alarm) (j : Subject) : (raiseAlarm a j s).piu = s.piu := by
  rw [raiseAlarm_same s _ _]
@[simp] theorem raiseAlarm_cmu (a : Alarm) (j : Subject) : (raiseAlarm a j s).cmu = s.cmu := by
  rw [raiseAlarm_same s _ _]
@[simp] theorem raiseAlarm_fau (a : Alarm) (j : Subject) : (raiseAlarm a j s).fau = s.fau := by
  rw [raiseAlarm_same s _ _]
@[simp] theorem raiseAlarm_nvs (a : Alarm) (j : Subject) : (raiseAlarm a j s).nvs = s.nvs := by
  rw [raiseAlarm_same s _ _]
@[simp] theorem raiseAlarm_pcp (a : Alarm) (j : Subject) : (raiseAlarm a j s).pcp = s.pcp := by
  rw [raiseAlarm_same s _ _]
@[simp] theorem raiseAlarm_pck (a : Alarm) (j : Subject) : (raiseAlarm a j s).pck = s.pck := by
  rw [raiseAlarm_same s _ _]
@[simp] theorem raiseAlarm_fsw (a : Alarm) (j : Subject) : (raiseAlarm a j s).fsw = s.fsw := by
  rw [raiseAlarm_same s _ _]
@[simp] theorem raiseAlarm_hlc (a : Alarm) (j : Subject) : (raiseAlarm a j s).hlc = s.hlc := by
  rw [raiseAlarm_same s _ _]
@[simp] theorem raiseAlarm_pending (a : Alarm) (j : Subject) : (raiseAlarm a j s).pending = s.pending := by
  rw [raiseAlarm_same s _ _]

/-! ## clearAlarm -/

@[simp] theorem clearAlarm_power (a : Alarm) (j : Subject) : (clearAlarm a j s).power = s.power := by
  rw [clearAlarm_same s _ _]
@[simp] theorem clearAlarm_role (a : Alarm) (j : Subject) : (clearAlarm a j s).role = s.role := by
  rw [clearAlarm_same s _ _]
@[simp] theorem clearAlarm_resetPin (a : Alarm) (j : Subject) : (clearAlarm a j s).resetPin = s.resetPin := by
  rw [clearAlarm_same s _ _]
@[simp] theorem clearAlarm_now (a : Alarm) (j : Subject) : (clearAlarm a j s).now = s.now := by
  rw [clearAlarm_same s _ _]
@[simp] theorem clearAlarm_origin (a : Alarm) (j : Subject) : (clearAlarm a j s).origin = s.origin := by
  rw [clearAlarm_same s _ _]
@[simp] theorem clearAlarm_freeCount (a : Alarm) (j : Subject) : (clearAlarm a j s).freeCount = s.freeCount := by
  rw [clearAlarm_same s _ _]
@[simp] theorem clearAlarm_csu (a : Alarm) (j : Subject) : (clearAlarm a j s).csu = s.csu := by
  rw [clearAlarm_same s _ _]
@[simp] theorem clearAlarm_tau (a : Alarm) (j : Subject) : (clearAlarm a j s).tau = s.tau := by
  rw [clearAlarm_same s _ _]
@[simp] theorem clearAlarm_piu (a : Alarm) (j : Subject) : (clearAlarm a j s).piu = s.piu := by
  rw [clearAlarm_same s _ _]
@[simp] theorem clearAlarm_cmu (a : Alarm) (j : Subject) : (clearAlarm a j s).cmu = s.cmu := by
  rw [clearAlarm_same s _ _]
@[simp] theorem clearAlarm_fau (a : Alarm) (j : Subject) : (clearAlarm a j s).fau = s.fau := by
  rw [clearAlarm_same s _ _]
@[simp] theorem clearAlarm_nvs (a : Alarm) (j : Subject) : (clearAlarm a j s).nvs = s.nvs := by
  rw [clearAlarm_same s _ _]
@[simp] theorem clearAlarm_pcp (a : Alarm) (j : Subject) : (clearAlarm a j s).pcp = s.pcp := by
  rw [clearAlarm_same s _ _]
@[simp] theorem clearAlarm_pck (a : Alarm) (j : Subject) : (clearAlarm a j s).pck = s.pck := by
  rw [clearAlarm_same s _ _]
@[simp] theorem clearAlarm_fsw (a : Alarm) (j : Subject) : (clearAlarm a j s).fsw = s.fsw := by
  rw [clearAlarm_same s _ _]
@[simp] theorem clearAlarm_hlc (a : Alarm) (j : Subject) : (clearAlarm a j s).hlc = s.hlc := by
  rw [clearAlarm_same s _ _]
@[simp] theorem clearAlarm_pending (a : Alarm) (j : Subject) : (clearAlarm a j s).pending = s.pending := by
  rw [clearAlarm_same s _ _]

/-! ## syncAlarm -/

@[simp] theorem syncAlarm_power (a : Alarm) (j : Subject) (b : Bool) : (syncAlarm a j b s).power = s.power := by
  rw [syncAlarm_same s _ _ _]
@[simp] theorem syncAlarm_role (a : Alarm) (j : Subject) (b : Bool) : (syncAlarm a j b s).role = s.role := by
  rw [syncAlarm_same s _ _ _]
@[simp] theorem syncAlarm_resetPin (a : Alarm) (j : Subject) (b : Bool) : (syncAlarm a j b s).resetPin = s.resetPin := by
  rw [syncAlarm_same s _ _ _]
@[simp] theorem syncAlarm_now (a : Alarm) (j : Subject) (b : Bool) : (syncAlarm a j b s).now = s.now := by
  rw [syncAlarm_same s _ _ _]
@[simp] theorem syncAlarm_origin (a : Alarm) (j : Subject) (b : Bool) : (syncAlarm a j b s).origin = s.origin := by
  rw [syncAlarm_same s _ _ _]
@[simp] theorem syncAlarm_freeCount (a : Alarm) (j : Subject) (b : Bool) : (syncAlarm a j b s).freeCount = s.freeCount := by
  rw [syncAlarm_same s _ _ _]
@[simp] theorem syncAlarm_csu (a : Alarm) (j : Subject) (b : Bool) : (syncAlarm a j b s).csu = s.csu := by
  rw [syncAlarm_same s _ _ _]
@[simp] theorem syncAlarm_tau (a : Alarm) (j : Subject) (b : Bool) : (syncAlarm a j b s).tau = s.tau := by
  rw [syncAlarm_same s _ _ _]
@[simp] theorem syncAlarm_piu (a : Alarm) (j : Subject) (b : Bool) : (syncAlarm a j b s).piu = s.piu := by
  rw [syncAlarm_same s _ _ _]
@[simp] theorem syncAlarm_cmu (a : Alarm) (j : Subject) (b : Bool) : (syncAlarm a j b s).cmu = s.cmu := by
  rw [syncAlarm_same s _ _ _]
@[simp] theorem syncAlarm_fau (a : Alarm) (j : Subject) (b : Bool) : (syncAlarm a j b s).fau = s.fau := by
  rw [syncAlarm_same s _ _ _]
@[simp] theorem syncAlarm_nvs (a : Alarm) (j : Subject) (b : Bool) : (syncAlarm a j b s).nvs = s.nvs := by
  rw [syncAlarm_same s _ _ _]
@[simp] theorem syncAlarm_pcp (a : Alarm) (j : Subject) (b : Bool) : (syncAlarm a j b s).pcp = s.pcp := by
  rw [syncAlarm_same s _ _ _]
@[simp] theorem syncAlarm_pck (a : Alarm) (j : Subject) (b : Bool) : (syncAlarm a j b s).pck = s.pck := by
  rw [syncAlarm_same s _ _ _]
@[simp] theorem syncAlarm_fsw (a : Alarm) (j : Subject) (b : Bool) : (syncAlarm a j b s).fsw = s.fsw := by
  rw [syncAlarm_same s _ _ _]
@[simp] theorem syncAlarm_hlc (a : Alarm) (j : Subject) (b : Bool) : (syncAlarm a j b s).hlc = s.hlc := by
  rw [syncAlarm_same s _ _ _]
@[simp] theorem syncAlarm_pending (a : Alarm) (j : Subject) (b : Bool) : (syncAlarm a j b s).pending = s.pending := by
  rw [syncAlarm_same s _ _ _]

/-! ## clearAllOf -/

@[simp] theorem clearAllOf_power (a : Alarm) : (clearAllOf a s).power = s.power := by
  rw [clearAllOf_same s _]
@[simp] theorem clearAllOf_role (a : Alarm) : (clearAllOf a s).role = s.role := by
  rw [clearAllOf_same s _]
@[simp] theorem clearAllOf_resetPin (a : Alarm) : (clearAllOf a s).resetPin = s.resetPin := by
  rw [clearAllOf_same s _]
@[simp] theorem clearAllOf_now (a : Alarm) : (clearAllOf a s).now = s.now := by
  rw [clearAllOf_same s _]
@[simp] theorem clearAllOf_origin (a : Alarm) : (clearAllOf a s).origin = s.origin := by
  rw [clearAllOf_same s _]
@[simp] theorem clearAllOf_freeCount (a : Alarm) : (clearAllOf a s).freeCount = s.freeCount := by
  rw [clearAllOf_same s _]
@[simp] theorem clearAllOf_csu (a : Alarm) : (clearAllOf a s).csu = s.csu := by
  rw [clearAllOf_same s _]
@[simp] theorem clearAllOf_tau (a : Alarm) : (clearAllOf a s).tau = s.tau := by
  rw [clearAllOf_same s _]
@[simp] theorem clearAllOf_piu (a : Alarm) : (clearAllOf a s).piu = s.piu := by
  rw [clearAllOf_same s _]
@[simp] theorem clearAllOf_cmu (a : Alarm) : (clearAllOf a s).cmu = s.cmu := by
  rw [clearAllOf_same s _]
@[simp] theorem clearAllOf_fau (a : Alarm) : (clearAllOf a s).fau = s.fau := by
  rw [clearAllOf_same s _]
@[simp] theorem clearAllOf_nvs (a : Alarm) : (clearAllOf a s).nvs = s.nvs := by
  rw [clearAllOf_same s _]
@[simp] theorem clearAllOf_pcp (a : Alarm) : (clearAllOf a s).pcp = s.pcp := by
  rw [clearAllOf_same s _]
@[simp] theorem clearAllOf_pck (a : Alarm) : (clearAllOf a s).pck = s.pck := by
  rw [clearAllOf_same s _]
@[simp] theorem clearAllOf_fsw (a : Alarm) : (clearAllOf a s).fsw = s.fsw := by
  rw [clearAllOf_same s _]
@[simp] theorem clearAllOf_hlc (a : Alarm) : (clearAllOf a s).hlc = s.hlc := by
  rw [clearAllOf_same s _]
@[simp] theorem clearAllOf_pending (a : Alarm) : (clearAllOf a s).pending = s.pending := by
  rw [clearAllOf_same s _]

/-! ## reportStatus -/

@[simp] theorem reportStatus_power (st : Option (Fin 4)) (o : StatusOutcome) (d : Byte) : (reportStatus st o d s).power = s.power := by
  rw [reportStatus_same s _ _ _]
@[simp] theorem reportStatus_role (st : Option (Fin 4)) (o : StatusOutcome) (d : Byte) : (reportStatus st o d s).role = s.role := by
  rw [reportStatus_same s _ _ _]
@[simp] theorem reportStatus_resetPin (st : Option (Fin 4)) (o : StatusOutcome) (d : Byte) : (reportStatus st o d s).resetPin = s.resetPin := by
  rw [reportStatus_same s _ _ _]
@[simp] theorem reportStatus_now (st : Option (Fin 4)) (o : StatusOutcome) (d : Byte) : (reportStatus st o d s).now = s.now := by
  rw [reportStatus_same s _ _ _]
@[simp] theorem reportStatus_origin (st : Option (Fin 4)) (o : StatusOutcome) (d : Byte) : (reportStatus st o d s).origin = s.origin := by
  rw [reportStatus_same s _ _ _]
@[simp] theorem reportStatus_freeCount (st : Option (Fin 4)) (o : StatusOutcome) (d : Byte) : (reportStatus st o d s).freeCount = s.freeCount := by
  rw [reportStatus_same s _ _ _]
@[simp] theorem reportStatus_csu (st : Option (Fin 4)) (o : StatusOutcome) (d : Byte) : (reportStatus st o d s).csu = s.csu := by
  rw [reportStatus_same s _ _ _]
@[simp] theorem reportStatus_tau (st : Option (Fin 4)) (o : StatusOutcome) (d : Byte) : (reportStatus st o d s).tau = s.tau := by
  rw [reportStatus_same s _ _ _]
@[simp] theorem reportStatus_piu (st : Option (Fin 4)) (o : StatusOutcome) (d : Byte) : (reportStatus st o d s).piu = s.piu := by
  rw [reportStatus_same s _ _ _]
@[simp] theorem reportStatus_cmu (st : Option (Fin 4)) (o : StatusOutcome) (d : Byte) : (reportStatus st o d s).cmu = s.cmu := by
  rw [reportStatus_same s _ _ _]
@[simp] theorem reportStatus_fau (st : Option (Fin 4)) (o : StatusOutcome) (d : Byte) : (reportStatus st o d s).fau = s.fau := by
  rw [reportStatus_same s _ _ _]
@[simp] theorem reportStatus_nvs (st : Option (Fin 4)) (o : StatusOutcome) (d : Byte) : (reportStatus st o d s).nvs = s.nvs := by
  rw [reportStatus_same s _ _ _]
@[simp] theorem reportStatus_pcp (st : Option (Fin 4)) (o : StatusOutcome) (d : Byte) : (reportStatus st o d s).pcp = s.pcp := by
  rw [reportStatus_same s _ _ _]
@[simp] theorem reportStatus_pck (st : Option (Fin 4)) (o : StatusOutcome) (d : Byte) : (reportStatus st o d s).pck = s.pck := by
  rw [reportStatus_same s _ _ _]
@[simp] theorem reportStatus_fsw (st : Option (Fin 4)) (o : StatusOutcome) (d : Byte) : (reportStatus st o d s).fsw = s.fsw := by
  rw [reportStatus_same s _ _ _]
@[simp] theorem reportStatus_hlc (st : Option (Fin 4)) (o : StatusOutcome) (d : Byte) : (reportStatus st o d s).hlc = s.hlc := by
  rw [reportStatus_same s _ _ _]
@[simp] theorem reportStatus_pending (st : Option (Fin 4)) (o : StatusOutcome) (d : Byte) : (reportStatus st o d s).pending = s.pending := by
  rw [reportStatus_same s _ _ _]

/-! ## report -/

@[simp] theorem report_power (st : Fin 4) (o : StatusOutcome) : (report st o s).power = s.power := by
  rw [report_same s _ _]
@[simp] theorem report_role (st : Fin 4) (o : StatusOutcome) : (report st o s).role = s.role := by
  rw [report_same s _ _]
@[simp] theorem report_resetPin (st : Fin 4) (o : StatusOutcome) : (report st o s).resetPin = s.resetPin := by
  rw [report_same s _ _]
@[simp] theorem report_now (st : Fin 4) (o : StatusOutcome) : (report st o s).now = s.now := by
  rw [report_same s _ _]
@[simp] theorem report_origin (st : Fin 4) (o : StatusOutcome) : (report st o s).origin = s.origin := by
  rw [report_same s _ _]
@[simp] theorem report_freeCount (st : Fin 4) (o : StatusOutcome) : (report st o s).freeCount = s.freeCount := by
  rw [report_same s _ _]
@[simp] theorem report_csu (st : Fin 4) (o : StatusOutcome) : (report st o s).csu = s.csu := by
  rw [report_same s _ _]
@[simp] theorem report_tau (st : Fin 4) (o : StatusOutcome) : (report st o s).tau = s.tau := by
  rw [report_same s _ _]
@[simp] theorem report_piu (st : Fin 4) (o : StatusOutcome) : (report st o s).piu = s.piu := by
  rw [report_same s _ _]
@[simp] theorem report_cmu (st : Fin 4) (o : StatusOutcome) : (report st o s).cmu = s.cmu := by
  rw [report_same s _ _]
@[simp] theorem report_fau (st : Fin 4) (o : StatusOutcome) : (report st o s).fau = s.fau := by
  rw [report_same s _ _]
@[simp] theorem report_nvs (st : Fin 4) (o : StatusOutcome) : (report st o s).nvs = s.nvs := by
  rw [report_same s _ _]
@[simp] theorem report_pcp (st : Fin 4) (o : StatusOutcome) : (report st o s).pcp = s.pcp := by
  rw [report_same s _ _]
@[simp] theorem report_pck (st : Fin 4) (o : StatusOutcome) : (report st o s).pck = s.pck := by
  rw [report_same s _ _]
@[simp] theorem report_fsw (st : Fin 4) (o : StatusOutcome) : (report st o s).fsw = s.fsw := by
  rw [report_same s _ _]
@[simp] theorem report_hlc (st : Fin 4) (o : StatusOutcome) : (report st o s).hlc = s.hlc := by
  rw [report_same s _ _]
@[simp] theorem report_pending (st : Fin 4) (o : StatusOutcome) : (report st o s).pending = s.pending := by
  rw [report_same s _ _]

/-! ## respond -/

@[simp] theorem respond_power (node : Node) (kind : Nat) (a : Answer) (data : List Byte) : (respond node kind a data s).power = s.power := by
  rw [respond_same s _ _ _ _]
@[simp] theorem respond_role (node : Node) (kind : Nat) (a : Answer) (data : List Byte) : (respond node kind a data s).role = s.role := by
  rw [respond_same s _ _ _ _]
@[simp] theorem respond_resetPin (node : Node) (kind : Nat) (a : Answer) (data : List Byte) : (respond node kind a data s).resetPin = s.resetPin := by
  rw [respond_same s _ _ _ _]
@[simp] theorem respond_now (node : Node) (kind : Nat) (a : Answer) (data : List Byte) : (respond node kind a data s).now = s.now := by
  rw [respond_same s _ _ _ _]
@[simp] theorem respond_origin (node : Node) (kind : Nat) (a : Answer) (data : List Byte) : (respond node kind a data s).origin = s.origin := by
  rw [respond_same s _ _ _ _]
@[simp] theorem respond_freeCount (node : Node) (kind : Nat) (a : Answer) (data : List Byte) : (respond node kind a data s).freeCount = s.freeCount := by
  rw [respond_same s _ _ _ _]
@[simp] theorem respond_csu (node : Node) (kind : Nat) (a : Answer) (data : List Byte) : (respond node kind a data s).csu = s.csu := by
  rw [respond_same s _ _ _ _]
@[simp] theorem respond_tau (node : Node) (kind : Nat) (a : Answer) (data : List Byte) : (respond node kind a data s).tau = s.tau := by
  rw [respond_same s _ _ _ _]
@[simp] theorem respond_piu (node : Node) (kind : Nat) (a : Answer) (data : List Byte) : (respond node kind a data s).piu = s.piu := by
  rw [respond_same s _ _ _ _]
@[simp] theorem respond_cmu (node : Node) (kind : Nat) (a : Answer) (data : List Byte) : (respond node kind a data s).cmu = s.cmu := by
  rw [respond_same s _ _ _ _]
@[simp] theorem respond_fau (node : Node) (kind : Nat) (a : Answer) (data : List Byte) : (respond node kind a data s).fau = s.fau := by
  rw [respond_same s _ _ _ _]
@[simp] theorem respond_nvs (node : Node) (kind : Nat) (a : Answer) (data : List Byte) : (respond node kind a data s).nvs = s.nvs := by
  rw [respond_same s _ _ _ _]
@[simp] theorem respond_pcp (node : Node) (kind : Nat) (a : Answer) (data : List Byte) : (respond node kind a data s).pcp = s.pcp := by
  rw [respond_same s _ _ _ _]
@[simp] theorem respond_pck (node : Node) (kind : Nat) (a : Answer) (data : List Byte) : (respond node kind a data s).pck = s.pck := by
  rw [respond_same s _ _ _ _]
@[simp] theorem respond_fsw (node : Node) (kind : Nat) (a : Answer) (data : List Byte) : (respond node kind a data s).fsw = s.fsw := by
  rw [respond_same s _ _ _ _]
@[simp] theorem respond_hlc (node : Node) (kind : Nat) (a : Answer) (data : List Byte) : (respond node kind a data s).hlc = s.hlc := by
  rw [respond_same s _ _ _ _]
@[simp] theorem respond_pending (node : Node) (kind : Nat) (a : Answer) (data : List Byte) : (respond node kind a data s).pending = s.pending := by
  rw [respond_same s _ _ _ _]

/-! ## finishLong -/

@[simp] theorem finishLong_power (a : Answer) (data : List Byte) : (finishLong a data s).power = s.power := by
  rw [finishLong_same s _ _]
@[simp] theorem finishLong_role (a : Answer) (data : List Byte) : (finishLong a data s).role = s.role := by
  rw [finishLong_same s _ _]
@[simp] theorem finishLong_resetPin (a : Answer) (data : List Byte) : (finishLong a data s).resetPin = s.resetPin := by
  rw [finishLong_same s _ _]
@[simp] theorem finishLong_now (a : Answer) (data : List Byte) : (finishLong a data s).now = s.now := by
  rw [finishLong_same s _ _]
@[simp] theorem finishLong_origin (a : Answer) (data : List Byte) : (finishLong a data s).origin = s.origin := by
  rw [finishLong_same s _ _]
@[simp] theorem finishLong_freeCount (a : Answer) (data : List Byte) : (finishLong a data s).freeCount = s.freeCount := by
  rw [finishLong_same s _ _]
@[simp] theorem finishLong_csu (a : Answer) (data : List Byte) : (finishLong a data s).csu = s.csu := by
  rw [finishLong_same s _ _]
@[simp] theorem finishLong_tau (a : Answer) (data : List Byte) : (finishLong a data s).tau = s.tau := by
  rw [finishLong_same s _ _]
@[simp] theorem finishLong_piu (a : Answer) (data : List Byte) : (finishLong a data s).piu = s.piu := by
  rw [finishLong_same s _ _]
@[simp] theorem finishLong_cmu (a : Answer) (data : List Byte) : (finishLong a data s).cmu = s.cmu := by
  rw [finishLong_same s _ _]
@[simp] theorem finishLong_fau (a : Answer) (data : List Byte) : (finishLong a data s).fau = s.fau := by
  rw [finishLong_same s _ _]
@[simp] theorem finishLong_nvs (a : Answer) (data : List Byte) : (finishLong a data s).nvs = s.nvs := by
  rw [finishLong_same s _ _]
@[simp] theorem finishLong_pcp (a : Answer) (data : List Byte) : (finishLong a data s).pcp = s.pcp := by
  rw [finishLong_same s _ _]
@[simp] theorem finishLong_pck (a : Answer) (data : List Byte) : (finishLong a data s).pck = s.pck := by
  rw [finishLong_same s _ _]
@[simp] theorem finishLong_fsw (a : Answer) (data : List Byte) : (finishLong a data s).fsw = s.fsw := by
  rw [finishLong_same s _ _]
@[simp] theorem finishLong_hlc (a : Answer) (data : List Byte) : (finishLong a data s).hlc = s.hlc := by
  rw [finishLong_same s _ _]
@[simp] theorem finishLong_pending (a : Answer) (data : List Byte) : (finishLong a data s).pending = s.pending := by
  rw [finishLong_same s _ _]

end Sys2Proof.Machine
end

