-- ==== Sys2Proof/Laws/Grant.lean ====
section
/-! SUPPORT. What a grant and the end of an arm hand: the frames of a grant in the order of log entry 8 (R11), and ARM-CANCELLED
(R90). -/

namespace Sys2Proof.Machine

theorem cancelArm_eq (s : State) : cancelArm s = armEnded s := by
  unfold cancelArm endArm armEnded
  cases s.cmu.release <;> rfl

theorem armEnded_same (s : State) :
    armEnded s = { s with pcw := (armEnded s).pcw, mgu := (armEnded s).mgu, cmu := (armEnded s).cmu } := by
  unfold armEnded
  split
  · rw [reportStatus_same]
  · rfl
  · rfl

theorem armEnded_csu (s : State) : (armEnded s).csu = s.csu := by rw [armEnded_same]

/-- A grant hands its frames as `GrantHanded` says, in every state. -/
theorem grant_handed (i : Fin 4) (gave : Bool) (s : State) : GrantHanded i gave s (grant i gave s) := by
  constructor
  · intro h
    unfold grant
    simp only [h, cancelArm_eq, armEnded_csu, report_csu]
    unfold endStale
    rw [clearAllOf_csu]
    rfl
  · intro o h
    unfold grant
    simp only [h, cancelArm_eq, armEnded_csu, report_csu]
    unfold endStale
    rw [clearAllOf_csu]
    cases gave
    · unfold leaveOutcome
      cases hp : s.csu.stations[o].presence <;> rfl
    · rfl

end Sys2Proof.Machine
end

