-- ==== Sys2Proof/Laws/Memory.lean ====
section
/-! SUPPORT. The laws of the store's bytes: the canonical form, reads after writes, and programming, which only clears bits
(R121). -/

namespace Sys2Proof.Machine

/-- The canonical form in words of lists. -/
theorem wf_iff (m : Memory) :
    m.wf = true ↔ m.Pairwise (fun x y => x.1 < y.1) ∧ ∀ c ∈ m, c.2 ≠ erasedByte := by
  induction m with
  | nil => simp [Memory.wf]
  | cons x rest ih =>
    cases rest with
    | nil => obtain ⟨a, v⟩ := x; simp [Memory.wf]
    | cons y rest =>
      obtain ⟨a, v⟩ := x; obtain ⟨b, w⟩ := y
      have e : Memory.wf ((a, v) :: (b, w) :: rest) = true ↔
          (v ≠ erasedByte ∧ a < b) ∧ Memory.wf ((b, w) :: rest) = true := by
        simp [Memory.wf]
      rw [e, ih]
      simp only [List.pairwise_cons, List.mem_cons, forall_eq_or_imp]
      constructor
      · rintro ⟨⟨h1, h2⟩, ⟨h3, h4⟩, h5, h6⟩
        exact ⟨⟨⟨h2, fun c hc => lt_trans h2 (h3 c hc)⟩, h3, h4⟩, h1, h5, h6⟩
      · rintro ⟨⟨⟨h2, -⟩, h3, h4⟩, h1, h5, h6⟩
        exact ⟨⟨h1, h2⟩, ⟨h3, h4⟩, h5, h6⟩

/-- What stands in a memory after a write: the written cell or an old one. -/
theorem mem_memWrite {m : Memory} {a : Nat} {v : Byte} {c : Host.Cell} (h : c ∈ memWrite m a v) :
    c ∈ m ∨ c = (a, v) ∧ v ≠ erasedByte := by
  induction m with
  | nil =>
    simp only [memWrite] at h
    split at h <;> simp_all
  | cons x rest ih =>
    obtain ⟨b, w⟩ := x
    simp only [memWrite] at h
    split at h
    · split at h <;> simp_all
      tauto
    · split at h
      · split at h <;> simp_all
        tauto
      · simp only [List.mem_cons] at h ⊢
        rcases h with h | h
        · exact .inl (.inl h)
        · rcases ih h with h | h
          · exact .inl (.inr h)
          · exact .inr h

/-- A write keeps the canonical form. -/
@[simp] theorem memWrite_wf {m : Memory} (h : m.wf = true) (a : Nat) (v : Byte) : (memWrite m a v).wf = true := by
  rw [wf_iff] at h ⊢
  refine ⟨?_, fun c hc => ?_⟩
  · obtain ⟨h, h2⟩ := h
    induction m with
    | nil => simp only [memWrite]; split <;> simp
    | cons x rest ih =>
      obtain ⟨b, w⟩ := x
      rw [List.pairwise_cons] at h
      simp only [memWrite]
      split
      · split
        · simpa using h
        · rename_i hab _
          simp only [List.pairwise_cons, List.mem_cons, forall_eq_or_imp]
          exact ⟨⟨hab, fun c hc => lt_trans hab (h.1 c hc)⟩, h.1, h.2⟩
      · split
        · rename_i e
          split
          · exact h.2
          · rw [List.pairwise_cons]; exact ⟨fun c hc => e ▸ h.1 c hc, h.2⟩
        · rename_i h3 h4
          rw [List.pairwise_cons]
          refine ⟨fun c hc => ?_, ih h.2 (fun c hc => h2 c (List.mem_cons_of_mem _ hc))⟩
          rcases mem_memWrite hc with hc | ⟨rfl, -⟩
          · exact h.1 c hc
          · show b < a
            omega
  · rcases mem_memWrite hc with hc | ⟨rfl, h3⟩
    · exact h.2 c hc
    · exact h3

/-- An address below every listed one reads as erased. -/
theorem memRead_below {m : Memory} {a : Nat} (h : ∀ c ∈ m, a < c.1) : memRead m a = erasedByte := by
  induction m with
  | nil => rfl
  | cons x rest ih =>
    obtain ⟨b, w⟩ := x
    have hb : a < b := h (b, w) (List.mem_cons_self ..)
    have : b ≠ a := by omega
    simp only [memRead, this, if_false]
    exact ih fun c hc => h c (List.mem_cons_of_mem _ hc)

/-- A read after a write. -/
theorem memRead_memWrite {m : Memory} (h : m.wf = true) (a b : Nat) (v : Byte) :
    memRead (memWrite m a v) b = if b = a then v else memRead m b := by
  have h0 := (wf_iff m).1 h |>.1
  clear h
  induction m with
  | nil =>
    simp only [memWrite]
    split
    · rename_i e; subst e; simp [memRead]
    · simp only [memRead]; split <;> split <;> simp_all
  | cons x rest ih =>
    obtain ⟨c, w⟩ := x
    rw [List.pairwise_cons] at h0
    have low : ∀ y, y ≤ c → memRead rest y = erasedByte := fun y hy =>
      memRead_below fun z hz => lt_of_le_of_lt hy (h0.1 z hz)
    have ih := ih h0.2
    simp only [memWrite]
    split
    · rename_i hac
      have hc : c ≠ a := by omega
      split
      · rename_i e
        by_cases hb : b = a
        · subst hb; simp [memRead, hc, low b (by omega), e]
        · simp [hb]
      · by_cases hb : b = a
        · subst hb; simp [memRead]
        · have : a ≠ b := fun e => hb e.symm
          simp [memRead, hb, this]
    · split
      · rename_i e
        subst e
        split
        · rename_i e
          by_cases hb : b = c
          · subst hb; simp [low b le_rfl, e]
          · have : c ≠ b := fun e => hb e.symm
            simp [memRead, hb, this]
        · by_cases hb : b = c
          · subst hb; simp [memRead]
          · have : c ≠ b := fun e => hb e.symm
            simp [memRead, hb, this]
      · rename_i hca
        simp only [memRead, ih]
        by_cases hb : b = a
        · subst hb; simp [hca]
        · simp [hb]

/-- Programming keeps the canonical form. -/
@[simp] theorem memProgram_wf {m : Memory} (h : m.wf = true) (a : Nat) (v : Byte) :
    (memProgram m a v).wf = true := memWrite_wf h a _

@[simp] theorem memProgramAll_wf {m : Memory} (h : m.wf = true) (a : Nat) (l : List Byte) :
    (memProgramAll m a l).wf = true := by
  induction l generalizing m a with
  | nil => exact h
  | cons v rest ih => exact ih (memProgram_wf h a v) (a + 1)

/-- One byte programmed (R121). -/
theorem memRead_memProgram {m : Memory} (h : m.wf = true) (a b : Nat) (v : Byte) :
    memRead (memProgram m a v) b = if b = a then memRead m a &&& v else memRead m b :=
  memRead_memWrite h a b _

/-- Bytes programmed from an address on: each is the old byte and the new one, and no other byte changes (R121). -/
theorem memRead_memProgramAll {m : Memory} (h : m.wf = true) (a : Nat) (l : List Byte) (b : Nat) :
    memRead (memProgramAll m a l) b =
      if h : a ≤ b ∧ b - a < l.length then memRead m b &&& l[b - a] else memRead m b := by
  induction l generalizing m a with
  | nil => simp [memProgramAll]
  | cons v rest ih =>
    simp only [memProgramAll, ih (memProgram_wf h a v), memRead_memProgram h]
    by_cases hb : b = a
    · subst hb; simp
    · simp only [hb, if_false, List.length_cons]
      by_cases h1 : a + 1 ≤ b ∧ b - (a + 1) < rest.length
      · have h2 : a ≤ b ∧ b - a < rest.length + 1 := by omega
        have h3 : b - a = (b - (a + 1)) + 1 := by omega
        simp only [h1, h2, and_self, dif_pos]
        congr 1
        simp [h3]
      · have h2 : ¬(a ≤ b ∧ b - a < rest.length + 1) := by omega
        rw [dif_neg h1, dif_neg h2]

/-- A program cut short clears at most the bits it was to clear, in the bytes it was to write (R133). -/
theorem memRead_tornProgram {m : Memory} (h : m.wf = true) (a : Nat) (l : List Byte) (count b : Nat) :
    memRead (tornProgram m a l count) b =
      if h : a ≤ b ∧ b - a < l.length then memRead m b &&& (l[b - a] ||| Config.freeTorn count (b - a)) else memRead m b := by
  rw [tornProgram, memRead_memProgramAll h]
  simp

/-- While the bytes before the CRC are not whole, and outside the CRC, a record cut short is a program of those bytes cut
short (R127). -/
theorem memRead_cutRecord {m : Memory} (h : m.wf = true) (p : Snapshot) (seq count b : Nat)
    (hb : b < 252 ∨ memBytes (tornProgram m 0 (recordHead p seq) count) 0 95 ≠ recordHead p seq) :
    memRead (cutRecord m p seq count) b = memRead (tornProgram m 0 (recordHead p seq) count) b := by
  unfold cutRecord
  extract_lets m1
  have h1 : m1.wf = true := memProgramAll_wf h _ _
  split
  · rename_i e
    rcases hb with hb | hb
    · rw [memRead_memProgramAll h1, dif_neg (by omega)]
    · exact absurd (beq_iff_eq.1 e) hb
  · rfl

/-- A byte of a stretch of bytes. -/
theorem memBytes_getElem? (m : Memory) {a n i : Nat} (h : i < n) : (memBytes m a n)[i]? = some (memRead m (a + i)) := by
  simp [memBytes, h]

/-- A write leaves the reads of every other address as they were. -/
theorem memRead_memWrite_other {a b : Nat} (h : b ≠ a) (m : Memory) (v : Byte) :
    memRead (memWrite m a v) b = memRead m b := by
  have h' : a ≠ b := fun e => h e.symm
  induction m with
  | nil => simp only [memWrite]; split <;> simp [memRead, h']
  | cons x rest ih =>
    obtain ⟨c, w⟩ := x
    simp only [memWrite]
    split
    · split <;> simp [memRead, h']
    · split
      · rename_i e; subst e; split <;> simp [memRead, h']
      · simp [memRead, ih]

/-- An erase that did not end well keeps the canonical form. -/
@[simp] theorem tornErase_wf {m : Memory} (h : m.wf = true) (count : Nat) : (tornErase m count).wf = true := by
  have : ∀ (l : List Host.Cell) (acc : Memory), acc.wf = true →
      Memory.wf (l.foldl (fun acc c => memWrite acc c.1 (c.2 ||| Config.freeTorn count c.1)) acc) = true := by
    intro l
    induction l with
    | nil => exact fun _ h => h
    | cons x rest ih => exact fun acc h => ih _ (memWrite_wf h _ _)
  exact this m m h

/-- A part of a memory kept by address stays canonical. -/
@[simp] theorem filter_wf {m : Memory} (h : m.wf = true) (p : Host.Cell → Bool) :
    Memory.wf (List.filter p m) = true := by
  rw [wf_iff] at h ⊢
  exact ⟨h.1.filter p, fun c hc => h.2 c (List.mem_filter.1 hc).1⟩

@[simp] theorem nil_wf : Memory.wf [] = true := rfl

@[simp] theorem erased_bank_wf : Bank.erased.cells.wf = true := rfl
@[simp] theorem erased_slot_wf : Slot.erased.cells.wf = true := rfl

end Sys2Proof.Machine
end

