-- ==== Sys2Proof/Laws/Keeps.lean ====
section
/-! SUPPORT. What no effect of a running part touches (the role, the waiting commands, the RESET pin, the clock's direction)
the invariant that each keeps, and the balance of the books: one relation between the state before and the state after, one lemma for each shared
update and operation. -/

namespace Sys2Proof.Machine

/-- From `x`, the state `s` was reached by effects that leave the role, the queue of commands and the pin alone, never move
the clock back, and keep the invariant. -/
structure Reaches (x s : State) : Prop where
  role : s.role = x.role
  pending : s.pending = x.pending
  resetPin : s.resetPin = x.resetPin
  now : x.now ≤ s.now
  sound : Sound x → Sound s

theorem Reaches.trans {x s t : State} (h : Reaches x s) (k : Reaches s t) : Reaches x t :=
  ⟨k.role.trans h.role, k.pending.trans h.pending, k.resetPin.trans h.resetPin, h.now.trans k.now,
    fun hx => k.sound (h.sound hx)⟩

/-- That, with the books kept balanced, but for a start-up scan, which takes them from the store. -/
structure Keeps (x s : State) : Prop where
  reaches : Reaches x s
  books : x.power ≠ .scan → x.fau.Balanced → s.fau.Balanced

theorem Keeps.refl (s : State) : Keeps s s := ⟨⟨rfl, rfl, rfl, le_rfl, id⟩, fun _ => id⟩

/-- A further effect. -/
theorem Keeps.to {x s t : State} (h : Keeps x s) (role : t.role = s.role) (pending : t.pending = s.pending)
    (pin : t.resetPin = s.resetPin) (now : s.now ≤ t.now) (sound : Sound s → Sound t)
    (books : s.fau.Balanced → t.fau.Balanced) : Keeps x t :=
  ⟨h.reaches.trans ⟨role, pending, pin, now, sound⟩, fun hp hx => books (h.books hp hx)⟩

/-- A further effect, its books apart. -/
theorem Keeps.step {x s t : State} (h : Keeps x s) (k : Reaches s t) (books : s.fau.Balanced → t.fau.Balanced) :
    Keeps x t := ⟨h.reaches.trans k, fun hp hx => books (h.books hp hx)⟩

/-! ## The invariant read off the fields it speaks of -/

def Holder (v : Vector Station 4) (a b : Option (Fin 4)) : Prop :=
  (∀ i : Fin 4, v[i].state = .inCommand ↔ a = some i) ∧ ∀ i : Fin 4, v[i].state = .requesting ↔ b = some i

@[simp] theorem oneHolder_iff (c : Csu) : c.OneHolder ↔ Holder c.stations c.inCommand c.request := Iff.rfl

def PortFits (rx : Vector (List Frame) 4) (tx : Vector (List TxEntry) 4) : Prop :=
  ∀ q : Fin 4, rx[q].length ≤ Config.segmentDepth ∧ tx[q].length ≤ Config.segmentDepth

@[simp] theorem withinDepth_iff (c : PortCtl) : c.WithinDepth ↔ PortFits c.rx c.tx := Iff.rfl

def LinkFits (v : Vector LinkQueue 4) : Prop :=
  ∀ q : Fin 4, v[q].rx.length ≤ Config.linkDepth ∧ v[q].tx.length ≤ Config.linkDepth

@[simp] theorem linkWithinDepth_iff (h : Hlc) : h.WithinDepth ↔ LinkFits h.queues := Iff.rfl

def CellsWf (banks : Vector Bank 10) (slots : Vector Slot 8) : Prop :=
  (∀ b : Fin 10, banks[b].cells.wf = true) ∧ ∀ i : Fin 8, slots[i].cells.wf = true

@[simp] theorem canonical_iff (n : Nvs) : n.Canonical ↔ CellsWf n.banks n.slots := Iff.rfl

def RaisedKept (raised : List (Alarm × Subject)) (sticky : Vector Bool 27) : Prop :=
  raised.Nodup ∧ ∀ x ∈ raised, sticky[alarmIx x.1] = true

@[simp] theorem alarmsKept_iff (m : Mgu) : m.AlarmsKept ↔ RaisedKept m.raised m.sticky := Iff.rfl

def tankSum (v : Vector Tank 8) : Int := ∑ i : Fin 8, v[i].balance
def totalSum (v : Vector Account 4) : Int := ∑ e : Fin 4, v[e].total

def Books (sat : Bool) (y : Voyage) (tanks : Vector Tank 8) (accounts : Vector Account 4) : Prop :=
  sat = false → y.opening + y.bunkered = tankSum tanks + totalSum accounts

@[simp] theorem balanced_iff (u : Fau) : u.Balanced ↔ Books u.sat u.voyage u.tanks u.accounts := Iff.rfl

/-- One tank changed. -/
theorem tankSum_updAt (v : Vector Tank 8) (i : Fin 8) (f : Tank → Tank) :
    tankSum (updAt v i f) = tankSum v + ((f v[i]).balance - v[i].balance) := by
  have e : ∀ j : Fin 8, (updAt v i f)[j].balance = v[j].balance + if i = j then (f v[i]).balance - v[i].balance else 0 := by
    intro j
    by_cases hj : i = j
    · subst hj; simp
    · rw [Fin.getElem_fin, updAt_other v hj, if_neg hj, add_zero]; rfl
  simp only [tankSum, e, Finset.sum_add_distrib, Finset.sum_ite_eq, Finset.mem_univ, if_true]

/-- One account changed. -/
theorem totalSum_updAt (v : Vector Account 4) (i : Fin 4) (f : Account → Account) :
    totalSum (updAt v i f) = totalSum v + ((f v[i]).total - v[i].total) := by
  have e : ∀ j : Fin 4, (updAt v i f)[j].total = v[j].total + if i = j then (f v[i]).total - v[i].total else 0 := by
    intro j
    by_cases hj : i = j
    · subst hj; simp
    · rw [Fin.getElem_fin, updAt_other v hj, if_neg hj, add_zero]; rfl
  simp only [totalSum, e, Finset.sum_add_distrib, Finset.sum_ite_eq, Finset.mem_univ, if_true]

/-- A station's record changed but for its state. -/
@[simp] theorem Holder.updAt {v : Vector Station 4} {a b : Option (Fin 4)} (h : Holder v a b) (i : Fin 4)
    (f : Station → Station) (hf : ∀ r, (f r).state = r.state) : Holder (updAt v i f) a b := by
  have e : ∀ j : Fin 4, (Machine.updAt v i f)[j].state = v[j].state := by
    intro j
    by_cases hj : i = j
    · subst hj; simp [hf]
    · rw [Fin.getElem_fin, updAt_other v hj]; rfl
  exact ⟨fun j => by rw [e]; exact h.1 j, fun j => by rw [e]; exact h.2 j⟩

/-- A station moved between ABSENT and PRESENT. -/
theorem Holder.idle {v : Vector Station 4} {a b : Option (Fin 4)} (h : Holder v a b) (i : Fin 4)
    (f : Station → Station) (old : v[i].state = .absent ∨ v[i].state = .present)
    (new : (f v[i]).state = .absent ∨ (f v[i]).state = .present) : Holder (Machine.updAt v i f) a b := by
  have h1 := h.1 i
  have h2 := h.2 i
  refine ⟨fun j => ?_, fun j => ?_⟩ <;> by_cases hj : i = j
  · subst hj
    rw [Fin.getElem_fin, updAt_same]
    rw [← h1]
    rcases old with e | e <;> rcases new with e' | e' <;> simp only [Fin.getElem_fin] at e e' <;> simp [e, e']
  · rw [Fin.getElem_fin, updAt_other v hj]; exact h.1 j
  · subst hj
    rw [Fin.getElem_fin, updAt_same]
    rw [← h2]
    rcases old with e | e <;> rcases new with e' | e' <;> simp only [Fin.getElem_fin] at e e' <;> simp [e, e']
  · rw [Fin.getElem_fin, updAt_other v hj]; exact h.2 j

/-- A link queue changed without growth. -/
@[simp] theorem LinkFits.updAt {v : Vector LinkQueue 4} (h : LinkFits v) (q : Fin 4) (f : LinkQueue → LinkQueue)
    (hf : ∀ y, (f y).rx.length ≤ y.rx.length ∧ (f y).tx.length ≤ y.tx.length) : LinkFits (updAt v q f) := by
  intro j
  have := h j
  by_cases e : q = j
  · subst e
    rw [Fin.getElem_fin, updAt_same]
    exact ⟨(hf _).1.trans this.1, (hf _).2.trans this.2⟩
  · rw [Fin.getElem_fin, updAt_other _ e]; exact this

@[simp] theorem LinkFits.map {v : Vector LinkQueue 4} (h : LinkFits v) (f : LinkQueue → LinkQueue)
    (hf : ∀ y, (f y).rx.length ≤ y.rx.length ∧ (f y).tx.length ≤ y.tx.length) : LinkFits (v.map f) := by
  intro j
  have := h j
  rw [Fin.getElem_fin, Vector.getElem_map]
  exact ⟨(hf _).1.trans this.1, (hf _).2.trans this.2⟩

/-! ## One lemma per update -/

section Updates
variable {x s : State}

@[simp] theorem Keeps.onTau (h : Keeps x s) (f : Tau → Tau) : Keeps x (s.onTau f) :=
  h.to rfl rfl rfl le_rfl (fun z => ⟨z.csu, z.pcw, z.pcp, z.pck, z.hlc, z.nvs, z.mgu⟩) id

@[simp] theorem Keeps.onPiu (h : Keeps x s) (f : Piu → Piu) : Keeps x (s.onPiu f) :=
  h.to rfl rfl rfl le_rfl (fun z => ⟨z.csu, z.pcw, z.pcp, z.pck, z.hlc, z.nvs, z.mgu⟩) id

@[simp] theorem Keeps.onCmu (h : Keeps x s) (f : Cmu → Cmu) : Keeps x (s.onCmu f) :=
  h.to rfl rfl rfl le_rfl (fun z => ⟨z.csu, z.pcw, z.pcp, z.pck, z.hlc, z.nvs, z.mgu⟩) id

/-- The accounts, where the change needs the state's own facts. -/
theorem Keeps.onFau' (h : Keeps x s) (f : Fau → Fau) (hf : s.fau.Balanced → (f s.fau).Balanced) :
    Keeps x (s.onFau f) :=
  h.to rfl rfl rfl le_rfl (fun z => ⟨z.csu, z.pcw, z.pcp, z.pck, z.hlc, z.nvs, z.mgu⟩) hf

@[simp] theorem Keeps.onFau (h : Keeps x s) (f : Fau → Fau) (hf : ∀ u, u.Balanced → (f u).Balanced) :
    Keeps x (s.onFau f) := h.onFau' f (hf _)

@[simp] theorem Keeps.onFsw (h : Keeps x s) (f : Fsw → Fsw) : Keeps x (s.onFsw f) :=
  h.to rfl rfl rfl le_rfl (fun z => ⟨z.csu, z.pcw, z.pcp, z.pck, z.hlc, z.nvs, z.mgu⟩) id

@[simp] theorem Keeps.upTo (h : Keeps x s) (t : Nat) : Keeps x (s.upTo t) :=
  h.to rfl rfl rfl (le_max_left ..) (fun z => ⟨z.csu, z.pcw, z.pcp, z.pck, z.hlc, z.nvs, z.mgu⟩) id

@[simp] theorem Keeps.tickFree (h : Keeps x s) : Keeps x s.tickFree :=
  h.to rfl rfl rfl le_rfl (fun z => ⟨z.csu, z.pcw, z.pcp, z.pck, z.hlc, z.nvs, z.mgu⟩) id

/-- The stations, where the change needs the state's own facts. -/
theorem Keeps.onCsu' (h : Keeps x s) (f : Csu → Csu) (hf : s.csu.OneHolder → (f s.csu).OneHolder) :
    Keeps x (s.onCsu f) :=
  h.to rfl rfl rfl le_rfl (fun z => ⟨hf z.csu, z.pcw, z.pcp, z.pck, z.hlc, z.nvs, z.mgu⟩) id

@[simp] theorem Keeps.onCsu (h : Keeps x s) (f : Csu → Csu) (hf : ∀ c, c.OneHolder → (f c).OneHolder) :
    Keeps x (s.onCsu f) := h.onCsu' f (hf s.csu)

theorem Keeps.onPort' (h : Keeps x s) (seg : Segment) (f : PortCtl → PortCtl)
    (hf : (s.port seg).WithinDepth → (f (s.port seg)).WithinDepth) : Keeps x (s.onPort seg f) := by
  cases seg
  · exact h.to rfl rfl rfl le_rfl (fun z => ⟨z.csu, hf z.pcw, z.pcp, z.pck, z.hlc, z.nvs, z.mgu⟩) id
  · exact h.to rfl rfl rfl le_rfl (fun z => ⟨z.csu, z.pcw, hf z.pcp, z.pck, z.hlc, z.nvs, z.mgu⟩) id
  · exact h.to rfl rfl rfl le_rfl (fun z => ⟨z.csu, z.pcw, z.pcp, hf z.pck, z.hlc, z.nvs, z.mgu⟩) id

@[simp] theorem Keeps.onPort (h : Keeps x s) (seg : Segment) (f : PortCtl → PortCtl)
    (hf : ∀ c, c.WithinDepth → (f c).WithinDepth) : Keeps x (s.onPort seg f) := h.onPort' seg f (hf _)

theorem Keeps.onHlc' (h : Keeps x s) (f : Hlc → Hlc) (hf : s.hlc.WithinDepth → (f s.hlc).WithinDepth) :
    Keeps x (s.onHlc f) :=
  h.to rfl rfl rfl le_rfl (fun z => ⟨z.csu, z.pcw, z.pcp, z.pck, hf z.hlc, z.nvs, z.mgu⟩) id

@[simp] theorem Keeps.onHlc (h : Keeps x s) (f : Hlc → Hlc) (hf : ∀ c, c.WithinDepth → (f c).WithinDepth) :
    Keeps x (s.onHlc f) := h.onHlc' f (hf _)

@[simp] theorem Keeps.onNvs (h : Keeps x s) (f : Nvs → Nvs) (hf : ∀ n, n.Canonical → (f n).Canonical) :
    Keeps x (s.onNvs f) :=
  h.to rfl rfl rfl le_rfl (fun z => ⟨z.csu, z.pcw, z.pcp, z.pck, z.hlc, hf _ z.nvs, z.mgu⟩) id

theorem Keeps.onMgu' (h : Keeps x s) (f : Mgu → Mgu) (hf : s.mgu.AlarmsKept → (f s.mgu).AlarmsKept) :
    Keeps x (s.onMgu f) :=
  h.to rfl rfl rfl le_rfl (fun z => ⟨z.csu, z.pcw, z.pcp, z.pck, z.hlc, z.nvs, hf z.mgu⟩) id

@[simp] theorem Keeps.onMgu (h : Keeps x s) (f : Mgu → Mgu) (hf : ∀ m, m.AlarmsKept → (f m).AlarmsKept) :
    Keeps x (s.onMgu f) := h.onMgu' f (hf _)

/-! ## Choices, folds and guards -/

@[simp] theorem Keeps.ite {c : Prop} [Decidable c] {a b : State} (ha : Keeps x a) (hb : Keeps x b) :
    Keeps x (if c then a else b) := by split <;> assumption

@[simp] theorem Keeps.foldl {α : Type} {f : State → α → State} (h : Keeps x s)
    (hf : ∀ s a, Keeps x s → Keeps x (f s a)) (l : List α) : Keeps x (l.foldl f s) := by
  induction l generalizing s with
  | nil => exact h
  | cons a l ih => exact ih (hf s a h)

/-- The state of an operation that also answers something. -/
theorem Keeps.ofPair {α : Type} {p : State × α} {t : State} {b : α} (e : p = (t, b)) (h : Keeps x p.1) : Keeps x t := by
  subst e; exact h

@[simp] theorem Keeps.onExpiry (h : Keeps x s) (t : Timer) {k : State → State}
    (hk : ∀ d, Keeps x (k (s.upTo d))) : Keeps x (onExpiry t s k) := by
  cases t with
  | none => exact h
  | some d => exact hk d

@[simp] theorem Keeps.whenRunning (h : Keeps x s) {k : State → State} (hk : Keeps x (k s)) :
    Keeps x (whenRunning s k) := by
  unfold Machine.whenRunning
  split <;> assumption

end Updates

end Sys2Proof.Machine
end

