-- ==== Sys2Proof/Laws/KeepsOps.lean ====
section
/-! SUPPORT. What the shared operations keep. -/

namespace Sys2Proof.Machine

variable {z s : State}

@[simp] theorem Keeps.handPort (h : Keeps z s) (seg : Segment) (f : Frame) (o : Origin) : Keeps z (handPort seg f o s).1 := by
  unfold Machine.handPort
  (try dsimp only)
  split
  · simp [h]
  · split
    · rename_i hq
      dsimp only
      refine h.onPort' seg _ fun hc q => ?_
      have := hc q
      refine ⟨this.1, ?_⟩
      by_cases e : classQueue s (segPort seg) f.cls = q
      · subst e; simpa using hq
      · rw [Fin.getElem_fin, updAt_other _ e]; exact this.2
    · simp [h]

@[simp] theorem Keeps.handLink (h : Keeps z s) (f : Frame) (o : Origin) : Keeps z (handLink f o s).1 := by
  unfold Machine.handLink
  (try dsimp only)
  split
  · simp [h]
  · split
    · simp [h]
    · split
      · rename_i hq
        dsimp only
        refine h.onHlc' _ fun hc q => ?_
        have := hc q
        by_cases e : classQueue s .h f.cls = q
        · subst e
          rw [Fin.getElem_fin, updAt_same]
          exact ⟨this.1, by simpa using hq⟩
        · rw [Fin.getElem_fin, updAt_other _ e]; exact this
      · simp +contextual [h]

@[simp] theorem Keeps.handStatus (h : Keeps z s) (f : Frame) : Keeps z (handStatus f s) := by
  unfold Machine.handStatus
  have h1 := h.handPort .w f .mgu
  revert h1
  generalize Machine.handPort .w f .mgu s = r
  obtain ⟨t, b⟩ := r
  intro h1
  cases b <;> simp_all

@[simp] theorem Keeps.raiseAlarm (h : Keeps z s) (a : Alarm) (j : Subject) : Keeps z (raiseAlarm a j s) := by
  unfold Machine.raiseAlarm
  split
  · exact h
  · rename_i e
    refine Keeps.handStatus (h.onMgu' _ fun hm => ⟨?_, fun y hy => ?_⟩) _
    · refine List.nodup_append.2 ⟨hm.1, by simp, fun y hy z hz => ?_⟩
      simp only [List.mem_singleton] at hz
      subst hz
      intro hyz
      subst hyz
      simp [isRaised, hy] at e
    · simp only [Fin.getElem_fin, Vector.getElem_set]
      split
      · rfl
      · simp only [List.mem_append, List.mem_singleton] at hy
        rcases hy with hy | rfl
        · exact hm.2 y hy
        · simp_all

@[simp] theorem Keeps.clearAlarm (h : Keeps z s) (a : Alarm) (j : Subject) : Keeps z (clearAlarm a j s) := by
  unfold Machine.clearAlarm
  split
  · refine Keeps.handStatus (h.onMgu' _ fun hm => ⟨hm.1.filter _, fun y hy => ?_⟩) _
    exact hm.2 y (List.mem_filter.1 hy).1
  · exact h

@[simp] theorem Keeps.syncAlarm (h : Keeps z s) (a : Alarm) (j : Subject) (wanted : Bool) : Keeps z (syncAlarm a j wanted s) := by
  simp +contextual [Machine.syncAlarm, h]

@[simp] theorem Keeps.clearAllOf (h : Keeps z s) (a : Alarm) : Keeps z (clearAllOf a s) := by
  simp +contextual [Machine.clearAllOf, h]

@[simp] theorem Keeps.reportStatus (h : Keeps z s) (st : Option (Fin 4)) (o : StatusOutcome) (detail : Byte) :
    Keeps z (reportStatus st o detail s) := by
  simp +contextual [Machine.reportStatus, h]

@[simp] theorem Keeps.report (h : Keeps z s) (st : Fin 4) (o : StatusOutcome) : Keeps z (report st o s) := by
  simp +contextual [Machine.report, h]

@[simp] theorem Keeps.handResponse (h : Keeps z s) (o : Origin) (f : Frame) : Keeps z (handResponse o f s).1 := by
  unfold Machine.handResponse
  have h1 := h.handPort .w f o
  revert h1
  generalize Machine.handPort .w f o s = r
  obtain ⟨t, b⟩ := r
  intro h1
  cases b <;> simp_all

@[simp] theorem Keeps.respond (h : Keeps z s) (node : Node) (kind : Nat) (a : Answer) (data : List Byte) :
    Keeps z (respond node kind a data s) := by
  simp +contextual [Machine.respond, h]

@[simp] theorem Keeps.finishLong (h : Keeps z s) (a : Answer) (data : List Byte) : Keeps z (finishLong a data s) := by
  unfold Machine.finishLong
  repeat' with_reducible first
    | assumption | apply Keeps.respond | apply Keeps.onMgu | split | intro _
  all_goals simp_all

@[simp] theorem Keeps.onStation (h : Keeps z s) (i : Fin 4) (f : Station → Station)
    (hf : ∀ r, (f r).state = r.state) : Keeps z (onStation i f s) := by
  unfold Machine.onStation
  exact h.onCsu _ fun c hc => Holder.updAt hc i f hf

@[simp] theorem Keeps.onEngine (h : Keeps z s) (i : Fin 6) (f : EngineRec → EngineRec) : Keeps z (onEngine i f s) := by
  simp +contextual [Machine.onEngine, h]

@[simp] theorem Keeps.onRudder (h : Keeps z s) (i : Fin 3) (f : RudderRec → RudderRec) : Keeps z (onRudder i f s) := by
  simp +contextual [Machine.onRudder, h]

@[simp] theorem Keeps.onQueue (h : Keeps z s) (q : Fin 4) (f : LinkQueue → LinkQueue)
    (hf : ∀ y, (f y).rx.length ≤ y.rx.length ∧ (f y).tx.length ≤ y.tx.length) : Keeps z (onQueue q f s) := by
  unfold Machine.onQueue
  exact h.onHlc _ fun c hc => LinkFits.updAt hc q f hf

@[simp] theorem Keeps.onLane (h : Keeps z s) (l : Lane) (f : LaneCtl → LaneCtl) : Keeps z (onLane l f s) := by
  unfold Machine.onLane
  cases l <;> simp +contextual [h]

end Sys2Proof.Machine
end

