-- ==== Sys2Proof/Laws/KeepsTables.lean ====
section
/-! SUPPORT. What the answer to a commit keeps. -/

namespace Sys2Proof.Machine

variable {z s : State}

@[simp] theorem Keeps.answerCommit (h : Keeps z s) (k : Kind) : Keeps z (answerCommit k s) := by
  simp +contextual [Machine.answerCommit, h]

end Sys2Proof.Machine
end

