-- ==== Sys2Proof/Laws/KeepsCoupling.lean ====
section
/-! SUPPORT. What the effects of the coupling monitor keep, and what a change of state does to the running round and a breakaway to
its list. -/

namespace Sys2Proof.Machine

variable {z s : State}

/-- A coupling that enters a polled state leaves the round as it is. -/
theorem leaveRound_of_polled {new : CouplingState} (h : isPolled new = true) (i : Nat) (c : Cmu) :
    leaveRound i new c = c.round := by simp [leaveRound, h]

/-- One that enters RELEASING or RELEASED stands no more in the round's list, and every other stays (R73, R92). -/
theorem mem_leaveRound {new : CouplingState} (h : isPolled new = false) {i : Nat} {c : Cmu} {r : Round}
    (e : c.round = some r) : ∃ x, leaveRound i new c = some x ∧ x.poll = r.poll ∧ ∀ j, j ∈ x.rest ↔ j ∈ r.rest ∧ j ≠ i := by
  simp [leaveRound, h, e]

/-- A breakaway leaves the list as it is, at a unit already in it or at 47 entries, or appends the unit (R79). -/
theorem withBreakaway_cases (l : List UnitEntry) (u : UnitEntry) :
    withBreakaway l u = l ∧ ((∃ e ∈ l, e.id = u.id) ∨ 47 ≤ l.length) ∨
      withBreakaway l u = l ++ [u] ∧ (∀ e ∈ l, e.id ≠ u.id) ∧ l.length < 47 := by
  have k : (l.any (·.id == u.id) || decide (Config.breakawayDepth ≤ l.length)) = true ↔
      (∃ e ∈ l, e.id = u.id) ∨ 47 ≤ l.length := by
    simp only [Bool.or_eq_true, List.any_eq_true, beq_iff_eq, decide_eq_true_eq]; exact Iff.rfl
  by_cases h : (∃ e ∈ l, e.id = u.id) ∨ 47 ≤ l.length
  · exact .inl ⟨if_pos (k.2 h), h⟩
  · exact .inr ⟨if_neg (mt k.1 h), by simpa using h⟩

theorem withBreakaway_length (l : List UnitEntry) (u : UnitEntry) (h : l.length ≤ 47) : (withBreakaway l u).length ≤ 47 := by
  rcases withBreakaway_cases l u with ⟨e, _⟩ | ⟨e, _, k⟩
  · rwa [e]
  · simp [e]; omega

theorem mem_withBreakaway {l : List UnitEntry} {e : UnitEntry} (h : e ∈ l) (u : UnitEntry) : e ∈ withBreakaway l u := by
  rcases withBreakaway_cases l u with ⟨k, _⟩ | ⟨k, _⟩ <;> simp [k, h]

@[simp] theorem Keeps.publishHeadroom (h : Keeps z s) : Keeps z (publishHeadroom s) := by
  simp +contextual [Machine.publishHeadroom, h]

@[simp] theorem Keeps.startRecompute (h : Keeps z s) : Keeps z (startRecompute s) := by
  simp +contextual [Machine.startRecompute, h]

@[simp] theorem Keeps.requestRecompute (h : Keeps z s) : Keeps z (requestRecompute s) := by
  unfold Machine.requestRecompute
  repeat' with_reducible first
    | assumption | apply Keeps.startRecompute | apply Keeps.onCmu | split | intro _

@[simp] theorem Keeps.breakaway (h : Keeps z s) (u : UnitEntry) : Keeps z (breakaway u s) := by
  simp +contextual [Machine.breakaway, h]

@[simp] theorem Keeps.completeRecompute (h : Keeps z s) : Keeps z (completeRecompute s) := by
  unfold Machine.completeRecompute
  dsimp only
  repeat' with_reducible first
    | assumption | apply Keeps.breakaway | apply Keeps.startRecompute | apply Keeps.publishHeadroom
    | apply Keeps.clearAlarm | apply Keeps.onCmu | apply Keeps.foldl | split | intro _

@[simp] theorem Keeps.modCoupling (h : Keeps z s) (i : Nat) (f : Coupling → Coupling) : Keeps z (modCoupling i f s) := by
  simp +contextual [Machine.modCoupling, h]

@[simp] theorem Keeps.endArm (h : Keeps z s) (o : StatusOutcome) : Keeps z (endArm o s) := by
  unfold Machine.endArm
  repeat' with_reducible first
    | assumption | apply Keeps.reportStatus | apply Keeps.onCmu | split | intro _

@[simp] theorem Keeps.cancelArm (h : Keeps z s) : Keeps z (cancelArm s) := by
  simp +contextual [Machine.cancelArm, h]

@[simp] theorem Keeps.cancelArmOf (h : Keeps z s) (i : Nat) (new : CouplingState) : Keeps z (cancelArmOf i new s) := by
  unfold Machine.cancelArmOf
  repeat' with_reducible first
    | assumption | apply Keeps.cancelArm | split | intro _

@[simp] theorem Keeps.stateAlarms (h : Keeps z s) (node : Nat) (old new : CouplingState) : Keeps z (stateAlarms node old new s) := by
  unfold Machine.stateAlarms
  dsimp only
  repeat' with_reducible first
    | assumption | apply Keeps.clearAlarm | apply Keeps.raiseAlarm | split | intro _

@[simp] theorem Keeps.enterState (h : Keeps z s) (i : Nat) (new : CouplingState) : Keeps z (enterState i new s) := by
  unfold Machine.enterState
  dsimp only
  repeat' with_reducible first
    | assumption | apply Keeps.stateAlarms | apply Keeps.cancelArmOf | apply Keeps.modCoupling
    | apply Keeps.requestRecompute | apply Keeps.onCmu | split | intro _

@[simp] theorem Keeps.takeReport (h : Keeps z s) (i t : Nat) (brake hook : Bool) : Keeps z (takeReport i t brake hook s) := by
  unfold Machine.takeReport
  dsimp only
  repeat' with_reducible first
    | assumption | apply Keeps.enterState | apply Keeps.modCoupling | split | intro _

@[simp] theorem Keeps.missedPoll (h : Keeps z s) (i : Nat) : Keeps z (missedPoll i s) := by
  unfold Machine.missedPoll
  dsimp only
  repeat' with_reducible first
    | assumption | apply Keeps.enterState | apply Keeps.modCoupling | split | intro _

@[simp] theorem Keeps.swapMakeup (h : Keeps z s) : Keeps z (swapMakeup s) := by
  unfold Machine.swapMakeup
  dsimp only
  repeat' with_reducible first
    | assumption | apply Keeps.cancelArm | apply Keeps.breakaway | apply Keeps.answerCommit
    | apply Keeps.clearAlarm | apply Keeps.onCmu | apply Keeps.foldl | split | intro _

@[simp] theorem Keeps.dropAlarms (h : Keeps z s) (node : Nat) : Keeps z (dropAlarms node s) := by
  unfold Machine.dropAlarms
  repeat' with_reducible first
    | assumption | apply Keeps.clearAlarm | apply Keeps.foldl | split | intro _

@[simp] theorem Keeps.swapRelease (h : Keeps z s) (old new : List Coupling) : Keeps z (swapRelease old new s) := by
  unfold Machine.swapRelease
  repeat' with_reducible first
    | assumption | apply Keeps.reportStatus | apply Keeps.onCmu | split | intro _

@[simp] theorem Keeps.swapCoupling (h : Keeps z s) : Keeps z (swapCoupling s) := by
  unfold Machine.swapCoupling
  dsimp only
  repeat' with_reducible first
    | assumption | apply Keeps.swapRelease | apply Keeps.dropAlarms | apply Keeps.stateAlarms
    | apply Keeps.cancelArm | apply Keeps.answerCommit | apply Keeps.onCmu | apply Keeps.foldl | split
    | intro _

@[simp] theorem Keeps.runList (h : Keeps z s) (l : List Nat) : Keeps z (runList l s) := by
  induction l generalizing s with
  | nil => exact h.publishHeadroom
  | cons i rest ih =>
    unfold Machine.runList
    dsimp only
    repeat' first
      | assumption | apply ih | apply Keeps.missedPoll | apply Keeps.onCmu | split
      | refine Keeps.ofPair (by assumption) ?_ | apply Keeps.handPort

@[simp] theorem Keeps.beginRound (h : Keeps z s) : Keeps z (beginRound s) := by
  unfold Machine.beginRound
  extract_lets due s1 s2 s3
  have h1 : Keeps z s1 := Keeps.ite h.swapMakeup h
  have h2 : Keeps z s2 := Keeps.ite h1.swapCoupling h1
  have h3 : Keeps z s3 := Keeps.ite (h2.onCmu _).requestRecompute h2
  exact h3.runList _

@[simp] theorem Keeps.settleRound (h : Keeps z s) : Keeps z (settleRound s) := by
  unfold Machine.settleRound
  repeat' with_reducible first
    | assumption | apply Keeps.beginRound | apply Keeps.onCmu | split | intro _
  all_goals simp_all

@[simp] theorem Keeps.endPoll (h : Keeps z s) (r : Round) : Keeps z (endPoll r s) := by
  unfold Machine.endPoll
  repeat' with_reducible first
    | assumption | apply Keeps.settleRound | apply Keeps.runList | apply Keeps.onCmu | split | intro _
  all_goals simp_all

@[simp] theorem Keeps.pollMissed (h : Keeps z s) : Keeps z (pollMissed s) := by
  unfold Machine.pollMissed
  repeat' with_reducible first
    | assumption | apply Keeps.endPoll | apply Keeps.missedPoll | apply Keeps.onCmu | split | intro _

@[simp] theorem Keeps.pollFailed (h : Keeps z s) (n : Nat) : Keeps z (pollFailed n s) := by
  unfold Machine.pollFailed
  repeat' with_reducible first
    | assumption | apply Keeps.pollMissed | split | intro _

@[simp] theorem Keeps.pollSent (h : Keeps z s) (n : Nat) : Keeps z (pollSent n s) := by
  unfold Machine.pollSent
  repeat' with_reducible first
    | assumption | apply Keeps.onCmu | split | intro _

@[simp] theorem Keeps.reportFrame (h : Keeps z s) (node : Node) (tension : Nat) (flags : Byte) :
    Keeps z (reportFrame node tension flags s) := by
  unfold Machine.reportFrame
  dsimp only
  repeat' with_reducible first
    | assumption | apply Keeps.endPoll | apply Keeps.takeReport | apply Keeps.onCmu | split | intro _

@[simp] theorem Keeps.refuseRelease (h : Keeps z s) (st : Option (Fin 4)) (o : StatusOutcome) (id : Byte) :
    Keeps z (refuseRelease st o id s) := by
  simp +contextual [Machine.refuseRelease, h]

@[simp] theorem Keeps.armRelease (h : Keeps z s) (st : Fin 4) (id : Byte) : Keeps z (armRelease st id s) := by
  unfold Machine.armRelease
  repeat' with_reducible first
    | assumption | apply Keeps.refuseRelease | apply Keeps.modCoupling | apply Keeps.reportStatus
    | apply Keeps.onCmu | split | intro _

@[simp] theorem Keeps.releaseFails (h : Keeps z s) : Keeps z (releaseFails s) := by
  unfold Machine.releaseFails
  dsimp only
  repeat' with_reducible first
    | assumption | apply Keeps.enterState | apply Keeps.modCoupling | apply Keeps.reportStatus
    | apply Keeps.raiseAlarm | apply Keeps.onCmu | split | intro _

@[simp] theorem Keeps.releaseFrameFailed (h : Keeps z s) (n : Nat) : Keeps z (releaseFrameFailed n s) := by
  unfold Machine.releaseFrameFailed
  repeat' with_reducible first
    | assumption | apply Keeps.releaseFails | split | intro _

@[simp] theorem Keeps.enterReleasing (h : Keeps z s) (st : Fin 4) (i : Nat) (c : Coupling) : Keeps z (enterReleasing st i c s) := by
  unfold Machine.enterReleasing
  dsimp only
  repeat' with_reducible first
    | assumption | apply Keeps.releaseFails | apply Keeps.enterState | apply Keeps.reportStatus
    | apply Keeps.handPort | apply Keeps.onCmu | split | intro _ | refine Keeps.ofPair (by assumption) ?_

@[simp] theorem Keeps.goRelease (h : Keeps z s) (st : Fin 4) (id complement : Byte) : Keeps z (goRelease st id complement s) := by
  unfold Machine.goRelease
  repeat' with_reducible first
    | assumption | apply Keeps.enterReleasing | apply Keeps.refuseRelease | split | intro _

@[simp] theorem Keeps.classSix (h : Keeps z s) (f : Frame) : Keeps z (classSix f s) := by
  unfold Machine.classSix
  dsimp only
  repeat' with_reducible first
    | assumption | apply Keeps.goRelease | apply Keeps.armRelease | apply Keeps.refuseRelease | split | intro _

@[simp] theorem Keeps.lateDone (h : Keeps z s) (node : Node) (opened : Bool) : Keeps z (lateDone node opened s) := by
  unfold Machine.lateDone
  dsimp only
  repeat' with_reducible first
    | assumption | apply Keeps.enterState | apply Keeps.modCoupling | apply Keeps.reportStatus
    | apply Keeps.onCmu | split | intro _

@[simp] theorem Keeps.releaseDoneFrame (h : Keeps z s) (node : Node) (result : Byte) : Keeps z (releaseDoneFrame node result s) := by
  unfold Machine.releaseDoneFrame
  repeat' with_reducible first
    | assumption | apply Keeps.lateDone | apply Keeps.releaseFails | apply Keeps.enterState
    | apply Keeps.reportStatus | apply Keeps.onCmu | split | intro _

@[simp] theorem Keeps.classFour (h : Keeps z s) (f : Frame) : Keeps z (classFour f s) := by
  unfold Machine.classFour
  repeat' with_reducible first
    | assumption | apply Keeps.releaseDoneFrame | apply Keeps.reportFrame | apply Keeps.onCmu | split | intro _

@[simp] theorem Keeps.segmentKIsolated (h : Keeps z s) : Keeps z (segmentKIsolated s) := by
  simp +contextual [Machine.segmentKIsolated, h]

@[simp] theorem Keeps.confirmMakeup (h : Keeps z s) : Keeps z (confirmMakeup s) := by
  simp +contextual [Machine.confirmMakeup, h]

end Sys2Proof.Machine
end

