-- ==== Sys2Proof/Laws/KeepsEngines.lean ====
section
/-! SUPPORT. What the effects on engine and rudder records keep. -/

namespace Sys2Proof.Machine

variable {z s : State}

@[simp] theorem Keeps.setAvail (h : Keeps z s) (i : Fin 6) (a : EngineAvail) (run : Nat) : Keeps z (setAvail i a run s) := by
  simp +contextual [Machine.setAvail, h]

@[simp] theorem Keeps.writeCap (h : Keeps z s) (i : Fin 6) (cap : Option Nat) : Keeps z (writeCap i cap s) := by
  simp +contextual [Machine.writeCap, h]

@[simp] theorem Keeps.writeLineup (h : Keeps z s) (i : Fin 6) (tank : Fin 8) : Keeps z (writeLineup i tank s) := by
  simp +contextual [Machine.writeLineup, h]

@[simp] theorem Keeps.moveAvail (h : Keeps z s) (i : Fin 6) (shutdown neutral : Bool) : Keeps z (moveAvail i shutdown neutral s) := by
  unfold Machine.moveAvail
  dsimp only
  repeat' with_reducible first
    | assumption | apply Keeps.setAvail | apply Keeps.clearAlarm | apply Keeps.raiseAlarm | split | intro _

@[simp] theorem Keeps.unconfigureEngine (h : Keeps z s) (i : Fin 6) : Keeps z (unconfigureEngine i s) := by
  unfold Machine.unconfigureEngine
  dsimp only
  repeat' with_reducible first
    | assumption | apply Keeps.onEngine | apply Keeps.clearAlarm | split | intro _

@[simp] theorem Keeps.evalDeviation (h : Keeps z s) (i : Fin 3) : Keeps z (evalDeviation i s) := by
  unfold Machine.evalDeviation
  dsimp only
  repeat' with_reducible first
    | assumption | apply Keeps.onRudder | apply Keeps.clearAlarm | split | intro _

@[simp] theorem Keeps.writeAngle (h : Keeps z s) (i : Fin 3) (angle : Int) : Keeps z (writeAngle i angle s) := by
  simp +contextual [Machine.writeAngle, h]

@[simp] theorem Keeps.rudderLost (h : Keeps z s) (i : Fin 3) : Keeps z (rudderLost i s) := by
  simp +contextual [Machine.rudderLost, h]

@[simp] theorem Keeps.loseX (h : Keeps z s) (i : Fin 6) : Keeps z (loseX i s) := by
  unfold Machine.loseX
  dsimp only
  repeat' with_reducible first
    | assumption | apply Keeps.setAvail | apply Keeps.clearAlarm | split | intro _

@[simp] theorem Keeps.loseXEngines (h : Keeps z s) : Keeps z (loseXEngines s) := by
  simp +contextual [Machine.loseXEngines, h]

@[simp] theorem Keeps.seedX (h : Keeps z s) (i : Fin 6) : Keeps z (seedX i s) := by
  simp +contextual [Machine.seedX, h]

@[simp] theorem Keeps.seedXEngines (h : Keeps z s) : Keeps z (seedXEngines s) := by
  simp +contextual [Machine.seedXEngines, h]

@[simp] theorem Keeps.loseByCommit (h : Keeps z s) (i : Fin 6) : Keeps z (loseByCommit i s) := by
  unfold Machine.loseByCommit
  dsimp only
  repeat' with_reducible first
    | assumption | apply Keeps.setAvail | apply Keeps.onEngine | apply Keeps.clearAlarm | split | intro _

@[simp] theorem Keeps.swapEngine (h : Keeps z s) (old : EngineEntry) (i : Fin 6) : Keeps z (swapEngine old i s) := by
  unfold Machine.swapEngine
  dsimp only
  repeat' with_reducible first
    | assumption | apply Keeps.loseByCommit | apply Keeps.onEngine | split | intro _
  all_goals simp_all

@[simp] theorem Keeps.swapRudder (h : Keeps z s) (old : RudderEntry) (i : Fin 3) : Keeps z (swapRudder old i s) := by
  unfold Machine.swapRudder
  dsimp only
  repeat' with_reducible first
    | assumption | apply Keeps.rudderLost | apply Keeps.onRudder | apply Keeps.clearAlarm | split | intro _

@[simp] theorem Keeps.piuSwap (h : Keeps z s) (old : Option AllocTable) : Keeps z (piuSwap old s) := by
  unfold Machine.piuSwap
  dsimp only
  repeat' with_reducible first
    | assumption | apply Keeps.swapRudder | apply Keeps.swapEngine | apply Keeps.foldl | split | intro _

end Sys2Proof.Machine
end

