-- ==== Sys2Proof/Laws/KeepsStation.lean ====
section
/-! SUPPORT. What the effects of the command stations keep. -/

namespace Sys2Proof.Machine

variable {z s : State}

@[simp] theorem Keeps.formTargets (h : Keeps z s) : Keeps z (formTargets s) := by
  unfold Machine.formTargets
  repeat' with_reducible first
    | assumption | apply Keeps.onCsu | apply Keeps.tickFree | split | intro _
  all_goals simp_all

@[simp] theorem Keeps.endStale (h : Keeps z s) : Keeps z (endStale s) := by
  unfold Machine.endStale
  repeat' with_reducible first
    | assumption | apply Keeps.clearAllOf | apply Keeps.onCsu | split | intro _
  all_goals simp_all

/-- A grant: station `i` holds the command, the old holder is PRESENT or ABSENT, every other station is as it was. -/
theorem Holder.granted {v w : Vector Station 4} {a b : Option (Fin 4)} (h : Holder v a b) (i : Fin 4)
    (hb : b = none ∨ b = some i) (hi : w[i].state = .inCommand)
    (old : ∀ j : Fin 4, j ≠ i → a = some j → w[j].state = .absent ∨ w[j].state = .present)
    (other : ∀ j : Fin 4, j ≠ i → a ≠ some j → w[j].state = v[j].state) : Holder w (some i) none := by
  have key : ∀ j : Fin 4, j ≠ i → w[j].state = .absent ∨ w[j].state = .present := by
    intro j hj
    by_cases ha : a = some j
    · exact old j hj ha
    · rw [other j hj ha]
      have h1 := h.1 j
      have h2 := h.2 j
      have hb' : b ≠ some j := by rcases hb with e | e <;> simp [e, Ne.symm hj]
      cases e : v[j].state <;> simp_all
  refine ⟨fun j => ?_, fun j => ?_⟩ <;> by_cases hj : j = i
  · subst hj; simp only [hi]
  · rcases key j hj with e | e <;> simp only [e] <;> simp [Ne.symm hj]
  · subst hj; simp only [hi]; simp
  · rcases key j hj with e | e <;> simp only [e] <;> simp

/-- The request ends: its station becomes ABSENT or PRESENT. -/
theorem Holder.unasked {v : Vector Station 4} {a b : Option (Fin 4)} (h : Holder v a b) (i : Fin 4)
    (f : Station → Station) (hb : b = some i) (new : (f v[i]).state = .absent ∨ (f v[i]).state = .present) :
    Holder (Machine.updAt v i f) a none := by
  subst hb
  have hi : v[i].state = .requesting := (h.2 i).2 rfl
  refine ⟨fun j => ?_, fun j => ?_⟩ <;> by_cases hj : i = j
  · subst hj
    have h1 := h.1 i
    rw [hi] at h1
    rw [Fin.getElem_fin, updAt_same, ← h1]
    rcases new with e | e <;> simp only [Fin.getElem_fin] at e <;> simp [e]
  · rw [Fin.getElem_fin, updAt_other v hj]; exact h.1 j
  · subst hj
    rw [Fin.getElem_fin, updAt_same]
    rcases new with e | e <;> simp only [Fin.getElem_fin] at e <;> simp [e]
  · rw [Fin.getElem_fin, updAt_other v hj]
    have h2 := h.2 j
    simp only [Option.some.injEq, hj, iff_false] at h2
    simpa using h2

/-- The holder goes: its station becomes ABSENT. -/
theorem Holder.vacated {v : Vector Station 4} {a b : Option (Fin 4)} (h : Holder v a b) (i : Fin 4)
    (f : Station → Station) (ha : a = some i) (new : (f v[i]).state = .absent) :
    Holder (Machine.updAt v i f) none b := by
  subst ha
  have hi : v[i].state = .inCommand := (h.1 i).2 rfl
  refine ⟨fun j => ?_, fun j => ?_⟩ <;> by_cases hj : i = j
  · subst hj
    rw [Fin.getElem_fin, updAt_same]
    simp only [Fin.getElem_fin] at new
    simp [new]
  · rw [Fin.getElem_fin, updAt_other v hj]
    have h1 := h.1 j
    simp only [Option.some.injEq, hj, iff_false] at h1
    simpa using h1
  · subst hj
    have h2 := h.2 i
    rw [hi] at h2
    rw [Fin.getElem_fin, updAt_same, ← h2]
    simp only [Fin.getElem_fin] at new
    simp [new]
  · rw [Fin.getElem_fin, updAt_other v hj]; exact h.2 j

/-- A station asks: it becomes REQUESTING while no request is pending. -/
theorem Holder.asked {v : Vector Station 4} {a b : Option (Fin 4)} (h : Holder v a b) (i : Fin 4)
    (f : Station → Station) (hb : b = none) (old : v[i].state = .absent ∨ v[i].state = .present)
    (new : (f v[i]).state = .requesting) : Holder (Machine.updAt v i f) a (some i) := by
  subst hb
  refine ⟨fun j => ?_, fun j => ?_⟩ <;> by_cases hj : i = j
  · subst hj
    have h1 := h.1 i
    rw [Fin.getElem_fin, updAt_same, ← h1]
    simp only [Fin.getElem_fin] at new old
    rcases old with e | e <;> simp [e, new]
  · rw [Fin.getElem_fin, updAt_other v hj]; exact h.1 j
  · subst hj
    rw [Fin.getElem_fin, updAt_same]
    simp only [Fin.getElem_fin] at new
    simp [new]
  · rw [Fin.getElem_fin, updAt_other v hj]
    have h2 := h.2 j
    simpa [hj] using h2

@[simp] theorem Keeps.renewPresence (h : Keeps z s) (i : Fin 4) : Keeps z (renewPresence i s) := by
  unfold Machine.renewPresence
  extract_lets s1 r
  have h1 : Keeps z s1 := h.onStation _ _ (by simp)
  split
  · rename_i e
    refine Keeps.report (h1.onCsu' _ fun hc => ?_) _ _
    exact Holder.idle hc i _ (.inl e) (.inr rfl)
  · split
    · exact (h1.onStation _ _ (by simp)).report _ _
    · exact h1

theorem Keeps.endRequest (h : Keeps z s) (r : Fin 4) (state : StationState)
    (hr : s.csu.OneHolder → s.csu.request = some r) (hs : state = .absent ∨ state = .present) :
    Keeps z (endRequest r state s) :=
  h.onCsu' (fun c => { c with request := none, transfer := none,
                              stations := updAt c.stations r ({ · with state := state }) })
    fun hc => Holder.unasked hc r _ (hr hc) (by simpa using hs)

@[simp] theorem Keeps.presenceLost (h : Keeps z s) (i : Fin 4) : Keeps z (presenceLost i s) := by
  unfold Machine.presenceLost
  extract_lets s1
  have h1 : Keeps z s1 := h.onStation _ _ (by simp)
  split
  · exact h1
  · rename_i e
    refine Keeps.report (h1.onCsu' _ fun hc => ?_) _ _
    refine Holder.idle hc i _ (.inr ?_) (.inl rfl)
    simpa [s1, Machine.onStation] using e
  · rename_i e
    refine ((h1.endRequest i .absent (fun hc => ?_) (.inl rfl)).onStation _ _ (by simp [forgetHelm])).report _ _
    refine (hc.2 i).1 ?_
    simpa [s1, Machine.onStation] using e
  · exact (h1.onStation _ _ (by simp)).report _ _

@[simp] theorem Keeps.countUnknown (h : Keeps z s) : Keeps z (countUnknown s) := by
  simp +contextual [Machine.countUnknown, h]

@[simp] theorem Keeps.acceptHelm (h : Keeps z s) (i : Fin 4) (d t : Int) (seq : Nat) : Keeps z (acceptHelm i d t seq s) := by
  unfold Machine.acceptHelm
  dsimp only
  repeat' with_reducible first
    | assumption | apply Keeps.endStale | apply Keeps.formTargets | apply Keeps.onStation | split | intro _
  all_goals simp_all

@[simp] theorem Keeps.stationHelm (h : Keeps z s) (i : Fin 4) (d t : Int) (seq : Nat) : Keeps z (stationHelm i d t seq s) := by
  unfold Machine.stationHelm
  dsimp only
  repeat' with_reducible first
    | assumption | apply Keeps.acceptHelm | apply Keeps.onCsu | split | intro _
  all_goals simp_all

theorem Keeps.grant (h : Keeps z s) (i : Fin 4) (given : Bool)
    (hr : s.csu.OneHolder → s.csu.request = none ∨ s.csu.request = some i) : Keeps z (grant i given s) := by
  unfold Machine.grant
  extract_lets old s1 s2 auto s3 s4 s5
  have key0 : old = none ∨ ∃ o, old = some o := by cases old <;> simp
  have h3 : Keeps z s3 := by
    refine Keeps.endStale ?_
    have key : s.csu.OneHolder → Holder s2.csu.stations (some i) none := by
      intro hc
      refine Holder.granted hc i (hr hc) ?_ ?_ ?_
      · simp [s2, Machine.onStation]
      · intro j hj ho
        have ho' : old = some j := ho
        simp only [s2, Machine.onStation, State.onCsu_csu, Fin.getElem_fin, updAt_other _ (Ne.symm hj), s1, ho']
        simp only [Machine.leaveCommand, Machine.onStation, State.onCsu_csu, updAt_same]
        split
        · exact .inl rfl
        · exact .inr rfl
      · intro j hj ho
        have ho' : old ≠ some j := ho
        simp only [s2, Machine.onStation, State.onCsu_csu, Fin.getElem_fin, updAt_other _ (Ne.symm hj), s1]
        rcases key0 with e | ⟨o, e⟩
        · simp only [e]
        · have : o ≠ j := fun e' => ho' (by rw [e, e'])
          simp only [e, Machine.leaveCommand, Machine.onStation, State.onCsu_csu, updAt_other _ this]
    have h1 : s1.role = s.role ∧ s1.pending = s.pending ∧ s1.resetPin = s.resetPin ∧ s1.now = s.now ∧
        (Sound s → s1.pcw = s.pcw ∧ s1.pcp = s.pcp ∧ s1.pck = s.pck ∧ s1.hlc = s.hlc ∧ s1.nvs = s.nvs ∧
          s1.mgu = s.mgu) ∧ (s.fau.Balanced → s1.fau.Balanced) := by
      simp only [s1]
      rcases key0 with e | ⟨o, e⟩ <;> simp [e, Machine.leaveCommand, Machine.onStation]
    refine h.to h1.1 h1.2.1 h1.2.2.1 h1.2.2.2.1.ge (fun hs => ?_) h1.2.2.2.2.2
    obtain ⟨e1, e2, e3, e4, e5, e6⟩ := h1.2.2.2.2.1 hs
    refine ⟨key hs.csu, ?_, ?_, ?_, ?_, ?_, ?_⟩
    · exact e1 ▸ hs.pcw
    · exact e2 ▸ hs.pcp
    · exact e3 ▸ hs.pck
    · exact e4 ▸ hs.hlc
    · exact e5 ▸ hs.nvs
    · exact e6 ▸ hs.mgu
  have h4 : Keeps z s4 := h3.report _ _
  have h5 : Keeps z s5 := by
    simp only [s5]
    rcases key0 with e | ⟨o, e⟩ <;> simp only [e]
    · exact h4
    · exact h4.report _ _
  exact h5.cancelArm

@[simp] theorem Keeps.stationTake (h : Keeps z s) (i : Fin 4) : Keeps z (stationTake i s) := by
  unfold Machine.stationTake
  extract_lets manual
  split
  · exact h.report _ _
  · rename_i e
    have hr : s.csu.OneHolder → s.csu.request = some i := fun hc => (hc.2 i).1 e
    split
    · split
      · exact h.grant _ _ fun hc => .inr (hr hc)
      · exact (h.endRequest _ _ hr (.inr rfl)).report _ _
    · exact h.report _ _
  all_goals
    rename_i e
    split
    · exact h.report _ _
    · rename_i hn
      have hn : s.csu.request = none := by simpa using hn
      split
      · split
        · exact h.grant _ _ fun _ => .inl hn
        · exact h.report _ _
      · split
        · exact h.report _ _
        · refine Keeps.report ?_ _ _
          refine h.onCsu' (fun c => { c with request := some i, transfer := timerFor s Config.transferTime,
                                             stations := updAt c.stations i ({ · with state := .requesting }) }) ?_
          exact fun hc => Holder.asked hc i _ hn (by simp only [Fin.getElem_fin] at e; simp [e]) rfl

@[simp] theorem Keeps.stationGive (h : Keeps z s) (i : Fin 4) : Keeps z (stationGive i s) := by
  unfold Machine.stationGive
  split
  · split
    · exact h.report _ _
    · rename_i r e
      split
      · exact h.grant _ _ fun _ => .inr e
      · exact (h.endRequest _ _ (fun _ => e) (.inr rfl)).report _ _
  · exact h.report _ _

@[simp] theorem Keeps.stationForce (h : Keeps z s) (i : Fin 4) : Keeps z (stationForce i s) := by
  unfold Machine.stationForce
  extract_lets e
  split
  · exact h.report _ _
  · split
    · split
      · rename_i hn
        exact h.grant _ _ fun _ => .inl hn
      · rename_i r hn
        split
        · rename_i hi
          subst hi
          exact h.grant _ _ fun _ => .inr hn
        · refine Keeps.grant ((h.endRequest _ _ (fun _ => hn) (.inr rfl)).report _ _) _ _ fun _ => .inl ?_
          simp [Machine.endRequest, Machine.onStation]
    · exact h.report _ _

@[simp] theorem Keeps.sendJoin (h : Keeps z s) (f : Frame) : Keeps z (sendJoin f s) := by
  simp +contextual [Machine.sendJoin, h]

@[simp] theorem Keeps.leaveJoined (h : Keeps z s) (detail : Byte) : Keeps z (leaveJoined detail s) := by
  unfold Machine.leaveJoined
  dsimp only
  repeat' with_reducible first
    | assumption | apply Keeps.loseXEngines | apply Keeps.reportStatus | apply Keeps.raiseAlarm
    | apply Keeps.onCsu | split | intro _
  all_goals simp_all

@[simp] theorem Keeps.joinLinkLost (h : Keeps z s) : Keeps z (joinLinkLost s) := by
  simp +contextual [Machine.joinLinkLost, h]

@[simp] theorem Keeps.endOffer (h : Keeps z s) : Keeps z (endOffer s) := by
  simp +contextual [Machine.endOffer, h]

@[simp] theorem Keeps.stationJoinGive (h : Keeps z s) (i : Fin 4) : Keeps z (stationJoinGive i s) := by
  unfold Machine.stationJoinGive
  repeat' with_reducible first
    | assumption | apply Keeps.sendJoin | apply Keeps.report | apply Keeps.onCsu | split | intro _
  all_goals simp_all

@[simp] theorem Keeps.stationTakeBack (h : Keeps z s) (i : Fin 4) : Keeps z (stationTakeBack i s) := by
  unfold Machine.stationTakeBack
  repeat' with_reducible first
    | assumption | apply Keeps.leaveJoined | apply Keeps.sendJoin | apply Keeps.report | split | intro _

@[simp] theorem Keeps.countIgnored (h : Keeps z s) : Keeps z (countIgnored s) := by
  simp +contextual [Machine.countIgnored, h]

@[simp] theorem Keeps.takeOffer (h : Keeps z s) : Keeps z (takeOffer s) := by
  unfold Machine.takeOffer
  dsimp only
  repeat' with_reducible first
    | assumption | apply Keeps.countIgnored | apply Keeps.leaveJoined | apply Keeps.sendJoin
    | apply Keeps.seedXEngines | apply Keeps.reportStatus | apply Keeps.clearAlarm | apply Keeps.onCsu | split
    | intro _
  all_goals simp_all

@[simp] theorem Keeps.takeAccept (h : Keeps z s) : Keeps z (takeAccept s) := by
  unfold Machine.takeAccept
  dsimp only
  repeat' with_reducible first
    | assumption | apply Keeps.countIgnored | apply Keeps.reportStatus | apply Keeps.clearAlarm
    | apply Keeps.onCsu | split | intro _
  all_goals simp_all

@[simp] theorem Keeps.takeUnjoin (h : Keeps z s) (reason : Byte) : Keeps z (takeUnjoin reason s) := by
  unfold Machine.takeUnjoin
  repeat' with_reducible first
    | assumption | apply Keeps.countIgnored | apply Keeps.endOffer | apply Keeps.leaveJoined
    | apply Keeps.reportStatus | split | intro _

@[simp] theorem Keeps.setpointTaken (h : Keeps z s) : Keeps z (setpointTaken s) := by
  simp +contextual [Machine.setpointTaken, h]

@[simp] theorem Keeps.stopJoin (h : Keeps z s) : Keeps z (stopJoin s) := by
  unfold Machine.stopJoin
  repeat' with_reducible first
    | assumption | apply Keeps.endOffer | apply Keeps.leaveJoined | apply Keeps.sendJoin
    | apply Keeps.reportStatus | split | intro _

@[simp] theorem Keeps.raiseAllStop (h : Keeps z s) (cause : StopCause) : Keeps z (raiseAllStop cause s) := by
  unfold Machine.raiseAllStop
  dsimp only
  repeat' with_reducible first
    | assumption | apply Keeps.stopJoin | apply Keeps.cancelArm | apply Keeps.reportStatus | apply Keeps.onCsu
    | split | intro _
  all_goals simp_all

@[simp] theorem Keeps.allStopFrame (h : Keeps z s) (node : Node) : Keeps z (allStopFrame node s) := by
  unfold Machine.allStopFrame
  repeat' with_reducible first
    | assumption | apply Keeps.raiseAllStop | apply Keeps.countUnknown | split | intro _

@[simp] theorem Keeps.stationClear (h : Keeps z s) (i : Fin 4) : Keeps z (stationClear i s) := by
  unfold Machine.stationClear
  dsimp only
  repeat' with_reducible first
    | assumption | apply Keeps.formTargets | apply Keeps.report | apply Keeps.onCsu | split | intro _
  all_goals simp_all

@[simp] theorem Keeps.stationFrame (h : Keeps z s) (node : Node) (k : Fin 4 → State → State) (hk : ∀ a s, Keeps z s → Keeps z (k a s)) :
    Keeps z (stationFrame node k s) := by
  unfold Machine.stationFrame
  split
  · exact h.countUnknown
  · exact hk _ _ (h.renewPresence _)

@[simp] theorem Keeps.helmFrame (h : Keeps z s) (node : Node) (d t : Int) (seq : Nat) : Keeps z (helmFrame node d t seq s) := by
  simp +contextual [Machine.helmFrame, h]

@[simp] theorem Keeps.classZero (h : Keeps z s) (f : Frame) : Keeps z (classZero f s) := by
  simp +contextual [Machine.classZero, h]

@[simp] theorem Keeps.classOne (h : Keeps z s) (f : Frame) : Keeps z (classOne f s) := by
  unfold Machine.classOne
  repeat' with_reducible first
    | assumption | apply Keeps.helmFrame | apply Keeps.stationFrame | apply Keeps.stationClear
    | apply Keeps.stationTakeBack | apply Keeps.stationJoinGive | apply Keeps.stationForce
    | apply Keeps.stationGive | apply Keeps.stationTake | apply Keeps.countUnknown | split | intro _

@[simp] theorem Keeps.classSeven (h : Keeps z s) (f : Frame) : Keeps z (classSeven f s) := by
  unfold Machine.classSeven
  repeat' with_reducible first
    | assumption | apply Keeps.takeUnjoin | apply Keeps.takeAccept | apply Keeps.takeOffer
    | apply Keeps.countIgnored | split | intro _

@[simp] theorem Keeps.removeStation (h : Keeps z s) (i : Fin 4) : Keeps z (removeStation i s) := by
  unfold Machine.removeStation
  extract_lets r s1 s2 s3
  split
  · rename_i e
    exact h.onCsu' _ fun hc => Holder.idle hc i _ (.inl e) (.inl rfl)
  · rename_i e
    refine Keeps.report ?_ _ _
    exact h.onCsu' _ fun hc => Holder.idle hc i _ (.inr e) (.inl rfl)
  · rename_i e
    refine Keeps.report (Keeps.report ?_ _ _) _ _
    exact h.onCsu' (fun c => { c with request := none, transfer := none,
                                      stations := updAt c.stations i fun _ => Station.initial })
      fun hc => Holder.unasked hc i _ ((hc.2 i).1 e) (.inl rfl)
  · rename_i e
    have h2 : Keeps z s2 := by
      refine Keeps.endStale ?_
      exact h.onCsu' (fun c => { c with inCommand := none, dStar := 0, tStar := 0,
                                        stations := updAt c.stations i fun _ => Station.initial })
        fun hc => Holder.vacated hc i _ ((hc.1 i).1 e) rfl
    have h3 : Keeps z s3 := by
      simp only [s3]
      split
      · exact h2
      · rename_i q hq
        exact (h2.endRequest _ _ (fun _ => hq) (.inr rfl)).report _ _
    exact (h3.report _ _).cancelArm

@[simp] theorem Keeps.swapStation (h : Keeps z s) (old : StationEntry) (i : Fin 4) : Keeps z (swapStation old i s) := by
  unfold Machine.swapStation
  dsimp only
  repeat' with_reducible first
    | assumption | apply Keeps.removeStation | apply Keeps.onCsu | split | intro _
  all_goals simp_all

@[simp] theorem Keeps.csuSwap (h : Keeps z s) (old : Option AllocTable) : Keeps z (csuSwap old s) := by
  simp +contextual [Machine.csuSwap, h]

end Sys2Proof.Machine
end

