-- ==== Sys2Proof/Laws/KeepsAllocation.lean ====
section
/-! SUPPORT. What the allocation cycle keeps. -/

namespace Sys2Proof.Machine

variable {z s : State}

@[simp] theorem Keeps.cycleRudder (h : Keeps z s) (t : AllocTable) (wanted : Fin 3 → Int) (i : Fin 3) :
    Keeps z (cycleRudder t wanted s i) := by
  simp +contextual [Machine.cycleRudder, h]

@[simp] theorem Keeps.joinedRudder (h : Keeps z s) (t : AllocTable) (i : Fin 3) : Keeps z (joinedRudder t s i) := by
  simp +contextual [Machine.joinedRudder, h]

@[simp] theorem Keeps.noPropulsion (h : Keeps z s) (t : AllocTable) : Keeps z (noPropulsion t s) := by
  simp +contextual [Machine.noPropulsion, h]

@[simp] theorem Keeps.fullStages (h : Keeps z s) (t : AllocTable) (d turn : Int) : Keeps z (fullStages t d turn s) := by
  unfold Machine.fullStages
  dsimp only
  repeat' with_reducible first
    | assumption | apply Keeps.noPropulsion | apply Keeps.cycleRudder | apply Keeps.onPiu | apply Keeps.foldl
    | split | intro _

@[simp] theorem Keeps.joinedStages (h : Keeps z s) (t : AllocTable) : Keeps z (joinedStages t s) := by
  simp +contextual [Machine.joinedStages, h]

@[simp] theorem Keeps.runCycle (h : Keeps z s) : Keeps z (runCycle s) := by
  unfold Machine.runCycle
  dsimp only
  repeat' with_reducible first
    | assumption | apply Keeps.joinedStages | apply Keeps.fullStages | apply Keeps.onTau | split | intro _

@[simp] theorem Keeps.allocSwap (h : Keeps z s) : Keeps z (allocSwap s) := by
  unfold Machine.allocSwap
  dsimp only
  repeat' with_reducible first
    | assumption | apply Keeps.csuSwap | apply Keeps.leaveJoined | apply Keeps.sendJoin
    | apply Keeps.answerCommit | apply Keeps.piuSwap | apply Keeps.onTau | split | intro _

end Sys2Proof.Machine
end

