-- ==== Sys2Proof/Laws/KeepsStore.lean ====
section
/-! SUPPORT. What the effects on the nonvolatile store keep. -/

namespace Sys2Proof.Machine

variable {z s : State}

@[simp] theorem Keeps.onBank (h : Keeps z s) (b : BankId) (f : Bank → Bank)
    (hf : ∀ y, y.cells.wf = true → (f y).cells.wf = true) : Keeps z (onBank b f s) := by
  unfold Machine.onBank
  refine h.onNvs _ fun n hn => ⟨fun j => ?_, hn.2⟩
  have := hn.1 j
  by_cases e : bankIx b = j
  · subst e; rw [Fin.getElem_fin, updAt_same]; exact hf _ this
  · rw [Fin.getElem_fin, updAt_other _ e]; exact this

@[simp] theorem Keeps.onSlot (h : Keeps z s) (i : Fin 8) (f : Slot → Slot)
    (hf : ∀ y, y.cells.wf = true → (f y).cells.wf = true) : Keeps z (onSlot i f s) := by
  unfold Machine.onSlot
  refine h.onNvs _ fun n hn => ⟨hn.1, fun j => ?_⟩
  have := hn.2 j
  by_cases e : i = j
  · subst e; rw [Fin.getElem_fin, updAt_same]; exact hf _ this
  · rw [Fin.getElem_fin, updAt_other _ e]; exact this

@[simp] theorem Keeps.setLock (h : Keeps z s) (b : BankId) (f : LockFlag) (locked : Bool) : Keeps z (setLock b f locked s) := by
  simp +contextual [Machine.setLock, h]

@[simp] theorem Keeps.startEffect (h : Keeps z s) (op : StoreOp) : Keeps z (startEffect op s) := by
  unfold Machine.startEffect
  repeat' with_reducible first
    | assumption | apply Keeps.onBank | apply Keeps.onNvs | split | intro _
  all_goals simp_all

@[simp] theorem Keeps.runOp (h : Keeps z s) (op : StoreOp) : Keeps z (runOp op s) := by
  simp +contextual [Machine.runOp, h]

@[simp] theorem Keeps.startOp (h : Keeps z s) (op : StoreOp) : Keeps z (startOp op s) := by
  simp +contextual [Machine.startOp, h]

@[simp] theorem Keeps.handOp (h : Keeps z s) (op : StoreOp) : Keeps z (handOp op s) := by
  unfold Machine.handOp
  repeat' with_reducible first
    | assumption | apply Keeps.startOp | apply Keeps.onNvs | split | intro _
  all_goals simp_all

@[simp] theorem Keeps.tellClose (h : Keeps z s) (owed written : Bool) : Keeps z (tellClose owed written s) := by
  simp +contextual [Machine.tellClose, h]

@[simp] theorem Keeps.startCheckpoint (h : Keeps z s) (w : WaitingCheckpoint) : Keeps z (startCheckpoint w s) := by
  unfold Machine.startCheckpoint
  dsimp only
  repeat' with_reducible first
    | assumption | apply Keeps.tellClose | apply Keeps.runOp | apply Keeps.raiseAlarm | apply Keeps.onNvs
    | split | intro _
  all_goals simp_all

@[simp] theorem Keeps.suspendErase (h : Keeps z s) (b : BankId) (deadline : Nat) : Keeps z (suspendErase b deadline s) := by
  simp +contextual [Machine.suspendErase, h]

@[simp] theorem Keeps.resumeErase (h : Keeps z s) : Keeps z (resumeErase s) := by
  unfold Machine.resumeErase
  repeat' with_reducible first
    | assumption | apply Keeps.onNvs | split | intro _
  all_goals simp_all

@[simp] theorem Keeps.resumeIfFree (h : Keeps z s) : Keeps z (resumeIfFree s) := by
  unfold Machine.resumeIfFree
  repeat' with_reducible first
    | assumption | apply Keeps.resumeErase | split | intro _

@[simp] theorem Keeps.startWaiting (h : Keeps z s) : Keeps z (startWaiting s) := by
  unfold Machine.startWaiting
  repeat' with_reducible first
    | assumption | apply Keeps.startCheckpoint | apply Keeps.onNvs | split | intro _
  all_goals simp_all

@[simp] theorem Keeps.giveStore (h : Keeps z s) : Keeps z (giveStore s) := by
  unfold Machine.giveStore
  dsimp only
  repeat' with_reducible first
    | assumption | apply Keeps.startWaiting | apply Keeps.resumeIfFree | apply Keeps.resumeErase
    | apply Keeps.suspendErase | apply Keeps.startOp | apply Keeps.startEffect | apply Keeps.onNvs | split
    | intro _
  all_goals simp_all

@[simp] theorem Keeps.requestCheckpoint (h : Keeps z s) (p : Snapshot) (owed : Bool) : Keeps z (requestCheckpoint p owed s) := by
  unfold Machine.requestCheckpoint
  repeat' with_reducible first
    | assumption | apply Keeps.resumeIfFree | apply Keeps.suspendErase | apply Keeps.startCheckpoint
    | apply Keeps.onNvs | split | intro _
  all_goals simp_all

@[simp] theorem Keeps.opEnded (h : Keeps z s) : Keeps z (opEnded s) := by
  simp +contextual [Machine.opEnded, h]

@[simp] theorem Keeps.checkpointEnds (h : Keeps z s) (c : Checkpoint) (written : Bool) : Keeps z (checkpointEnds c written s) := by
  unfold Machine.checkpointEnds
  repeat' with_reducible first
    | assumption | apply Keeps.giveStore | apply Keeps.tellClose | apply Keeps.onNvs | split | intro _
  all_goals simp_all

@[simp] theorem Keeps.slotFails (h : Keeps z s) (c : Checkpoint) : Keeps z (slotFails c s) := by
  unfold Machine.slotFails
  dsimp only
  repeat' with_reducible first
    | assumption | apply Keeps.checkpointEnds | apply Keeps.runOp | apply Keeps.onSlot | apply Keeps.raiseAlarm
    | apply Keeps.onNvs | split | intro _
  all_goals simp_all

theorem slotCells_wf (p : Snapshot) (seq : Nat) : (slotCells p seq).wf = true :=
  memProgramAll_wf (memProgramAll_wf rfl 0 _) 252 _

@[simp] theorem Keeps.slotWrittenEnd (h : Keeps z s) (c : Checkpoint) : Keeps z (slotWrittenEnd c s) := by
  unfold Machine.slotWrittenEnd
  extract_lets s1 s2
  have h1 : Keeps z s1 := h.onSlot _ _ fun _ _ => slotCells_wf _ _
  have h2 : Keeps z s2 := h1.onNvs _ fun n hn => hn
  exact (Keeps.ite (h2.clearAllOf _) h2).checkpointEnds _ _

@[simp] theorem Keeps.spoilLoad (h : Keeps z s) : Keeps z (spoilLoad s) := by
  unfold Machine.spoilLoad
  split
  · exact h
  · exact h.onBank _ _ fun _ hy => hy

@[simp] theorem Keeps.tearErase (h : Keeps z s) (b : BankId) : Keeps z (tearErase b s) :=
  (h.onBank _ _ fun _ hy => tornErase_wf hy _).tickFree

@[simp] theorem Keeps.tearProgram (h : Keeps z s) (b : BankId) (a : Nat) (bytes : List Byte) :
    Keeps z (tearProgram b a bytes s) :=
  (h.onBank _ _ fun _ hy => memProgramAll_wf hy _ _).tickFree

@[simp] theorem Keeps.tearMark (h : Keeps z s) (b : BankId) (number : Nat) : Keeps z (tearMark b number s) :=
  (h.onBank _ _ fun _ hy => memProgramAll_wf hy _ _).tickFree

@[simp] theorem Keeps.tearSlotErase (h : Keeps z s) (c : Checkpoint) : Keeps z (tearSlotErase c s) :=
  (h.onSlot _ _ fun _ hy => tornErase_wf hy _).tickFree

@[simp] theorem Keeps.tearSlotProgram (h : Keeps z s) (c : Checkpoint) : Keeps z (tearSlotProgram c s) :=
  (h.onSlot _ _ fun _ hy => memProgramAll_wf hy _ _).tickFree

theorem tornProgram_wf {m : Memory} (h : m.wf = true) (a : Nat) (bytes : List Byte) (count : Nat) :
    (tornProgram m a bytes count).wf = true :=
  memProgramAll_wf h _ _

theorem cutRecord_wf {m : Memory} (h : m.wf = true) (p : Snapshot) (seq count : Nat) :
    (cutRecord m p seq count).wf = true := by
  unfold cutRecord
  extract_lets m1
  have h1 : m1.wf = true := tornProgram_wf h _ _ _
  clear_value m1
  split
  · exact memProgramAll_wf h1 _ _
  · exact h1

@[simp] theorem Keeps.cutSlotProgram (h : Keeps z s) (c : Checkpoint) : Keeps z (cutSlotProgram c s) := by
  unfold Machine.cutSlotProgram
  refine Keeps.tickFree (Keeps.onSlot h _ _ ?_)
  intro y hy
  dsimp only
  exact cutRecord_wf hy c.snapshot c.seq s.freeCount

@[simp] theorem Keeps.interruptOp (h : Keeps z s) (op : StoreOp) : Keeps z (interruptOp op s) := by
  unfold Machine.interruptOp
  split
  case h_9 => cases s.nvs.checkpoint with
    | none => exact h
    | some c => exact h.tearSlotErase c
  case h_10 => cases s.nvs.checkpoint with
    | none => exact h
    | some c => exact h.cutSlotProgram c
  all_goals
    first
    | exact h
    | simp [h]

@[simp] theorem Keeps.interruptStore (h : Keeps z s) : Keeps z (interruptStore s) := by
  unfold Machine.interruptStore
  dsimp only
  repeat' with_reducible first
    | assumption | apply Keeps.interruptOp | apply Keeps.tearErase | apply Keeps.onNvs | split | intro _
  all_goals simp_all

end Sys2Proof.Machine
end

