-- ==== Sys2Proof/Laws/KeepsFuel.lean ====
section
/-! SUPPORT. What the effects of the fuel accounting keep. -/

namespace Sys2Proof.Machine

variable {z s : State}

@[simp] theorem Keeps.onMeter (h : Keeps z s) (i : Nat) (f : Meter → Meter) : Keeps z (onMeter i f s) := by
  simp +contextual [Machine.onMeter, h]

@[simp] theorem Keeps.onAccount (h : Keeps z s) (e : Fin 4) (f : Account → Account)
    (hf : ∀ a, (f a).total = a.total) : Keeps z (onAccount e f s) := by
  unfold Machine.onAccount
  refine h.onFau _ fun u hu hs => ?_
  have := hu hs
  show _ = tankSum u.tanks + totalSum (Machine.updAt u.accounts e f)
  rw [totalSum_updAt, hf, sub_self, add_zero]
  exact this

@[simp] theorem Keeps.onTank (h : Keeps z s) (i : Fin 8) (f : Tank → Tank)
    (hf : ∀ a, (f a).balance = a.balance) : Keeps z (onTank i f s) := by
  unfold Machine.onTank
  refine h.onFau _ fun u hu hs => ?_
  have := hu hs
  show _ = tankSum (Machine.updAt u.tanks i f) + totalSum u.accounts
  rw [tankSum_updAt, hf, sub_self, add_zero]
  exact this

@[simp] theorem Keeps.settleModes (h : Keeps z s) (old : List Meter) : Keeps z (settleModes old s) := by
  unfold Machine.settleModes
  refine h.onFau _ fun u hu hs => ?_
  have := hu hs
  have e : totalSum (Vector.ofFn fun e : Fin 4 =>
      if isMetered old e && !isMetered u.meters e then
        { u.accounts[e] with pendingSupply := 0, pendingReturn := 0, void := true }
      else u.accounts[e]) = totalSum u.accounts := by
    unfold totalSum
    refine Finset.sum_congr rfl fun j _ => ?_
    rw [Fin.getElem_fin, Vector.getElem_ofFn]
    split <;> rfl
  show _ = tankSum u.tanks + totalSum _
  rw [e]
  exact this

@[simp] theorem Keeps.withModes (h : Keeps z s) (f : State → State) (hk : ∀ s, Keeps z s → Keeps z (f s)) :
    Keeps z (withModes s f) := by
  simp +contextual [Machine.withModes, h, hk]

@[simp] theorem Keeps.updateCaps (h : Keeps z s) : Keeps z (updateCaps s) := by
  unfold Machine.updateCaps
  dsimp only
  repeat' with_reducible first
    | assumption | apply Keeps.writeCap | apply Keeps.foldl | split | intro _

@[simp] theorem Keeps.writeAllCaps (h : Keeps z s) : Keeps z (writeAllCaps s) := by
  unfold Machine.writeAllCaps
  repeat' with_reducible first
    | assumption | apply Keeps.writeLineup | apply Keeps.writeCap | apply Keeps.foldl | split | intro _
  all_goals simp_all

@[simp] theorem Keeps.tankAlarms (h : Keeps z s) (i : Fin 8) : Keeps z (tankAlarms i s) := by
  unfold Machine.tankAlarms
  dsimp only
  repeat' with_reducible first
    | assumption | apply Keeps.syncAlarm | split | intro _

@[simp] theorem Keeps.evalTank (h : Keeps z s) (i : Fin 8) : Keeps z (evalTank i s) := by
  unfold Machine.evalTank
  dsimp only
  repeat' with_reducible first
    | assumption | apply Keeps.tankAlarms | apply Keeps.onTank | split | intro _
  all_goals simp_all

@[simp] theorem Keeps.evalAllTanks (h : Keeps z s) : Keeps z (evalAllTanks s) := by
  unfold Machine.evalAllTanks
  refine Keeps.foldl ?_ (fun s i h => h.evalTank i) _
  refine h.onFau _ fun u hu hs => ?_
  have := hu hs
  have e : tankSum (u.tanks.map fun t => { t with state := .normal, overfull := false }) = tankSum u.tanks := by
    unfold tankSum
    refine Finset.sum_congr rfl fun j _ => ?_
    rw [Fin.getElem_fin, Vector.getElem_map]; rfl
  show _ = tankSum _ + totalSum u.accounts
  rw [e]
  exact this

theorem Reaches.onFau (s : State) (f : Fau → Fau) : Reaches s (s.onFau f) :=
  ⟨rfl, rfl, rfl, le_rfl, fun y => ⟨y.csu, y.pcw, y.pcp, y.pck, y.hlc, y.nvs, y.mgu⟩⟩

/-- The books are short by `d` on the side of the tanks and engines. -/
def Fau.Off (d : Int) (u : Fau) : Prop :=
  u.sat = false → u.voyage.opening + u.voyage.bunkered + d = tankSum u.tanks + totalSum u.accounts

theorem off_zero (u : Fau) : u.Off 0 ↔ u.Balanced := by
  unfold Fau.Off
  rw [add_zero]
  exact Iff.rfl

theorem saturated_fau (x : Int) (s : State) :
    (saturated x s).fau = if limitAccount x = x then s.fau else { s.fau with sat := true } := by
  unfold Machine.saturated
  split <;> simp

theorem saturated_reaches (x : Int) (s : State) : Reaches s (saturated x s) := by
  unfold Machine.saturated
  split
  · exact (Keeps.refl s).reaches
  · exact (Reaches.onFau s _).trans ((Keeps.refl _).raiseAlarm _ _).reaches

@[simp] theorem Keeps.saturated (h : Keeps z s) (x : Int) : Keeps z (saturated x s) := by
  refine h.step (saturated_reaches x s) fun hb => ?_
  rw [saturated_fau]
  split
  · exact hb
  · exact fun e => absurd e (by simp)

theorem moveBalance_reaches (i : Fin 8) (v : Int) (s : State) : Reaches s (moveBalance i v s) :=
  (Reaches.onFau s _).trans (saturated_reaches _ _)

theorem moveBalance_off {d : Int} {s : State} (i : Fin 8) (v : Int) (h : s.fau.Off d) :
    (moveBalance i v s).fau.Off (d + v) := by
  unfold moveBalance
  dsimp only
  rw [saturated_fau]
  split
  · rename_i e
    intro hs
    have := h hs
    show _ = tankSum (updAt s.fau.tanks i _) + totalSum s.fau.accounts
    rw [tankSum_updAt, e]
    simp only [onTank, State.onFau_fau, Fin.getElem_fin] at *
    linarith
  · exact fun e => absurd e (by simp)

theorem addTotal_reaches (e : Fin 4) (v : Int) (s : State) : Reaches s (addTotal e v s) :=
  (Reaches.onFau s _).trans (saturated_reaches _ _)

theorem addTotal_off {d : Int} {s : State} (e : Fin 4) (v : Int) (h : s.fau.Off d) :
    (addTotal e v s).fau.Off (d + v) := by
  unfold addTotal
  dsimp only
  rw [saturated_fau]
  split
  · rename_i hl
    intro hs
    have := h hs
    show _ = tankSum s.fau.tanks + totalSum (updAt s.fau.accounts e _)
    rw [totalSum_updAt, hl]
    simp only [onAccount, State.onFau_fau, Fin.getElem_fin] at *
    linarith
  · exact fun e => absurd e (by simp)

/-- A volume moved between two places that both stand in the sum (R116). -/
theorem Keeps.moved {t : State} (h : Keeps z s) (r : Reaches s t) (b : s.fau.Off 0 → t.fau.Off 0) : Keeps z t :=
  h.step r fun hb => (off_zero _).1 (b ((off_zero _).2 hb))

@[simp] theorem Keeps.applyBooking (h : Keeps z s) (e : Fin 4) (v : Int) : Keeps z (applyBooking e v s) := by
  unfold Machine.applyBooking
  extract_lets tank s1 s2
  have h1 : Keeps z s1 := by
    refine h.moved ((addTotal_reaches _ _ _).trans (moveBalance_reaches _ _ _)) fun hb => ?_
    have := moveBalance_off tank (-v) (addTotal_off e v hb)
    simpa using this
  have h2 : Keeps z s2 := Keeps.ite (h1.onAccount _ _ (by simp)) h1
  exact (h2.evalTank _).updateCaps

@[simp] theorem Keeps.bookNet (h : Keeps z s) (e : Fin 4) : Keeps z (bookNet e s) := by
  unfold Machine.bookNet
  dsimp only
  repeat' with_reducible first
    | assumption | apply Keeps.applyBooking | apply Keeps.onAccount | apply Keeps.onFau | split | intro _
  all_goals simp_all

@[simp] theorem Keeps.placeVolume (h : Keeps z s) (i : Nat) (m : Meter) (scaled : Int) : Keeps z (placeVolume i m scaled s) := by
  unfold Machine.placeVolume
  split
  · exact Keeps.ite ((h.onAccount _ _ (by simp)).bookNet _) h
  · exact Keeps.ite (h.onAccount _ _ (by simp)) h
  · extract_lets sum s1
    have h1 : Keeps z s1 := h.onMeter _ _
    refine Keeps.ite h1 (Keeps.updateCaps (Keeps.evalTank (Keeps.evalTank ?_ _) _))
    refine h1.moved ((moveBalance_reaches _ _ _).trans (moveBalance_reaches _ _ _)) fun hb => ?_
    rename_i source dest _
    have := moveBalance_off dest (sum / million) (moveBalance_off source (-(sum / million)) hb)
    simpa using this

@[simp] theorem Keeps.acceptVolume (h : Keeps z s) (i : Nat) (m : Meter) (delta : Nat) (t : Int) :
    Keeps z (acceptVolume i m delta t s) := by
  unfold Machine.acceptVolume
  dsimp only
  repeat' with_reducible first
    | assumption | apply Keeps.placeVolume | apply Keeps.onFau | split | intro _
  all_goals simp_all

@[simp] theorem Keeps.meterFaults (h : Keeps z s) (i : Nat) (node : Nat) : Keeps z (meterFaults i node s) := by
  simp +contextual [Machine.meterFaults, h]

@[simp] theorem Keeps.deltaOf (h : Keeps z s) (m : Meter) (totalizer : Nat) : Keeps z (deltaOf m totalizer s).2 := by
  unfold Machine.deltaOf
  repeat' with_reducible first
    | assumption | apply Keeps.tickFree | split | intro _

@[simp] theorem Keeps.cleanReport (h : Keeps z s) (i : Nat) (m : Meter) (totalizer : Nat) (t : Int) :
    Keeps z (cleanReport i m totalizer t s) := by
  unfold Machine.cleanReport
  dsimp only
  repeat' with_reducible first
    | assumption | apply Keeps.deltaOf | apply Keeps.meterFaults | apply Keeps.acceptVolume
    | apply Keeps.onMeter | apply Keeps.clearAlarm | apply Keeps.onFau | split | intro _
    | refine Keeps.ofPair (by assumption) ?_
  all_goals simp_all

@[simp] theorem Keeps.matchedReport (h : Keeps z s) (i : Nat) (m : Meter) (totalizer : Nat) (t : Int) (flags : Byte) :
    Keeps z (matchedReport i m totalizer t flags s) := by
  unfold Machine.matchedReport
  dsimp only
  repeat' with_reducible first
    | assumption | apply Keeps.cleanReport | apply Keeps.meterFaults | apply Keeps.onMeter | split | intro _

@[simp] theorem Keeps.meterFrame (h : Keeps z s) (node : Node) (totalizer : Nat) (t : Int) (flags : Byte) :
    Keeps z (meterFrame node totalizer t flags s) := by
  unfold Machine.meterFrame
  repeat' with_reducible first
    | assumption | apply Keeps.matchedReport | apply Keeps.withModes | apply Keeps.onFau | split | intro _
  all_goals simp_all

@[simp] theorem Keeps.classFive (h : Keeps z s) (f : Frame) : Keeps z (classFive f s) := by
  unfold Machine.classFive
  repeat' with_reducible first
    | assumption | apply Keeps.meterFrame | apply Keeps.onFau | split | intro _
  all_goals simp_all

@[simp] theorem Keeps.meterSilent (h : Keeps z s) (i : Nat) (m : Meter) : Keeps z (meterSilent i m s) := by
  unfold Machine.meterSilent
  dsimp only
  repeat' with_reducible first
    | assumption | apply Keeps.meterFaults | apply Keeps.withModes | apply Keeps.onMeter | split | intro _

@[simp] theorem Keeps.engineFuel (h : Keeps z s) (e : Fin 4) (rate : Nat) : Keeps z (engineFuel e rate s) := by
  unfold Machine.engineFuel
  dsimp only
  repeat' with_reducible first
    | assumption | apply Keeps.applyBooking | apply Keeps.onAccount | split | intro _
  all_goals simp_all

@[simp] theorem Keeps.endWindow (h : Keeps z s) (e : Fin 4) : Keeps z (endWindow s e) := by
  unfold Machine.endWindow
  dsimp only
  repeat' with_reducible first
    | assumption | apply Keeps.onAccount | apply Keeps.clearAlarm | apply Keeps.raiseAlarm | split | intro _
  all_goals simp_all

@[simp] theorem Keeps.setLineup (h : Keeps z s) (e : Fin 4) (tank : Fin 8) : Keeps z (setLineup e tank s) := by
  unfold Machine.setLineup
  repeat' with_reducible first
    | assumption | apply Keeps.updateCaps | apply Keeps.writeLineup | apply Keeps.onFau | split | intro _
  all_goals simp_all

@[simp] theorem Keeps.takeBunker (h : Keeps z s) (tank : Fin 8) (v : Nat) : Keeps z (takeBunker tank v s) := by
  unfold Machine.takeBunker
  extract_lets y s1 s2 s3
  have h2 : Keeps z s2 := by
    refine h.moved (((moveBalance_reaches _ _ _).trans (Reaches.onFau _ _)).trans (saturated_reaches _ _)) fun hb => ?_
    have h1 := moveBalance_off tank (v : Int) hb
    have ev : s1.fau.voyage = s.fau.voyage := by
      simp only [s1, moveBalance, saturated_fau]
      split <;> rfl
    simp only [s2, saturated_fau]
    split
    · rename_i e
      intro hs
      have := h1 hs
      show s1.fau.voyage.opening + limitAccount y + 0 = tankSum s1.fau.tanks + totalSum s1.fau.accounts
      rw [e, ev]
      change s1.fau.voyage.opening + s1.fau.voyage.bunkered + _ = tankSum s1.fau.tanks + totalSum s1.fau.accounts at this
      rw [ev] at this
      linarith
    · exact fun e => absurd e (by simp)
  exact ((h2.evalTank _).updateCaps).requestCheckpoint _ _

theorem sum_soundings (v : Vector Nat 8) : ∑ i : Fin 8, (v[i] : Int) = ((v.toList.sum : Nat) : Int) := by
  have e : v.toList = List.ofFn fun i : Fin 8 => v[i] := by
    refine List.ext_getElem (by simp) fun i h1 h2 => ?_
    rw [List.getElem_ofFn]
    rfl
  rw [e, List.sum_ofFn]
  push_cast
  rfl

@[simp] theorem Keeps.openVoyage (h : Keeps z s) (number : Nat) (soundings : Vector Nat 8) :
    Keeps z (openVoyage number soundings s) := by
  unfold Machine.openVoyage
  extract_lets total s1 s2 s3
  have h1 : Keeps z s1 := by
    refine h.onFau _ fun u _ _ => ?_
    have e1 : tankSum (Vector.ofFn fun i : Fin 8 => { u.tanks[i] with balance := (soundings[i] : Nat) }) = total := by
      show _ = ((soundings.toList.sum : Nat) : Int)
      rw [← sum_soundings]
      refine Finset.sum_congr rfl fun j _ => ?_
      rw [Fin.getElem_fin, Vector.getElem_ofFn]
    have e2 : totalSum (u.accounts.map fun a => { a with total := 0 }) = 0 := by
      refine Finset.sum_eq_zero fun j _ => ?_
      rw [Fin.getElem_fin, Vector.getElem_map]
    show total + 0 = tankSum _ + totalSum _
    rw [e1, e2]
  have h2 : Keeps z s2 := (h1.clearAlarm _ _).clearAllOf _
  exact ((h2.foldl (fun s i h => h.evalTank i) _).updateCaps).requestCheckpoint _ _

@[simp] theorem Keeps.closeVoyage (h : Keeps z s) : Keeps z (closeVoyage s) := by
  unfold Machine.closeVoyage
  refine Keeps.requestCheckpoint ?_ _ _
  exact h.onFau _ fun _ hu hs => hu hs

@[simp] theorem Keeps.fuelSwap (h : Keeps z s) : Keeps z (fuelSwap s) := by
  unfold Machine.fuelSwap
  dsimp only
  repeat' with_reducible first
    | assumption | apply Keeps.evalAllTanks | apply Keeps.writeAllCaps | apply Keeps.settleModes
    | apply Keeps.clearAlarm | apply Keeps.onFau | apply Keeps.foldl | split | intro _
  all_goals simp_all

@[simp] theorem Keeps.fauStarts (h : Keeps z s) : Keeps z (fauStarts s) := by
  unfold Machine.fauStarts
  dsimp only
  repeat' with_reducible first
    | assumption | apply Keeps.evalAllTanks | apply Keeps.writeAllCaps | apply Keeps.raiseAlarm | split
    | intro _
  all_goals simp_all

end Sys2Proof.Machine
end

