-- ==== Sys2Proof/Laws/KeepsPropulsion.lean ====
section
/-! SUPPORT. What the effects of the propulsion interface keep. -/

namespace Sys2Proof.Machine

variable {z s : State}

@[simp] theorem Keeps.countUnknownFeedback (h : Keeps z s) : Keeps z (countUnknownFeedback s) := by
  simp +contextual [Machine.countUnknownFeedback, h]

@[simp] theorem Keeps.countMalformedFeedback (h : Keeps z s) : Keeps z (countMalformedFeedback s) := by
  simp +contextual [Machine.countMalformedFeedback, h]

@[simp] theorem Keeps.storeFeedback (h : Keeps z s) (i : Fin 6) (fb : EngineFeedback) : Keeps z (storeFeedback i fb s) := by
  simp +contextual [Machine.storeFeedback, h]

@[simp] theorem Keeps.warnEngine (h : Keeps z s) (i : Fin 6) (fb : EngineFeedback) : Keeps z (warnEngine i fb s) := by
  simp +contextual [Machine.warnEngine, h]

@[simp] theorem Keeps.actOnFeedback (h : Keeps z s) (i : Fin 6) (fb : EngineFeedback) : Keeps z (actOnFeedback i fb s) := by
  simp +contextual [Machine.actOnFeedback, h]

@[simp] theorem Keeps.handFuelRate (h : Keeps z s) (i : Fin 6) (rate : Nat) : Keeps z (handFuelRate i rate s) := by
  unfold Machine.handFuelRate
  repeat' with_reducible first
    | assumption | apply Keeps.engineFuel | split | intro _

@[simp] theorem Keeps.takeEngineFb (h : Keeps z s) (i : Fin 6) (fb : EngineFeedback) : Keeps z (takeEngineFb i fb s) := by
  unfold Machine.takeEngineFb
  dsimp only
  repeat' with_reducible first
    | assumption | apply Keeps.handFuelRate | apply Keeps.actOnFeedback | apply Keeps.warnEngine
    | apply Keeps.storeFeedback | split | intro _

@[simp] theorem Keeps.engineFrame (h : Keeps z s) (node : Node) (rpm : Nat) (gear : Gear) (rate : Nat) (flags : Byte) :
    Keeps z (engineFrame node rpm gear rate flags s) := by
  unfold Machine.engineFrame
  repeat' with_reducible first
    | assumption | apply Keeps.takeEngineFb | apply Keeps.countUnknownFeedback | split | intro _

@[simp] theorem Keeps.engineFbFrame (h : Keeps z s) (node : Node) (rpm : Nat) (gear : Byte) (rate : Nat) (flags : Byte) :
    Keeps z (engineFbFrame node rpm gear rate flags s) := by
  unfold Machine.engineFbFrame
  repeat' with_reducible first
    | assumption | apply Keeps.engineFrame | apply Keeps.countMalformedFeedback | split | intro _

@[simp] theorem Keeps.takeRudderFb (h : Keeps z s) (i : Fin 3) (angle : Int) : Keeps z (takeRudderFb i angle s) := by
  unfold Machine.takeRudderFb
  dsimp only
  repeat' with_reducible first
    | assumption | apply Keeps.rudderLost | apply Keeps.evalDeviation | apply Keeps.onRudder
    | apply Keeps.clearAlarm | split | intro _

@[simp] theorem Keeps.rudderFbFrame (h : Keeps z s) (node : Node) (angle : Int) : Keeps z (rudderFbFrame node angle s) := by
  unfold Machine.rudderFbFrame
  repeat' with_reducible first
    | assumption | apply Keeps.takeRudderFb | apply Keeps.countUnknownFeedback | split | intro _

@[simp] theorem Keeps.classThree (h : Keeps z s) (f : Frame) : Keeps z (classThree f s) := by
  unfold Machine.classThree
  repeat' with_reducible first
    | assumption | apply Keeps.rudderFbFrame | apply Keeps.engineFbFrame | apply Keeps.countMalformedFeedback
    | split | intro _

@[simp] theorem Keeps.writeMappedEngine (h : Keeps z s) (i : Fin 6) (gear : Gear) (rpm : Nat) (fresh : Bool) :
    Keeps z (writeMappedEngine i gear rpm fresh s) := by
  simp +contextual [Machine.writeMappedEngine, h]

@[simp] theorem Keeps.writeMappedRudder (h : Keeps z s) (angle : Int) (fresh : Bool) : Keeps z (writeMappedRudder angle fresh s) := by
  simp +contextual [Machine.writeMappedRudder, h]

@[simp] theorem Keeps.discardSetpoint (h : Keeps z s) : Keeps z (discardSetpoint s) := by
  simp +contextual [Machine.discardSetpoint, h]

@[simp] theorem Keeps.classTwo (h : Keeps z s) (f : Frame) : Keeps z (classTwo f s) := by
  unfold Machine.classTwo
  repeat' with_reducible first
    | assumption | apply Keeps.discardSetpoint | apply Keeps.writeMappedRudder | apply Keeps.writeMappedEngine
    | apply Keeps.setpointTaken | split | intro _

@[simp] theorem Keeps.engineSilent (h : Keeps z s) (i : Fin 6) : Keeps z (engineSilent i s) := by
  unfold Machine.engineSilent
  dsimp only
  repeat' with_reducible first
    | assumption | apply Keeps.setAvail | apply Keeps.onEngine | apply Keeps.clearAlarm
    | apply Keeps.raiseAlarm | split | intro _

@[simp] theorem Keeps.rudderSilent (h : Keeps z s) (i : Fin 3) : Keeps z (rudderSilent i s) := by
  unfold Machine.rudderSilent
  repeat' with_reducible first
    | assumption | apply Keeps.rudderLost | apply Keeps.onRudder | apply Keeps.raiseAlarm | split | intro _

@[simp] theorem Keeps.sendEngine (h : Keeps z s) (i : Fin 6) : Keeps z (sendEngine s i) := by
  unfold Machine.sendEngine
  dsimp only
  repeat' with_reducible first
    | assumption | apply Keeps.onEngine | apply Keeps.handLink | apply Keeps.handPort | split | intro _
    | refine Keeps.ofPair (by assumption) ?_

@[simp] theorem Keeps.sendRudder (h : Keeps z s) (i : Fin 3) : Keeps z (sendRudder s i) := by
  unfold Machine.sendRudder
  dsimp only
  repeat' with_reducible first
    | assumption | apply Keeps.onRudder | apply Keeps.handLink | apply Keeps.handPort | split | intro _
    | refine Keeps.ofPair (by assumption) ?_

@[simp] theorem Keeps.setpointFailed (h : Keeps z s) : Keeps z (setpointFailed s) := by
  simp +contextual [Machine.setpointFailed, h]

end Sys2Proof.Machine
end

