-- ==== Sys2Proof/Laws/KeepsLink.lean ====
section
/-! SUPPORT. What the effects of the helper link keep. -/

namespace Sys2Proof.Machine

variable {z s : State}

@[simp] theorem Keeps.heardOn (h : Keeps z s) (l : Lane) : Keeps z (heardOn l s) := by
  simp +contextual [Machine.heardOn, h]

@[simp] theorem Keeps.placeControl (h : Keeps z s) (q : Fin 4) (f : Control) : Keeps z (placeControl q f s) := by
  unfold Machine.placeControl
  repeat' with_reducible first
    | assumption | apply Keeps.onLane | split | intro _

@[simp] theorem Keeps.placeReturn (h : Keeps z s) (q : Fin 4) : Keeps z (placeReturn q s) := by
  unfold Machine.placeReturn
  repeat' with_reducible first
    | assumption | apply Keeps.onLane | split | intro _

@[simp] theorem Keeps.makeAnnounce (h : Keeps z s) (q : Fin 4) : Keeps z (makeAnnounce q s) := by
  simp +contextual [Machine.makeAnnounce, h]

@[simp] theorem Keeps.addFreed (h : Keeps z s) (q : Fin 4) (n : Nat) : Keeps z (addFreed q n s) := by
  unfold Machine.addFreed
  dsimp only
  repeat' with_reducible first
    | assumption | apply Keeps.placeReturn | apply Keeps.onQueue | split | intro _
  all_goals simp_all

@[simp] theorem pendQueue_rx (y : LinkQueue) : (pendQueue y).rx = y.rx := by unfold pendQueue; split <;> rfl
@[simp] theorem pendQueue_tx (y : LinkQueue) : (pendQueue y).tx = y.tx := by unfold pendQueue; split <;> rfl
@[simp] theorem openIfDone_rx (y : LinkQueue) : (openIfDone y).rx = y.rx := by unfold openIfDone; split <;> rfl
@[simp] theorem openIfDone_tx (y : LinkQueue) : (openIfDone y).tx = y.tx := by unfold openIfDone; split <;> rfl

@[simp] theorem Keeps.pendQueues (h : Keeps z s) : Keeps z (pendQueues s) :=
  h.onHlc _ fun _ hc => LinkFits.map hc _ fun _ => by simp

@[simp] theorem Keeps.flushLink (h : Keeps z s) : Keeps z (flushLink s) := by
  simp +contextual [Machine.flushLink, h]

@[simp] theorem Keeps.onLanes (h : Keeps z s) (f : LaneCtl → LaneCtl) : Keeps z (onLanes f s) := by
  exact h.onHlc _ fun _ hc => hc

@[simp] theorem Keeps.enterDown (h : Keeps z s) : Keeps z (enterDown s) := by
  unfold Machine.enterDown
  dsimp only
  repeat' with_reducible first
    | assumption | apply Keeps.onLanes | apply Keeps.flushLink | apply Keeps.pendQueues
    | apply Keeps.joinLinkLost | apply Keeps.clearAlarm | apply Keeps.raiseAlarm | apply Keeps.onHlc | split
    | intro _
  all_goals simp_all

@[simp] theorem Keeps.startTraining (h : Keeps z s) (state : LinkState) : Keeps z (startTraining state s) := by
  simp +contextual [Machine.startTraining, h]

@[simp] theorem Keeps.enterTraining (h : Keeps z s) : Keeps z (enterTraining s) := by
  simp +contextual [Machine.enterTraining, h]

@[simp] theorem Keeps.cutShort (h : Keeps z s) (l : Lane) : Keeps z (cutShort l s) := by
  unfold Machine.cutShort
  repeat' with_reducible first
    | assumption | apply Keeps.onQueue | split | intro _
  all_goals simp_all

@[simp] theorem Keeps.enterRetraining (h : Keeps z s) : Keeps z (enterRetraining s) := by
  unfold Machine.enterRetraining
  repeat' with_reducible first
    | assumption | apply Keeps.cutShort | apply Keeps.startTraining | apply Keeps.pendQueues | split | intro _

@[simp] theorem Keeps.enterRoleMismatch (h : Keeps z s) : Keeps z (enterRoleMismatch s) := by
  unfold Machine.enterRoleMismatch
  dsimp only
  repeat' with_reducible first
    | assumption | apply Keeps.onLanes | apply Keeps.flushLink | apply Keeps.pendQueues
    | apply Keeps.joinLinkLost | apply Keeps.raiseAlarm | apply Keeps.onHlc | split | intro _
  all_goals simp_all

@[simp] theorem Keeps.upAlarms (h : Keeps z s) (x : LaneSet) : Keeps z (upAlarms x s) := by
  unfold Machine.upAlarms
  dsimp only
  repeat' with_reducible first
    | assumption | apply Keeps.clearAllOf | apply Keeps.clearAlarm | apply Keeps.raiseAlarm | split | intro _

@[simp] theorem Keeps.enterUp (h : Keeps z s) (x : LaneSet) : Keeps z (enterUp x s) := by
  unfold Machine.enterUp
  dsimp only
  repeat' with_reducible first
    | assumption | apply Keeps.upAlarms | apply Keeps.makeAnnounce | apply Keeps.onHlc | apply Keeps.foldl
    | split | intro _
  all_goals simp_all

@[simp] theorem Keeps.upIfAgreed (h : Keeps z s) : Keeps z (upIfAgreed s) := by
  unfold Machine.upIfAgreed
  dsimp only
  repeat' with_reducible first
    | assumption | apply Keeps.enterUp | split | intro _

@[simp] theorem Keeps.formChosen (h : Keeps z s) : Keeps z (formChosen s) := by
  unfold Machine.formChosen
  dsimp only
  repeat' with_reducible first
    | assumption | apply Keeps.upIfAgreed | apply Keeps.enterDown | apply Keeps.onHlc | split | intro _
  all_goals simp_all

@[simp] theorem Keeps.noteTs (h : Keeps z s) (l : Lane) (ts : Ts) : Keeps z (noteTs l ts s) := by
  unfold Machine.noteTs
  dsimp only
  repeat' with_reducible first
    | assumption | apply Keeps.formChosen | apply Keeps.upIfAgreed | apply Keeps.onLane | apply Keeps.onHlc
    | split | intro _
  all_goals simp_all

@[simp] theorem Keeps.trainingTs (h : Keeps z s) (l : Lane) (ts : Ts) : Keeps z (trainingTs l ts s) := by
  simp +contextual [Machine.trainingTs, h]

@[simp] theorem Keeps.takeTs (h : Keeps z s) (l : Lane) (ts : Ts) : Keeps z (takeTs l ts s) := by
  unfold Machine.takeTs
  repeat' with_reducible first
    | assumption | apply Keeps.trainingTs | apply Keeps.enterRetraining | apply Keeps.enterTraining
    | apply Keeps.heardOn | split | intro _

@[simp] theorem Keeps.markBad (h : Keeps z s) (l : Lane) : Keeps z (markBad l s) := by
  unfold Machine.markBad
  dsimp only
  exact (Keeps.enterRetraining (by simp +contextual [h])).onHlc _ fun _ hc => hc

@[simp] theorem Keeps.badLinkFrame (h : Keeps z s) (l : Lane) : Keeps z (badLinkFrame l s) := by
  unfold Machine.badLinkFrame
  dsimp only
  repeat' with_reducible first
    | assumption | apply Keeps.markBad | apply Keeps.heardOn | apply Keeps.onLane | split | intro _

@[simp] theorem Keeps.otherFrame (h : Keeps z s) (l : Lane) : Keeps z (otherFrame l s) := by
  simp +contextual [Machine.otherFrame, h]

@[simp] theorem Keeps.takeAnnounce (h : Keeps z s) (q : Fin 4) (epoch free : Nat) : Keeps z (takeAnnounce q epoch free s) := by
  unfold Machine.takeAnnounce
  dsimp only
  repeat' with_reducible first
    | assumption | apply Keeps.makeAnnounce | apply Keeps.placeControl | apply Keeps.onQueue | split | intro _
  all_goals simp_all

@[simp] theorem Keeps.takeConfirm (h : Keeps z s) (q : Fin 4) (epoch : Nat) : Keeps z (takeConfirm q epoch s) := by
  simp +contextual [Machine.takeConfirm, h]

@[simp] theorem Keeps.takeReturn (h : Keeps z s) (q : Fin 4) (epoch total : Nat) : Keeps z (takeReturn q epoch total s) := by
  simp +contextual [Machine.takeReturn, h]

@[simp] theorem Keeps.whenUp (h : Keeps z s) {k : State → State} (hk : Keeps z (k s)) : Keeps z (whenUp s k) := by
  unfold Machine.whenUp
  split <;> assumption

@[simp] theorem Keeps.sendControl (h : Keeps z s) (l : Lane) : Keeps z (sendControl l s) := by
  unfold Machine.sendControl
  dsimp only
  repeat' with_reducible first
    | assumption | apply Keeps.onLane | split | intro _

@[simp] theorem Keeps.sendData (h : Keeps z s) (l : Lane) : Keeps z (sendData l s) := by
  unfold Machine.sendData
  dsimp only
  repeat' with_reducible first
    | assumption | apply Keeps.onLane | apply Keeps.onQueue | split | intro _
  all_goals simp_all

@[simp] theorem Keeps.endData (h : Keeps z s) (l : Lane) : Keeps z (endData l s) := by
  unfold Machine.endData
  repeat' with_reducible first
    | assumption | apply Keeps.onLane | apply Keeps.onQueue | split | intro _
  all_goals simp_all

@[simp] theorem Keeps.stopSending (h : Keeps z s) (q : Fin 4) (l : Lane) : Keeps z (stopSending q l s) := by
  simp +contextual [Machine.stopSending, h]

@[simp] theorem Keeps.disableQueue (h : Keeps z s) (q : Fin 4) : Keeps z (disableQueue q s) := by
  unfold Machine.disableQueue
  dsimp only
  repeat' with_reducible first
    | assumption | apply Keeps.stopSending | apply Keeps.whenUp | apply Keeps.placeControl
    | apply Keeps.onQueue | apply Keeps.onHlc | split | intro _
  all_goals simp_all

@[simp] theorem Keeps.enableQueue (h : Keeps z s) (q : Fin 4) : Keeps z (enableQueue q s) := by
  unfold Machine.enableQueue
  repeat' with_reducible first
    | assumption | apply Keeps.whenUp | apply Keeps.makeAnnounce | apply Keeps.onQueue | split | intro _
  all_goals simp_all

@[simp] theorem Keeps.swapEnables (h : Keeps z s) : Keeps z (swapEnables s) := by
  unfold Machine.swapEnables
  dsimp only
  repeat' with_reducible first
    | assumption | apply Keeps.enableQueue | apply Keeps.disableQueue | apply Keeps.foldl | split | intro _

end Sys2Proof.Machine
end

