-- ==== Sys2Proof/Laws/KeepsSwitch.lean ====
section
/-! SUPPORT. What the taking side of the switch keeps. -/

namespace Sys2Proof.Machine

variable {z s : State}

/-- Receive queues changed without growth. -/
theorem PortFits.rx {rx : Vector (List Frame) 4} {tx : Vector (List TxEntry) 4} (h : PortFits rx tx) (q : Fin 4)
    (f : List Frame → List Frame) (hf : (f rx[q]).length ≤ Config.segmentDepth) :
    PortFits (Machine.updAt rx q f) tx := by
  intro j
  refine ⟨?_, (h j).2⟩
  by_cases e : q = j
  · subst e; rw [Fin.getElem_fin, updAt_same]; exact hf
  · rw [Fin.getElem_fin, updAt_other _ e]; exact (h j).1

/-- Transmit queues changed without growth. -/
theorem PortFits.tx {rx : Vector (List Frame) 4} {tx : Vector (List TxEntry) 4} (h : PortFits rx tx) (q : Fin 4)
    (f : List TxEntry → List TxEntry) (hf : (f tx[q]).length ≤ Config.segmentDepth) :
    PortFits rx (Machine.updAt tx q f) := by
  intro j
  refine ⟨(h j).1, ?_⟩
  by_cases e : q = j
  · subst e; rw [Fin.getElem_fin, updAt_same]; exact hf
  · rw [Fin.getElem_fin, updAt_other _ e]; exact (h j).2

theorem dropRx_fits (q : Fin 4) (c : PortCtl) (h : c.WithinDepth) : (dropRx q c).WithinDepth :=
  PortFits.rx h q _ (by
    have := (h q).1
    rw [List.length_drop]
    exact (Nat.sub_le _ _).trans this)

@[simp] theorem Keeps.freeEntry (h : Keeps z s) (x : PortName) (q : Fin 4) : Keeps z (freeEntry x q s) := by
  unfold Machine.freeEntry
  split
  · exact h.onPort _ _ (dropRx_fits q)
  · exact h.onPort _ _ (dropRx_fits q)
  · exact h.onPort _ _ (dropRx_fits q)
  · exact (h.onQueue _ _ (by simp)).addFreed _ _

@[simp] theorem Keeps.arbiterTake (h : Keeps z s) : Keeps z (arbiterTake s) := by
  unfold Machine.arbiterTake
  repeat' with_reducible first
    | assumption | apply Keeps.freeEntry | apply Keeps.onFsw | split | intro _

@[simp] theorem Keeps.windowSwap (h : Keeps z s) : Keeps z (windowSwap s) := by
  unfold Machine.windowSwap
  dsimp only
  repeat' with_reducible first
    | assumption | apply Keeps.swapEnables | apply Keeps.answerCommit | apply Keeps.onFsw | split | intro _

@[simp] theorem Keeps.markWindow (h : Keeps z s) : Keeps z (markWindow s) := by
  unfold Machine.markWindow
  repeat' with_reducible first
    | assumption | apply Keeps.windowSwap | apply Keeps.onFsw | split | intro _

@[simp] theorem Keeps.placeData (h : Keeps z s) (q : Fin 4) (f : Frame) : Keeps z (placeData q f s) := by
  unfold Machine.placeData
  split
  · refine Keeps.addFreed ?_ _ _
    exact h.onHlc _ fun _ hc => hc
  · split
    · rename_i hq
      refine h.onHlc' _ fun hc j => ?_
      by_cases e : q = j
      · subst e
        rw [Fin.getElem_fin, updAt_same]
        exact ⟨by simpa using hq, (hc q).2⟩
      · rw [Fin.getElem_fin, updAt_other _ e]; exact hc j
    · exact (h.onQueue _ _ (by simp)).addFreed _ _

@[simp] theorem Keeps.noteGap (h : Keeps z s) (q : Fin 4) (g : Nat) : Keeps z (noteGap q g s) := by
  unfold Machine.noteGap
  repeat' with_reducible first
    | assumption | apply Keeps.addFreed | apply Keeps.onQueue | split | intro _
  all_goals simp_all

@[simp] theorem Keeps.takeData (h : Keeps z s) (q : Fin 4) (seq : Nat) (f : Frame) : Keeps z (takeData q seq f s) := by
  unfold Machine.takeData
  dsimp only
  repeat' with_reducible first
    | assumption | apply Keeps.noteGap | apply Keeps.placeData | apply Keeps.enterRetraining
    | apply Keeps.placeControl | apply Keeps.onQueue | apply Keeps.onHlc | split | intro _
  all_goals simp_all

end Sys2Proof.Machine
end

