-- ==== Sys2Proof/Laws/KeepsReset.lean ====
section
/-! SUPPORT. What the resets keep. -/

namespace Sys2Proof.Machine

variable {z s : State}

theorem initial_oneHolder : Csu.initial.OneHolder := by unfold Csu.OneHolder; decide

theorem initial_withinDepth : PortCtl.initial.WithinDepth := by unfold PortCtl.WithinDepth; decide

theorem link_afterReset (t : Option WindowTable) (now : Nat) : (Hlc.afterReset t now).WithinDepth := by
  intro q
  simp [Hlc.afterReset, LinkQueue.initial]

theorem link_initial : Hlc.initial.WithinDepth := by unfold Hlc.WithinDepth; decide

theorem no_alarms (sticky : Vector Bool 27) : RaisedKept [] sticky := ⟨List.nodup_nil, by simp⟩

@[simp] theorem Keeps.unitsReset (h : Keeps z s) (sticky : Vector Bool 27) : Keeps z (unitsReset sticky s) :=
  h.to rfl rfl rfl le_rfl (fun hs =>
    ⟨initial_oneHolder, initial_withinDepth, initial_withinDepth, initial_withinDepth, link_afterReset _ _, hs.nvs,
      no_alarms _⟩) id

@[simp] theorem Keeps.startCoreReset (h : Keeps z s) : Keeps z (startCoreReset s) :=
  h.spoilLoad.interruptStore.to rfl rfl rfl le_rfl (fun hs =>
    ⟨initial_oneHolder, initial_withinDepth, initial_withinDepth, initial_withinDepth, link_initial, hs.nvs,
      no_alarms _⟩) (id)

theorem afterCore_balanced (u : Fau) (now : Nat) (h : u.Balanced) : (u.afterCore now).Balanced := by
  intro hs
  have e : totalSum (u.afterCore now).accounts = totalSum u.accounts := by
    refine Finset.sum_congr rfl fun j _ => ?_
    rw [Fin.getElem_fin, Fau.afterCore, Vector.getElem_ofFn]
  show _ = tankSum u.tanks + totalSum _
  rw [e]
  exact h hs

@[simp] theorem Keeps.endCoreReset (h : Keeps z s) : Keeps z (endCoreReset s) := by
  unfold Machine.endCoreReset
  extract_lets s1
  have h0 : Keeps z (s.onNvs rereadSlots) := h.onNvs _ fun _ hn => hn
  exact ((h0.unitsReset _).onFau _ fun u hu => afterCore_balanced u _ hu).fauStarts

theorem fau_initial_balanced : Fau.initial.Balanced := by unfold Fau.Balanced; decide

@[simp] theorem Keeps.loseSupply (h : Keeps z s) : Keeps z (loseSupply s) :=
  h.interruptStore.to rfl rfl rfl le_rfl (fun hs =>
    ⟨initial_oneHolder, initial_withinDepth, initial_withinDepth, initial_withinDepth, link_initial, hs.nvs,
      no_alarms _⟩) (fun _ => fau_initial_balanced)

@[simp] theorem Keeps.accountGap (h : Keeps z s) : Keeps z (accountGap s) := by
  unfold Machine.accountGap
  repeat' with_reducible first
    | assumption | apply Keeps.raiseAlarm | split | intro _

@[simp] theorem Keeps.endScan (h : Keeps z s) (hz : z.power = .scan) : Keeps z (endScan s) := by
  unfold Machine.endScan
  extract_lets s0 s1 recovered s2
  have h0 : Keeps z s0 := h.onNvs _ fun _ hn => hn
  have h2 : Keeps z s2 :=
    ⟨(h0.unitsReset _).reaches.trans (Reaches.onFau s1 _), fun hp _ => absurd hz hp⟩
  exact h2.fauStarts.accountGap

end Sys2Proof.Machine
end

