-- ==== Sys2Proof/Laws/KeepsPorts.lean ====
section
/-! SUPPORT. What the effects of the segment ports keep. -/

namespace Sys2Proof.Machine

variable {z s : State}

@[simp] theorem Keeps.overrun (h : Keeps z s) (seg : Segment) (q : Fin 4) : Keeps z (overrun seg q s) := by
  unfold Machine.overrun
  dsimp only
  repeat' with_reducible first
    | assumption | apply Keeps.raiseAlarm | apply Keeps.onPort | split | intro _
  all_goals simp_all

@[simp] theorem Keeps.placeFrame (h : Keeps z s) (seg : Segment) (f : Frame) : Keeps z (placeFrame seg f s) := by
  unfold Machine.placeFrame
  dsimp only
  split
  · rename_i hq
    exact h.onPort' seg _ fun hc => PortFits.rx hc _ _ (by rw [List.length_append]; exact hq)
  · exact h.overrun _ _

@[simp] theorem Keeps.followFrame (h : Keeps z s) (seg : Segment) (header : BitVec 16) (length : BitVec 4) (payload : List Byte) (crc : BitVec 16) (delimiter : Bool) :
    Keeps z (followFrame seg header length payload crc delimiter s) := by
  unfold Machine.followFrame
  dsimp only
  repeat' with_reducible first
    | assumption | apply Keeps.placeFrame | apply Keeps.arbiterTake | apply Keeps.onPort | split | intro _
  all_goals simp_all

@[simp] theorem Keeps.frameLost (h : Keeps z s) (failed : Bool) (o : Origin) : Keeps z (frameLost failed o s) := by
  unfold Machine.frameLost
  repeat' with_reducible first
    | assumption | apply Keeps.startCoreReset | apply Keeps.setpointFailed | apply Keeps.releaseFrameFailed
    | apply Keeps.pollFailed | split | intro _

@[simp] theorem Keeps.openWindow (h : Keeps z s) (seg : Segment) (f : Frame) : Keeps z (openWindow seg f s) := by
  unfold Machine.openWindow
  repeat' with_reducible first
    | assumption | apply Keeps.onPort | split | intro _
  all_goals simp_all

@[simp] theorem Keeps.frameAcked (h : Keeps z s) (seg : Segment) (e : TxEntry) : Keeps z (frameAcked seg e s) := by
  unfold Machine.frameAcked
  repeat' with_reducible first
    | assumption | apply Keeps.openWindow | apply Keeps.startCoreReset | apply Keeps.pollSent | split | intro _

@[simp] theorem Keeps.endSending (h : Keeps z s) (seg : Segment) (f : PortCtl → PortCtl)
    (k : TxEntry → State → State) (hf : ∀ c, c.WithinDepth → (f c).WithinDepth)
    (hk : ∀ a s, Keeps z s → Keeps z (k a s)) : Keeps z (endSending seg f k s) := by
  unfold Machine.endSending
  split
  · exact h
  · rename_i q _
    have h1 : Keeps z (s.onPort seg fun c => f { c with sending := none, tx := updAt c.tx q (·.drop 1) }) := by
      refine h.onPort _ _ fun c hc => hf _ (PortFits.tx hc _ _ ?_)
      rw [List.length_drop]
      exact (Nat.sub_le _ _).trans (hc q).2
    dsimp only
    split
    · exact h1
    · exact hk _ _ h1

@[simp] theorem Keeps.failSending (h : Keeps z s) (seg : Segment) (f : PortCtl → PortCtl)
    (hf : ∀ c, c.WithinDepth → (f c).WithinDepth) : Keeps z (failSending seg f s) := by
  unfold Machine.failSending
  exact h.endSending _ _ _ hf fun _ _ h => h.frameLost _ _

@[simp] theorem Keeps.flushPort (h : Keeps z s) (seg : Segment) : Keeps z (flushPort seg s).2 := by
  unfold Machine.flushPort
  dsimp only
  refine h.onPort _ _ fun c hc q => ⟨(hc q).1, ?_⟩
  simp

@[simp] theorem Keeps.reportFlushed (h : Keeps z s) (l : List TxEntry) : Keeps z (reportFlushed l s) := by
  unfold Machine.reportFlushed
  repeat' with_reducible first
    | assumption | apply Keeps.frameLost | apply Keeps.whenRunning | apply Keeps.foldl | split | intro _

@[simp] theorem Keeps.closeWindow (h : Keeps z s) (seg : Segment) : Keeps z (closeWindow seg s) := by
  unfold Machine.closeWindow
  repeat' with_reducible first
    | assumption | apply Keeps.pollMissed | apply Keeps.onPort | split | intro _
  all_goals simp_all

@[simp] theorem Keeps.isolatePort (h : Keeps z s) (seg : Segment) : Keeps z (isolatePort seg s) := by
  unfold Machine.isolatePort
  dsimp only
  repeat' with_reducible first
    | assumption | apply Keeps.closeWindow | apply Keeps.reportFlushed | apply Keeps.flushPort
    | apply Keeps.segmentKIsolated | apply Keeps.raiseAlarm | apply Keeps.whenRunning | apply Keeps.onPort
    | split | intro _ | refine Keeps.ofPair (by assumption) ?_
  all_goals simp_all

end Sys2Proof.Machine
end

