-- ==== Sys2Proof/Laws/KeepsReads.lean ====
section
/-! SUPPORT. What the management unit's read requests keep. -/

namespace Sys2Proof.Machine

variable {z s : State}

@[simp] theorem Keeps.clearBlock (h : Keeps z s) (block : Nat) : Keeps z (clearBlock s block) := by
  unfold Machine.clearBlock
  split
  · exact h.onPort _ _ fun _ hc => hc
  · exact h.onPort _ _ fun _ hc => hc
  · exact h.onPort _ _ fun _ hc => hc
  · exact h.onHlc _ fun _ hc => LinkFits.map hc _ fun _ => by simp
  all_goals simp +contextual [h]

@[simp] theorem Keeps.whenServing (h : Keeps z s) (k : State → State) (hk : ∀ s, Keeps z s → Keeps z (k s)) :
    Keeps z (whenServing s k) := by
  unfold Machine.whenServing
  repeat' with_reducible first
    | assumption | apply Keeps.whenRunning | apply hk | split | intro _

@[simp] theorem Keeps.serveIdentify (h : Keeps z s) (node : Node) : Keeps z (serveIdentify node s) := by
  simp +contextual [Machine.serveIdentify, h]

@[simp] theorem Keeps.serveRecord (h : Keeps z s) (node : Node) (type index : Byte) : Keeps z (serveRecord node type index s) := by
  simp +contextual [Machine.serveRecord, h]

@[simp] theorem Keeps.serveStatus (h : Keeps z s) (node : Node) (area : Byte) : Keeps z (serveStatus node area s) := by
  simp +contextual [Machine.serveStatus, h]

@[simp] theorem Keeps.serveCounters (h : Keeps z s) (node : Node) (block : Byte) : Keeps z (serveCounters node block s) := by
  simp +contextual [Machine.serveCounters, h]

@[simp] theorem Keeps.serveClear (h : Keeps z s) (node : Node) (block : Byte) : Keeps z (serveClear node block s) := by
  unfold Machine.serveClear
  repeat' with_reducible first
    | assumption | apply Keeps.clearBlock | apply Keeps.respond | apply Keeps.foldl | split | intro _

end Sys2Proof.Machine
end

