-- ==== Sys2Proof/Laws/KeepsManage.lean ====
section
/-! SUPPORT. What the management requests keep. -/

namespace Sys2Proof.Machine

variable {z s : State}

@[simp] theorem Keeps.takeSlot (h : Keeps z s) (node : Node) (op : LongOp) : Keeps z (takeSlot node op s) := by
  simp +contextual [Machine.takeSlot, h]

@[simp] theorem Keeps.longRequest (h : Keeps z s) (node : Node) (kind : Nat) (k : State → State) (hk : ∀ s, Keeps z s → Keeps z (k s)) :
    Keeps z (longRequest node kind s k) := by
  unfold Machine.longRequest
  repeat' with_reducible first
    | assumption | apply Keeps.respond | apply hk | split | intro _

@[simp] theorem Keeps.withBank (h : Keeps z s) (node : Node) (kind : Nat) (x : Option BankId) {k : BankId → State}
    (hk : ∀ b, Keeps z (k b)) : Keeps z (withBank node kind x s k) := by
  unfold Machine.withBank
  split
  · exact h.respond _ _ _ _
  · exact hk _

@[simp] theorem Keeps.abortLoad (h : Keeps z s) : Keeps z (abortLoad s) := by
  simp +contextual [Machine.abortLoad, h.spoilLoad]

@[simp] theorem Keeps.stopIdle (h : Keeps z s) : Keeps z (stopIdle s) := by
  simp +contextual [Machine.stopIdle, h]

@[simp] theorem Keeps.serveErase (h : Keeps z s) (node : Node) (kind bank : Byte) : Keeps z (serveErase node kind bank s) := by
  unfold Machine.serveErase
  repeat' with_reducible first
    | assumption | apply Keeps.withBank | apply Keeps.longRequest | apply Keeps.takeSlot | apply Keeps.handOp
    | apply Keeps.respond | split | intro _

@[simp] theorem Keeps.serveBlank (h : Keeps z s) (node : Node) (kind bank : Byte) : Keeps z (serveBlank node kind bank s) := by
  unfold Machine.serveBlank
  repeat' with_reducible first
    | assumption | apply Keeps.withBank | apply Keeps.longRequest | apply Keeps.takeSlot | apply Keeps.handOp
    | apply Keeps.respond | split | intro _

@[simp] theorem Keeps.serveLoadBegin (h : Keeps z s) (node : Node) (kind bank : Byte) (count : Nat) :
    Keeps z (serveLoadBegin node kind bank count s) := by
  unfold Machine.serveLoadBegin
  repeat' with_reducible first
    | assumption | apply Keeps.withBank | apply Keeps.longRequest | apply Keeps.takeSlot | apply Keeps.handOp
    | apply Keeps.respond | split | intro _

@[simp] theorem Keeps.ofContext (h : Keeps z s) (node : Node) (kind : Nat) {k : LoadCtx → State}
    (hk : ∀ c, Keeps z (k c)) : Keeps z (ofContext node kind s k) := by
  unfold Machine.ofContext
  split
  · exact h.respond _ _ _ _
  · split
    · exact hk _
    · exact h.respond _ _ _ _

@[simp] theorem Keeps.serveLoadData (h : Keeps z s) (node : Node) (seq : Nat) (bytes : List Byte) :
    Keeps z (serveLoadData node seq bytes s) := by
  unfold Machine.serveLoadData
  dsimp only
  repeat' with_reducible first
    | assumption | apply Keeps.ofContext | apply Keeps.stopIdle | apply Keeps.abortLoad
    | apply Keeps.longRequest | apply Keeps.takeSlot | apply Keeps.handOp | apply Keeps.respond | split
    | intro _

@[simp] theorem Keeps.serveLoadEnd (h : Keeps z s) (node : Node) (crc : BitVec 32) : Keeps z (serveLoadEnd node crc s) := by
  unfold Machine.serveLoadEnd
  repeat' with_reducible first
    | assumption | apply Keeps.ofContext | apply Keeps.stopIdle | apply Keeps.abortLoad
    | apply Keeps.longRequest | apply Keeps.takeSlot | apply Keeps.handOp | apply Keeps.respond | split
    | intro _

@[simp] theorem Keeps.serveCommit (h : Keeps z s) (node : Node) (kind : Byte) : Keeps z (serveCommit node kind s) := by
  unfold Machine.serveCommit
  dsimp only
  repeat' with_reducible first
    | assumption | apply Keeps.longRequest | apply Keeps.takeSlot | apply Keeps.handOp | apply Keeps.respond
    | split | intro _

@[simp] theorem Keeps.serveLock (h : Keeps z s) (node : Node) (kind bank : Byte) : Keeps z (serveLock node kind bank s) := by
  unfold Machine.serveLock
  repeat' with_reducible first
    | assumption | apply Keeps.withBank | apply Keeps.longRequest | apply Keeps.takeSlot | apply Keeps.handOp
    | apply Keeps.respond | split | intro _

@[simp] theorem Keeps.serveUnlock (h : Keeps z s) (node : Node) (kind bank : Byte) : Keeps z (serveUnlock node kind bank s) := by
  unfold Machine.serveUnlock
  repeat' with_reducible first
    | assumption | apply Keeps.withBank | apply Keeps.longRequest | apply Keeps.takeSlot | apply Keeps.handOp
    | apply Keeps.respond | split | intro _

@[simp] theorem Keeps.serveClose (h : Keeps z s) (node : Node) : Keeps z (serveClose node s) := by
  unfold Machine.serveClose
  repeat' with_reducible first
    | assumption | apply Keeps.longRequest | apply Keeps.takeSlot | apply Keeps.closeVoyage
    | apply Keeps.respond | split | intro _

@[simp] theorem Keeps.serveSounding (h : Keeps z s) (node : Node) (part v : Nat) : Keeps z (serveSounding node part v s) := by
  unfold Machine.serveSounding
  dsimp only
  repeat' with_reducible first
    | assumption | apply Keeps.openVoyage | apply Keeps.respond | apply Keeps.onMgu | split | intro _
  all_goals simp_all

@[simp] theorem Keeps.serveOpen (h : Keeps z s) (node : Node) (part v : Nat) : Keeps z (serveOpen node part v s) := by
  unfold Machine.serveOpen
  repeat' with_reducible first
    | assumption | apply Keeps.serveSounding | apply Keeps.respond | apply Keeps.onMgu | split | intro _
  all_goals simp_all

@[simp] theorem Keeps.serveBunker (h : Keeps z s) (node : Node) (tank : Byte) (v : Nat) : Keeps z (serveBunker node tank v s) := by
  unfold Machine.serveBunker
  repeat' with_reducible first
    | assumption | apply Keeps.takeBunker | apply Keeps.respond | split | intro _

@[simp] theorem Keeps.serveLineup (h : Keeps z s) (node : Node) (engine tank : Byte) : Keeps z (serveLineup node engine tank s) := by
  unfold Machine.serveLineup
  repeat' with_reducible first
    | assumption | apply Keeps.setLineup | apply Keeps.respond | split | intro _

@[simp] theorem Keeps.serveConfirm (h : Keeps z s) (node : Node) : Keeps z (serveConfirm node s) := by
  unfold Machine.serveConfirm
  repeat' with_reducible first
    | assumption | apply Keeps.confirmMakeup | apply Keeps.respond | split | intro _

@[simp] theorem Keeps.endMguOp (h : Keeps z s) : Keeps z (endMguOp s) := by
  unfold Machine.endMguOp
  extract_lets s1 s2
  have h1 : Keeps z s1 := by
    unfold s1
    split
    · exact h
    · exact (h.tearErase _).onNvs _ fun _ hn => hn
  have h2 : Keeps z s2 := h1.onNvs _ fun _ hn => hn
  cases s2.nvs.current with
  | none => exact h2
  | some r => exact Keeps.ite h2 (h2.interruptOp r.op).opEnded.giveStore

@[simp] theorem Keeps.endLong (h : Keeps z s) : Keeps z (endLong s) := by
  unfold Machine.endLong
  repeat' with_reducible first
    | assumption | apply Keeps.endMguOp | apply Keeps.onMgu | split | intro _
  all_goals simp_all

@[simp] theorem Keeps.serveReset (h : Keeps z s) (node : Node) : Keeps z (serveReset node s) := by
  unfold Machine.serveReset
  dsimp only
  repeat' with_reducible first
    | assumption | apply Keeps.startCoreReset | apply Keeps.handResponse | apply Keeps.onMgu | apply Keeps.endLong
    | apply Keeps.foldl | split | intro _ | refine Keeps.ofPair (by assumption) ?_
  all_goals simp_all

@[simp] theorem Keeps.clearOverrunFlags (h : Keeps z s) : Keeps z (clearOverrunFlags s) := by
  unfold Machine.clearOverrunFlags
  repeat' with_reducible first
    | assumption | apply Keeps.onPort | apply Keeps.foldl | split | intro _
  all_goals simp_all

@[simp] theorem Keeps.keepRaisedSticky (h : Keeps z s) : Keeps z (keepRaisedSticky s) := by
  unfold Machine.keepRaisedSticky
  refine h.onMgu _ fun m hm => ⟨hm.1, fun y hy => ?_⟩
  simp only [Fin.getElem_fin, Vector.getElem_ofFn, Bool.and_eq_true, List.any_eq_true, beq_iff_eq]
  exact ⟨hm.2 y hy, y, hy, rfl⟩

@[simp] theorem Keeps.serveSticky (h : Keeps z s) (node : Node) : Keeps z (serveSticky node s) := by
  unfold Machine.serveSticky
  repeat' with_reducible first
    | assumption | apply Keeps.keepRaisedSticky | apply Keeps.clearOverrunFlags | apply Keeps.respond
    | apply Keeps.clearAllOf | split | intro _

@[simp] theorem Keeps.serveMalformed (h : Keeps z s) (f : Frame) : Keeps z (serveMalformed f s) := by
  simp +contextual [Machine.serveMalformed, h]

@[simp] theorem Keeps.openFrame (h : Keeps z s) (f : Frame) (part : Byte) (rest : List Byte) : Keeps z (openFrame f part rest s) := by
  simp +contextual [Machine.openFrame, h]

@[simp] theorem Keeps.readRequest (h : Keeps z s) (f : Frame) : Keeps z (readRequest f s) := by
  unfold Machine.readRequest
  repeat' with_reducible first
    | assumption | apply Keeps.serveMalformed | apply Keeps.serveSticky | apply Keeps.serveClear
    | apply Keeps.serveCounters | apply Keeps.serveStatus | apply Keeps.serveRecord | apply Keeps.serveIdentify
    | split | intro _

@[simp] theorem Keeps.bankRequest (h : Keeps z s) (f : Frame) : Keeps z (bankRequest f s) := by
  unfold Machine.bankRequest
  repeat' with_reducible first
    | assumption | apply Keeps.serveMalformed | apply Keeps.serveLoadData | apply Keeps.serveLoadBegin
    | apply Keeps.serveBlank | apply Keeps.serveErase | split | intro _

@[simp] theorem Keeps.commitRequest (h : Keeps z s) (f : Frame) : Keeps z (commitRequest f s) := by
  unfold Machine.commitRequest
  repeat' with_reducible first
    | assumption | apply Keeps.serveMalformed | apply Keeps.serveUnlock | apply Keeps.serveLock
    | apply Keeps.serveCommit | apply Keeps.serveLoadEnd | split | intro _

@[simp] theorem Keeps.voyageRequest (h : Keeps z s) (f : Frame) : Keeps z (voyageRequest f s) := by
  unfold Machine.voyageRequest
  repeat' with_reducible first
    | assumption | apply Keeps.openFrame | apply Keeps.serveMalformed | apply Keeps.serveBunker
    | apply Keeps.serveClose | split | intro _

@[simp] theorem Keeps.partRequest (h : Keeps z s) (f : Frame) : Keeps z (partRequest f s) := by
  unfold Machine.partRequest
  repeat' with_reducible first
    | assumption | apply Keeps.serveMalformed | apply Keeps.serveReset | apply Keeps.serveConfirm
    | apply Keeps.serveLineup | split | intro _
  all_goals simp_all

@[simp] theorem Keeps.classEight (h : Keeps z s) (f : Frame) : Keeps z (classEight f s) := by
  unfold Machine.classEight
  repeat' with_reducible first
    | assumption | apply Keeps.partRequest | apply Keeps.voyageRequest | apply Keeps.commitRequest
    | apply Keeps.bankRequest | apply Keeps.readRequest | split | intro _

end Sys2Proof.Machine
end

