-- ==== Sys2Proof/Laws/KeepsStoreEnd.lean ====
section
/-! SUPPORT. What the ends of store operations keep. -/

namespace Sys2Proof.Machine

variable {z s : State}

/-- A bank changed by bytes that stand in canonical form whenever the store does. -/
theorem Keeps.onBankCells (h : Keeps z s) (b : BankId) (f : Bank → Bank)
    (hf : s.nvs.Canonical → ∀ y, (f y).cells.wf = true) : Keeps z (Machine.onBank b f s) := by
  refine h.to rfl rfl rfl le_rfl
    (fun hs => ⟨hs.csu, hs.pcw, hs.pcp, hs.pck, hs.hlc, ⟨fun j => ?_, hs.nvs.2⟩, hs.mgu⟩) id
  show (Machine.updAt s.nvs.banks (bankIx b) f)[j].cells.wf = true
  by_cases e : bankIx b = j
  · subst e; rw [Fin.getElem_fin, updAt_same]; exact hf hs.nvs _
  · rw [Fin.getElem_fin, updAt_other _ e]; exact hs.nvs.1 j

theorem programmed_wf {n : Nvs} (h : n.Canonical) (b : Fin 10) (a : Nat) (l : List Byte) :
    (programmed n.banks[b].cells a l).1.wf = true := memProgramAll_wf (h.1 b) a l

@[simp] theorem Keeps.endOp (h : Keeps z s) : Keeps z (endOp s) := h.opEnded.giveStore

@[simp] theorem Keeps.dropStandby (h : Keeps z s) (b : BankId) : Keeps z (dropStandby b s) := by
  simp +contextual [Machine.dropStandby, h]

@[simp] theorem Keeps.eraseEnds (h : Keeps z s) (b : BankId) (ok : Bool) : Keeps z (eraseEnds b ok s) := by
  unfold Machine.eraseEnds
  dsimp only
  repeat' with_reducible first
    | assumption | apply Keeps.dropStandby | apply Keeps.endOp | apply Keeps.onBank | apply Keeps.finishLong
    | apply Keeps.tearErase
    | split | intro _
  all_goals simp_all

@[simp] theorem Keeps.openLoad (h : Keeps z s) (node : Node) (b : BankId) (count : Nat) : Keeps z (openLoad node b count s) := by
  simp +contextual [Machine.openLoad, h]

@[simp] theorem Keeps.blankEnds (h : Keeps z s) (b : BankId) : Keeps z (blankEnds b s) := by
  unfold Machine.blankEnds
  dsimp only
  repeat' with_reducible first
    | assumption | apply Keeps.openLoad | apply Keeps.endOp | apply Keeps.finishLong | split | intro _

@[simp] theorem Keeps.advanceLoad (h : Keeps z s) (bytes : List Byte) : Keeps z (advanceLoad bytes s) := by
  simp +contextual [Machine.advanceLoad, h]

@[simp] theorem Keeps.loadEnds (h : Keeps z s) (b : BankId) (offset : Nat) (bytes : List Byte) (ok : Bool) :
    Keeps z (loadEnds b offset bytes ok s) := by
  unfold Machine.loadEnds
  extract_lets x
  split
  · refine Keeps.finishLong (Keeps.advanceLoad (Keeps.endOp (h.onBankCells _ _ fun hn _ => ?_)) _) _ _
    exact programmed_wf hn _ _ _
  · refine Keeps.finishLong (Keeps.abortLoad (Keeps.endOp
      (Keeps.ite (h.onBankCells _ _ fun hn _ => ?_) (h.tearProgram _ _ _)))) _ _
    exact programmed_wf hn _ _ _

@[simp] theorem Keeps.closeLoad (h : Keeps z s) (b : BankId) : Keeps z (closeLoad b s) := by
  simp +contextual [Machine.closeLoad, h]

@[simp] theorem Keeps.headerEnds (h : Keeps z s) (b : BankId) (len : Nat) (crc : BitVec 32) (ok : Bool) :
    Keeps z (headerEnds b len crc ok s) := by
  unfold Machine.headerEnds
  extract_lets bytes x s1
  split
  · refine Keeps.finishLong (Keeps.closeLoad (Keeps.endOp (h.onBankCells _ _ fun hn _ => ?_)) _) _ _
    exact programmed_wf hn _ _ _
  · have h1 : Keeps z s1 := by
      refine Keeps.ite (h.onBankCells _ _ fun hn _ => ?_) (h.tearProgram _ _ _)
      exact programmed_wf hn (bankIx b) 0 bytes
    exact h1.endOp.abortLoad.finishLong _ _

@[simp] theorem Keeps.checkEnds (h : Keeps z s) (b : BankId) : Keeps z (checkEnds b s) := by
  unfold Machine.checkEnds
  dsimp only
  repeat' with_reducible first
    | assumption | apply Keeps.endOp | apply Keeps.handOp | apply Keeps.finishLong | split | intro _

@[simp] theorem Keeps.markSwap (h : Keeps z s) (k : Kind) : Keeps z (markSwap k s) := by
  unfold Machine.markSwap
  repeat' with_reducible first
    | assumption | apply Keeps.markWindow | apply Keeps.fuelSwap | apply Keeps.answerCommit | apply Keeps.onTau
    | apply Keeps.onCmu | split | intro _

@[simp] theorem Keeps.markEnds (h : Keeps z s) (b : BankId) (number : Nat) (ok : Bool) : Keeps z (markEnds b number ok s) := by
  unfold Machine.markEnds
  extract_lets x s1 s2
  split
  · have h1 : Keeps z s1 := by
      refine h.onBankCells _ _ fun hn _ => ?_
      exact programmed_wf hn _ _ _
    have h2 : Keeps z s2 := h1.onNvs _ fun _ hn => hn
    exact h2.endOp.markSwap _
  · refine Keeps.finishLong (Keeps.endOp
      (Keeps.ite (h.onBankCells _ _ fun hn _ => ?_) (h.tearMark _ _))) _ _
    exact programmed_wf hn _ _ _

end Sys2Proof.Machine
end

