-- ==== Sys2Proof/Laws/KeepsDelivery.lean ====
section
/-! SUPPORT. What the outcome of a switching keeps. -/

namespace Sys2Proof.Machine

variable {z s : State}

@[simp] theorem Keeps.giveUnit (h : Keeps z s) (f : Frame) : Keeps z (giveUnit f s) := by
  unfold Machine.giveUnit
  repeat' with_reducible first
    | assumption | apply Keeps.classEight | apply Keeps.classTwo | apply Keeps.classThree
    | apply Keeps.classSeven | apply Keeps.classOne | apply Keeps.classZero | apply Keeps.classFive
    | apply Keeps.classFour | apply Keeps.classSix | split | intro _

@[simp] theorem Keeps.countOutcome (h : Keeps z s) (x : InSwitch) (d : Decision) : Keeps z (countOutcome x d s) := by
  simp +contextual [Machine.countOutcome, h]

@[simp] theorem Keeps.forwardTo (h : Keeps z s) (f : Frame) (x : PortName) : Keeps z (forwardTo f s x) := by
  unfold Machine.forwardTo
  repeat' with_reducible first
    | assumption | apply Keeps.handLink | apply Keeps.handPort | apply Keeps.onFsw | split | intro _
    | refine Keeps.ofPair (by assumption) ?_

@[simp] theorem Keeps.applyOutcome (h : Keeps z s) (x : InSwitch) : Keeps z (applyOutcome x s) := by
  unfold Machine.applyOutcome
  dsimp only
  repeat' with_reducible first
    | assumption | apply Keeps.forwardTo | apply Keeps.countOutcome | apply Keeps.giveUnit
    | apply Keeps.whenRunning | apply Keeps.foldl | split | intro _

end Sys2Proof.Machine
end

