-- ==== Sys2Proof/Laws/Link.lean ====
section
/-! SUPPORT. What the helper link's training operations can do: entering RETRAINING, marking a lane bad, forming the chosen set, and
putting a TS on the lanes (R172, R174, R176). -/

namespace Sys2Proof.Machine

variable {s : State}

theorem startTraining_state (x : LinkState) : (startTraining x s).hlc.state = x := rfl

theorem startTraining_progress (x : LinkState) : (startTraining x s).hlc.progress = Training.initial := rfl

/-- A mark starts a retraining that has made no progress, and that is spent where the link's width is 1 (R174). -/
theorem markBad_progress (l : Lane) :
    (markBad l s).hlc.state = .retraining ∧
      (markBad l s).hlc.progress =
        { Training.initial with spent := s.hlc.inUse.elim false fun x => laneSetWidth x == 1 } := ⟨rfl, rfl⟩

/-- A side whose own good set is empty forms no chosen set: either no partner's report has come, or the link goes DOWN (R172). -/
theorem formChosen_of_good_empty (h : s.hlc.progress.good = some ⟨false, false⟩) :
    formChosen s = if s.hlc.progress.partnerGood = none then s else enterDown s := by
  unfold formChosen
  cases k : s.hlc.progress.partnerGood <;> simp [h, k, laneSetInter, laneSetEmpty]

/-- A side that has no chosen set does not enter UP (R172). -/
theorem upIfAgreed_of_chosen_none (h : s.hlc.progress.chosen = none) : upIfAgreed s = s := by
  simp [upIfAgreed, h]

theorem beginTs_lane0_out (ts : Ts) : (beginTs ts s).hlc.lane0.out = if s.hlc.lane0.bad then .silent else .frame (.ts ts) := rfl

theorem beginTs_lane1_out (ts : Ts) : (beginTs ts s).hlc.lane1.out = if s.hlc.lane1.bad then .silent else .frame (.ts ts) := rfl

/-- A TS that begins on the lanes changes their outputs alone (R172). -/
theorem beginTs_eq (ts : Ts) :
    beginTs ts s =
      { s with hlc := { s.hlc with lane0 := { s.hlc.lane0 with out := (beginTs ts s).hlc.lane0.out },
                                   lane1 := { s.hlc.lane1 with out := (beginTs ts s).hlc.lane1.out } } } := rfl

end Sys2Proof.Machine
end

