-- ==== Sys2Proof/Laws/Load.lean ====
section
/-! SUPPORT. What the abort of a load context does: the bank of the context is marked, its bytes and every other bank stay, and the
context is gone (R193). -/

namespace Sys2Proof.Machine

variable {s : State}

theorem spoilLoad_none (h : s.mgu.load = none) : spoilLoad s = s := by simp [spoilLoad, h]

/-- All that the mark does: the banks, and of them one bit of the context's. -/
theorem spoilLoad_some {c : LoadCtx} (h : s.mgu.load = some c) :
    spoilLoad s =
      { s with nvs := { s.nvs with banks := updAt s.nvs.banks (bankIx c.bank) ({ · with torn := true }) } } := by
  simp [spoilLoad, h, onBank, State.onNvs]

/-- The bank of an open context, after its abort: its bytes and its mark word as before, and not blank. -/
theorem abortLoad_bank {c : LoadCtx} (h : s.mgu.load = some c) :
    bankAt (abortLoad s) c.bank = { bankAt s c.bank with torn := true } := by
  simp only [abortLoad, spoilLoad_some h, bankAt, State.onMgu]
  rw [Fin.getElem_fin, updAt_same]
  rfl

theorem abortLoad_notBlank {c : LoadCtx} (h : s.mgu.load = some c) :
    bankBlank (bankAt (abortLoad s) c.bank) = false := by
  simp [abortLoad_bank h, bankBlank]

/-- Every other bank stays as it was. -/
theorem abortLoad_other {c : LoadCtx} {b : BankId} (h : s.mgu.load = some c) (hb : bankIx c.bank ≠ bankIx b) :
    bankAt (abortLoad s) b = bankAt s b := by
  simp only [abortLoad, spoilLoad_some h, bankAt, State.onMgu]
  rw [Fin.getElem_fin, updAt_other _ hb]
  rfl

@[simp] theorem abortLoad_load : (abortLoad s).mgu.load = none := rfl
@[simp] theorem abortLoad_loadIdle : (abortLoad s).mgu.loadIdle = none := rfl

end Sys2Proof.Machine
end

