-- ==== Sys2Proof/Laws/Rounds.lean ====
section
/-! SUPPORT. How a poll round goes on: what a missed poll leaves, what taking up a list does, and `endPoll_follows`, which says for
every state what the end of a poll does to the round (R73, R75). -/

namespace Sys2Proof.Machine

theorem isPolled_iff (x : CouplingState) : isPolled x = true ↔ x ≠ .releasing ∧ x ≠ .released := by cases x <;> decide

/-- The coupling at a place, when there is one, is passed over by a round. -/
def Gone (s : State) (k : Nat) : Prop := ∀ x, s.cmu.couplings[k]? = some x → x.state = .releasing ∨ x.state = .released

theorem not_polled {x : Coupling} (h : x.state = .releasing ∨ x.state = .released) : isPolled x.state = false := by
  rcases h with h | h <;> rw [h] <;> rfl

theorem runList_skip {p : List Nat} {s : State} (h : ∀ k ∈ p, Gone s k) (l : List Nat) : runList (p ++ l) s = runList l s := by
  induction p with
  | nil => rfl
  | cons k p ih =>
    have ih := ih (fun k hk => h k (List.mem_cons_of_mem _ hk))
    have hk := h k List.mem_cons_self
    simp only [List.cons_append]
    rw [runList]
    split
    · exact ih
    · rename_i c hc
      rw [not_polled (hk c hc)]
      exact ih

theorem runList_none {l : List Nat} {s : State} (h : ∀ k ∈ l, Gone s k) : runList l s = publishHeadroom s := by
  have := runList_skip h []
  rw [List.append_nil] at this
  rw [this]; rfl

/-- The first coupling of a list that is polled gets its POLL where K has room. -/
theorem runList_hands {s : State} {j : Nat} {rest : List Nat} {c : Coupling} (hc : s.cmu.couplings[j]? = some c)
    (h1 : c.state ≠ .releasing) (h2 : c.state ≠ .released) (hk : s.pck.state = .run)
    (hr : s.pck.tx[classQueue s .k 4].length < 16) :
    runList (j :: rest) s = { s with
      pck := { s.pck with tx := updAt s.pck.tx (classQueue s .k 4) (· ++
        [{ frame := { cls := 4, node := BitVec.ofNat 6 c.entry.node, kind := 1, payload := [] }, origin := .cmuPoll s.cmu.serial }]) },
      cmu := { s.cmu with serial := s.cmu.serial + 1, round := some { poll := ⟨j, c.entry.node, s.cmu.serial⟩, rest := rest } } } := by
  have hp : isPolled c.state = true := (isPolled_iff _).mpr ⟨h1, h2⟩
  have hh : handPort .k (pollFrame c.entry.node) (.cmuPoll s.cmu.serial) (s.onCmu ({ · with serial := s.cmu.serial + 1 })) =
      (({ s with
        pck := { s.pck with tx := updAt s.pck.tx (classQueue s .k 4) (· ++
          [{ frame := pollFrame c.entry.node, origin := .cmuPoll s.cmu.serial }]) },
        cmu := { s.cmu with serial := s.cmu.serial + 1 } } : State), true) := by
    have hr' : ((s.onCmu ({ · with serial := s.cmu.serial + 1 })).port .k).tx[
      classQueue (s.onCmu ({ · with serial := s.cmu.serial + 1 })) (segPort .k) (pollFrame c.entry.node).cls].length < Config.segmentDepth := hr
    have hs : ((s.onCmu ({ · with serial := s.cmu.serial + 1 })).port .k).state = .run := hk
    unfold handPort
    dsimp only
    split
    · rename_i hi; rw [hs] at hi; cases hi
    · rw [if_pos hr']; rfl
  rw [runList]
  simp only [hc, hp, if_true]
  rw [if_pos hk, hh]
  rfl

theorem settle_some {s : State} {r : Round} (h : s.cmu.round = some r) : settleRound s = s := by
  unfold settleRound; rw [h]

theorem settle_unmarked {s : State} (h : s.cmu.startMarked = false) : settleRound s = s := by
  unfold settleRound; cases s.cmu.round <;> simp [h]


/-- A POLL handed to K enters its queue. -/
def Room (s : State) : Prop := s.pck.state = .run ∧ s.pck.tx[classQueue s .k 4].length < 16

/-- K, the switch, the answer timer and the mark are as they were. -/
structure RoundKept (s t : State) : Prop where
  pck : t.pck = s.pck
  fsw : t.fsw = s.fsw
  answer : t.cmu.answer = s.cmu.answer
  marked : t.cmu.startMarked = s.cmu.startMarked

theorem RoundKept.trans {s t u : State} (h : RoundKept s t) (k : RoundKept t u) : RoundKept s u :=
  ⟨k.pck.trans h.pck, k.fsw.trans h.fsw, k.answer.trans h.answer, k.marked.trans h.marked⟩

theorem RoundKept.same {s t : State} (h : SameButStatus s t) : RoundKept s t := by
  unfold SameButStatus at h
  rw [h]
  exact ⟨rfl, rfl, rfl, rfl⟩

theorem stateAlarms_same (n : Nat) (old new : CouplingState) (s : State) : SameButStatus s (stateAlarms n old new s) := by
  have h1 : SameButStatus s (match stateAlarm old with | none => s | some a => clearAlarm a (.coupler n) s) := by
    split
    · exact .refl s
    · exact clearAlarm_same _ _ _
  have h2 : ∀ u, SameButStatus s u → SameButStatus s (match stateAlarm new with | none => u | some a => raiseAlarm a (.coupler n) u) := by
    intro u hu
    split
    · exact hu
    · exact hu.trans (raiseAlarm_same _ _ _)
  unfold stateAlarms
  dsimp only
  split
  · exact (h2 _ h1).trans (clearAlarm_same _ _ _)
  · exact h2 _ h1

theorem requestRecompute_round (s : State) : RoundKept s (requestRecompute s) := by
  unfold requestRecompute startRecompute
  split
  · exact ⟨rfl, rfl, rfl, rfl⟩
  · unfold State.onCmu
    constructor <;> dsimp only <;> split <;> rfl

theorem cancelArmOf_round (i : Nat) (new : CouplingState) (s : State) : RoundKept s (cancelArmOf i new s) := by
  unfold cancelArmOf
  split
  · split
    · rw [cancelArm_eq]
      unfold armEnded
      split
      · exact RoundKept.trans (t := { s with cmu := { s.cmu with release := .idle } }) ⟨rfl, rfl, rfl, rfl⟩
          (RoundKept.same (reportStatus_same _ _ _ _))
      · exact ⟨rfl, rfl, rfl, rfl⟩
      · exact ⟨rfl, rfl, rfl, rfl⟩
    · exact ⟨rfl, rfl, rfl, rfl⟩
  · exact ⟨rfl, rfl, rfl, rfl⟩
  · exact ⟨rfl, rfl, rfl, rfl⟩

theorem enterState_round (i : Nat) (new : CouplingState) (s : State) : RoundKept s (enterState i new s) := by
  unfold enterState
  split
  · exact ⟨rfl, rfl, rfl, rfl⟩
  · split
    · exact ⟨rfl, rfl, rfl, rfl⟩
    · refine RoundKept.trans ?_ (cancelArmOf_round _ _ _)
      have h : ∀ (a : State) (f : Cmu → Cmu) (hf : (f a.cmu).answer = a.cmu.answer ∧ (f a.cmu).startMarked = a.cmu.startMarked),
          RoundKept a (a.onCmu f) := fun a f hf => ⟨rfl, rfl, hf.1, hf.2⟩
      split
      · refine RoundKept.trans ?_ (requestRecompute_round _)
        refine RoundKept.trans ?_ (h _ _ ⟨rfl, rfl⟩)
        refine RoundKept.trans ?_ (RoundKept.same (stateAlarms_same _ _ _ _))
        exact ⟨rfl, rfl, rfl, rfl⟩
      · refine RoundKept.trans ?_ (h _ _ ⟨rfl, rfl⟩)
        refine RoundKept.trans ?_ (RoundKept.same (stateAlarms_same _ _ _ _))
        exact ⟨rfl, rfl, rfl, rfl⟩

theorem missedPoll_round (i : Nat) (s : State) : RoundKept s (missedPoll i s) := by
  have hm : ∀ (f : Coupling → Coupling) (a : State), RoundKept a (modCoupling i f a) := fun _ _ => ⟨rfl, rfl, rfl, rfl⟩
  unfold missedPoll
  split
  · exact ⟨rfl, rfl, rfl, rfl⟩
  · split
    · dsimp only
      split
      · exact hm _ _
      · exact (hm _ _).trans (enterState_round _ _ _)
    · split <;> first | exact hm _ _ | exact ⟨rfl, rfl, rfl, rfl⟩

theorem room_of {s t : State} (h1 : t.pck.state = s.pck.state) (h2 : ∀ q : Fin 4, t.pck.tx[q] = s.pck.tx[q]) (h3 : t.fsw = s.fsw)
    (h : ¬Room s) : ¬Room t := by
  intro k
  apply h
  have e : classQueue t .k 4 = classQueue s .k 4 := by unfold classQueue; rw [h3]
  refine ⟨h1 ▸ k.1, ?_⟩
  have k2 := k.2
  simp only [h2, e] at k2
  exact k2

/-- Without room in K every poll of a list is missed; the answer timer and the mark stay, and h is published at the end. -/
theorem runList_published (l : List Nat) (s : State) (h : ¬Room s) :
    (runList l s).cmu.headroom = headroomOf (runList l s).cmu ∧ (runList l s).cmu.answer = s.cmu.answer ∧
      (runList l s).cmu.startMarked = s.cmu.startMarked := by
  induction l generalizing s with
  | nil => exact ⟨rfl, rfl, rfl⟩
  | cons i l ih =>
    have miss : ∀ t : State, t.pck.state = s.pck.state → (∀ q : Fin 4, t.pck.tx[q] = s.pck.tx[q]) → t.fsw = s.fsw →
        t.cmu.answer = s.cmu.answer → t.cmu.startMarked = s.cmu.startMarked →
        (runList l (missedPoll i t)).cmu.headroom = headroomOf (runList l (missedPoll i t)).cmu ∧
          (runList l (missedPoll i t)).cmu.answer = s.cmu.answer ∧
          (runList l (missedPoll i t)).cmu.startMarked = s.cmu.startMarked := by
      intro t a1 a2 a3 a4 a5
      have m := missedPoll_round i t
      have := ih (missedPoll i t) (room_of (by rw [m.pck, a1]) (by intro q; rw [m.pck, a2]) (by rw [m.fsw, a3]) h)
      rw [m.answer, m.marked, a4, a5] at this
      exact this
    rw [runList]
    split
    · exact ih s h
    · rename_i c hc
      split
      · split
        · rename_i hk
          dsimp only
          have hr : ¬ s.pck.tx[classQueue s .k 4].length < 16 := fun x => h ⟨hk, x⟩
          have hh : handPort .k (pollFrame c.entry.node) (.cmuPoll s.cmu.serial) (s.onCmu ({ · with serial := s.cmu.serial + 1 })) =
              (({ s with
                pck := { s.pck with txDrop := updAt s.pck.txDrop (classQueue s .k 4) satInc },
                cmu := { s.cmu with serial := s.cmu.serial + 1 } } : State), false) := by
            have hr' : ¬ ((s.onCmu ({ · with serial := s.cmu.serial + 1 })).port .k).tx[
              classQueue (s.onCmu ({ · with serial := s.cmu.serial + 1 })) (segPort .k) (pollFrame c.entry.node).cls].length <
                Config.segmentDepth := hr
            have hs : ((s.onCmu ({ · with serial := s.cmu.serial + 1 })).port .k).state = .run := hk
            unfold handPort
            dsimp only
            split
            · rename_i hi; rw [hs] at hi; cases hi
            · rw [if_neg hr']; rfl
          rw [hh]
          exact miss _ rfl (fun _ => rfl) rfl rfl rfl
        · exact miss s rfl (fun _ => rfl) rfl rfl rfl
      · exact ih s h

/-- A list that is taken up leaves h published, the answer timer and the mark. -/
theorem runList_kept (l : List Nat) (s : State) (h : s.cmu.headroom = headroomOf s.cmu) :
    (runList l s).cmu.headroom = headroomOf (runList l s).cmu ∧ (runList l s).cmu.answer = s.cmu.answer ∧
      (runList l s).cmu.startMarked = s.cmu.startMarked := by
  by_cases hr : Room s
  · induction l with
    | nil => exact ⟨rfl, rfl, rfl⟩
    | cons i l ih =>
      by_cases hc : ∃ c, s.cmu.couplings[i]? = some c ∧ c.state ≠ .releasing ∧ c.state ≠ .released
      · obtain ⟨c, hc, h1, h2⟩ := hc
        rw [runList_hands hc h1 h2 hr.1 hr.2]
        exact ⟨h, rfl, rfl⟩
      · have : runList (i :: l) s = runList l s := by
          have := runList_skip (p := [i]) (s := s) (fun k hk x hx => by
            cases List.mem_singleton.mp hk
            by_contra hn
            push Not at hn
            exact hc ⟨x, hx, hn.1, hn.2⟩) l
          exact this
        rw [this]; exact ih
  · exact runList_published l s hr

/-- A poll list from its first coupling on: its places, rising, are those of the polled couplings behind it. -/
theorem pollList_split (c : Cmu) (i : Nat) (x : Coupling) (hx : c.couplings[i]? = some x) (h1 : x.state ≠ .releasing) (h2 : x.state ≠ .released)
    (hb : ∀ (j : Nat) (y : Coupling), j < i → c.couplings[j]? = some y → y.state = .releasing ∨ y.state = .released) :
    ∃ rest, pollList c = i :: rest ∧ rest.Pairwise (· < ·) ∧
      ∀ j, j ∈ rest ↔ i < j ∧ ∃ y, c.couplings[j]? = some y ∧ y.state ≠ .releasing ∧ y.state ≠ .released := by
  have hmem : ∀ j, j ∈ pollList c ↔ ∃ y, c.couplings[j]? = some y ∧ y.state ≠ .releasing ∧ y.state ≠ .released := by
    intro j
    unfold pollList
    rw [List.mem_filter, List.mem_range]
    constructor
    · rintro ⟨h, k⟩
      rw [List.getElem?_eq_getElem h] at k ⊢
      exact ⟨_, rfl, (isPolled_iff _).mp k⟩
    · rintro ⟨y, hy, k⟩
      have : j < c.couplings.length := by
        by_contra hn
        rw [List.getElem?_eq_none (Nat.not_lt.mp hn)] at hy; cases hy
      refine ⟨this, ?_⟩
      rw [hy]; exact (isPolled_iff _).mpr k
  have hs : (pollList c).Pairwise (· < ·) := List.Pairwise.filter _ List.pairwise_lt_range
  cases hl : pollList c with
  | nil => have := (hmem i).mpr ⟨x, hx, h1, h2⟩; rw [hl] at this; cases this
  | cons a rest =>
    rw [hl] at hs hmem
    have hs' := List.pairwise_cons.mp hs
    have ha : a = i := by
      rcases List.mem_cons.mp ((hmem i).mpr ⟨x, hx, h1, h2⟩) with e | e
      · exact e.symm
      · obtain ⟨y, hy, k1, k2⟩ := (hmem a).mp List.mem_cons_self
        rcases hb a y (hs'.1 i e) hy with k | k
        · exact absurd k k1
        · exact absurd k k2
    subst ha
    refine ⟨rest, rfl, hs'.2, ?_⟩
    intro j
    constructor
    · intro hj; exact ⟨hs'.1 j hj, (hmem j).mp (List.mem_cons_of_mem _ hj)⟩
    · rintro ⟨hj, k⟩
      rcases List.mem_cons.mp ((hmem j).mpr k) with e | e
      · omega
      · exact e

/-- The end of a poll takes the round on as `PollFollows` says, in every state. -/
theorem endPoll_follows (r : Round) (s : State) : PollFollows r.rest s (endPoll r s) := by
  constructor
  · intro passed j rest c hl hp hc h1 h2 hk hr
    have e : endPoll r s = settleRound (runList r.rest (s.onCmu fun c => { c with round := none, answer := none })) := rfl
    rw [e, hl, runList_skip (s := s.onCmu fun c => { c with round := none, answer := none }) hp,
      runList_hands (s := s.onCmu _) hc h1 h2 hk hr, settle_some rfl]
    exact ⟨rfl, rfl, rfl, rfl, rfl, rfl⟩
  · intro hp hm
    unfold endPoll
    rw [runList_none (s := s.onCmu fun c => { c with round := none, answer := none }) hp, settle_unmarked (s := publishHeadroom (s.onCmu fun c => { c with round := none, answer := none })) hm]
    exact ⟨rfl, rfl, rfl, rfl, rfl⟩
  · intro hp hm h1 h2 h3
    unfold endPoll
    rw [runList_none (s := s.onCmu fun c => { c with round := none, answer := none }) hp]
    have : settleRound (publishHeadroom (s.onCmu fun c => { c with round := none, answer := none })) =
        runList (pollList s.cmu) { s with cmu := { s.cmu with
          round := none, answer := none, headroom := headroomOf { s.cmu with round := none, answer := none }, startMarked := false } } := by
      unfold settleRound publishHeadroom State.onCmu beginRound
      simp [hm, h1, h2, h3]
      rfl
    rw [this]
    generalize hb : ({ s with cmu := { s.cmu with
          round := none, answer := none, headroom := headroomOf { s.cmu with round := none, answer := none }, startMarked := false } } : State) = b
    have hc : b.cmu.couplings = s.cmu.couplings := by rw [← hb]
    have hh : b.cmu.headroom = headroomOf b.cmu := by rw [← hb]; rfl
    refine ⟨?_, ?_, ?_, ?_, ?_⟩
    · rw [(runList_kept _ b hh).2.2, ← hb]
    · rw [(runList_kept _ b hh).2.1, ← hb]
    · exact (runList_kept _ b hh).1
    · intro ha
      rw [runList_none]
      · rw [← hb]; exact ⟨rfl, rfl⟩
      · intro k _ x hx
        rw [hc] at hx
        exact ha x (List.mem_of_getElem? hx)
    · intro i c hi k1 k2 hbf hk hr
      obtain ⟨rest, e, hpw, hm⟩ := pollList_split s.cmu i c hi k1 k2 hbf
      refine ⟨rest, hpw, hm, ?_⟩
      have hi' : b.cmu.couplings[i]? = some c := by rw [hc]; exact hi
      rw [e, runList_hands hi' k1 k2 (by rw [← hb]; exact hk) (by rw [← hb]; exact hr), ← hb]
      exact ⟨rfl, rfl, rfl⟩

end Sys2Proof.Machine
end

