-- ==== Sys2Proof/Laws/Told.lean ====
section
/-! SUPPORT. What telling the outside leaves as it was: one lemma for each operation that reports. -/

namespace Sys2Proof.Machine

theorem Told.refl (s : State) : Told s s := ⟨rfl, rfl, fun _ => List.prefix_refl _, rfl⟩

theorem Told.trans {s t u : State} (h : Told s t) (k : Told t u) : Told s u := by
  refine ⟨?_, ?_, fun q => (h.queues q).trans (k.queues q), ?_⟩
  · have := k.rest; rw [h.rest] at this; exact this
  · have := k.port; rw [h.port] at this; exact this
  · have := k.unit; rw [h.unit] at this; exact this

theorem Told.foldl {α : Type} {f : State → α → State} (hf : ∀ s a, Told s (f s a)) (l : List α) (s : State) :
    Told s (l.foldl f s) := by
  induction l generalizing s with
  | nil => exact .refl s
  | cons a l ih => exact (hf s a).trans (ih _)

variable (s : State)

theorem handPort_told (f : Frame) (o : Origin) : Told s (handPort .w f o s).1 := by
  unfold handPort
  dsimp only
  split
  · exact ⟨rfl, rfl, fun _ => List.prefix_refl _, rfl⟩
  · split
    · refine ⟨rfl, rfl, fun q => ?_, rfl⟩
      generalize hk : classQueue s (segPort .w) f.cls = k
      show _ <+: (updAt s.pcw.tx k _)[q]
      by_cases e : k = q
      · subst e; rw [Fin.getElem_fin, Fin.getElem_fin, updAt_same]; exact List.prefix_append _ _
      · rw [Fin.getElem_fin, Fin.getElem_fin, updAt_other _ e]
    · exact ⟨rfl, rfl, fun _ => List.prefix_refl _, rfl⟩

theorem Told.onMgu (f : Mgu → Mgu)
    (hf : f s.mgu = { s.mgu with raised := (f s.mgu).raised, sticky := (f s.mgu).sticky,
                                 statusDrop := (f s.mgu).statusDrop, responseDrop := (f s.mgu).responseDrop }) :
    Told s (s.onMgu f) := ⟨rfl, rfl, fun _ => List.prefix_refl _, hf⟩

theorem handStatus_told (f : Frame) : Told s (handStatus f s) := by
  unfold handStatus
  have h := handPort_told s f .mgu
  revert h
  generalize handPort .w f .mgu s = r
  obtain ⟨t, b⟩ := r
  intro h
  cases b
  · exact h.trans (Told.onMgu _ _ rfl)
  · exact h

theorem handResponse_told (o : Origin) (f : Frame) : Told s (handResponse o f s).1 := by
  unfold handResponse
  have h := handPort_told s f o
  revert h
  generalize handPort .w f o s = r
  obtain ⟨t, b⟩ := r
  intro h
  cases b
  · exact h.trans (Told.onMgu t (fun m => { m with responseDrop := satInc m.responseDrop }) rfl)
  · exact h

theorem raiseAlarm_told (a : Alarm) (j : Subject) : Told s (raiseAlarm a j s) := by
  unfold raiseAlarm
  split
  · exact .refl s
  · exact (Told.onMgu s _ rfl).trans (handStatus_told _ _)

theorem clearAlarm_told (a : Alarm) (j : Subject) : Told s (clearAlarm a j s) := by
  unfold clearAlarm
  split
  · exact (Told.onMgu s _ rfl).trans (handStatus_told _ _)
  · exact .refl s

theorem syncAlarm_told (a : Alarm) (j : Subject) (b : Bool) : Told s (syncAlarm a j b s) := by
  unfold syncAlarm
  split
  · exact raiseAlarm_told s a j
  · exact clearAlarm_told s a j

theorem clearAllOf_told (a : Alarm) : Told s (clearAllOf a s) := Told.foldl (fun s j => clearAlarm_told s a j) _ s

theorem reportStatus_told (st : Option (Fin 4)) (o : StatusOutcome) (d : Byte) : Told s (reportStatus st o d s) :=
  handStatus_told s _

theorem report_told (st : Fin 4) (o : StatusOutcome) : Told s (report st o s) := handStatus_told s _

theorem respond_told (node : Node) (kind : Nat) (a : Answer) (data : List Byte) : Told s (respond node kind a data s) :=
  Told.foldl (fun s f => handResponse_told s .mgu f) _ s

end Sys2Proof.Machine
end

