-- ==== Sys2Proof/WellFormed.lean ====
section
/-! DEFINITION. Which commands the hardware can be given: the limits that the spec puts on the operands beyond their
widths (R135, R137, R170, R189, section 11.2). The meanings take every command; these checks say which ones can come from
a bus, a lane or the part itself. -/

namespace Sys2Proof

/-- A frame carries 0 to 8 payload bytes (R135). -/
def Frame.fits (f : Frame) : Bool := decide (f.payload.length ≤ 8)

/-- A frame of one class that fits. -/
def Frame.ofClass (f : Frame) (cls : BitVec 4) : Bool := f.cls == cls && f.fits

/-- The payload of a followed frame has as many bytes as its length field says; a length above 8 ends the following at
the length field, with no payload (R137). -/
def followedPayload (length : BitVec 4) (payload : List Byte) : Bool :=
  payload.length == (if 8 < length.toNat then 0 else length.toNat)

/-- The limits on the operands of a command. -/
def WellFormed (i : Instr) : Bool :=
  match i with
  | .unknownNodeFrame f => f.ofClass 0 || f.ofClass 1
  | .malformedFeedback f => f.ofClass 3
  | .hSetpointFrame f => f.ofClass 2
  | .malformedReport f => f.ofClass 4
  | .releaseFrameUnknownKind f => f.ofClass 6
  | .malformedMeter f => f.ofClass 5
  | .malformedRequest f => f.ofClass 8
  | .receiveFrame _ _ length payload _ _ => followedPayload length payload
  | .data _ _ _ f => f.fits
  | .loadData _ _ bytes => bytes.length == 6
  | .voyageOpen _ part value => part != 0 || decide (value.toNat < 65536)
  | .supplyOn _ | .startUpScanEnd | .supplyLoss | .resetPinAssert | .resetPinRelease | .coreResetEnd
  | .allStop _ | .helm _ _ _ _ | .take _ | .give _ | .takeForce _ | .takeBack _ | .joinGive _ | .allStopClear _
  | .joinOffer | .joinAccept | .unjoin _ | .presenceTimerExpiry _ | .freshnessTimerExpiry _
  | .staleHoldTimerExpiry | .transferTimerExpiry | .joinAnswerTimerExpiry | .setpointLossTimerExpiry
  | .holdTimerExpiry | .allocationCycle | .engineFb _ _ _ _ _ | .rudderFb _ _ | .engineFeedbackTimerExpiry _
  | .rudderFeedbackTimerExpiry _ | .deviationTimerExpiry _ | .refreshTimerExpiry | .pollRoundTimerExpiry
  | .report _ _ _ | .pollAnswerTimerExpiry | .recomputeCompletion | .releaseArm _ _ | .releaseGo _ _ _
  | .releaseDone _ _ | .armTimerExpiry | .releaseAnswerTimerExpiry | .meter _ _ _ _ | .meterSilenceTimerExpiry _
  | .jumpListAgeOut _ | .fuelWindowTimerExpiry | .checkpointTimerExpiry | .bankEraseEnd _ | .blankCheckEnd
  | .loadProgramEnd _ | .headerFieldsProgramEnd _ | .markWordProgramEnd _ | .commitCheckEnd | .lockProgramEnd _
  | .lockEraseEnd _ | .slotEraseEnd _ | .slotProgramEnd _ | .frameOffer _ | .arbitrationLoss _
  | .acknowledgeSlot _ _ | .bitError _ | .dominantRunNinthBit _ | .dominantRunEnd _ | .busBreak _ | .stuckBus _
  | .isolationTimerExpiry _ | .portRestart _ | .replyWindowAnswered | .replyWindowExpiry | .switchingEnd
  | .retryTimerExpiry | .tsReceived _ _ | .tsSendTimer | .goodSetFix | .trainingTimerExpiry
  | .laneLossTimerExpiry _ _ | .linkFrameCrcError _ | .laneErrorAgeOut _ | .creditAnnounce _ _ _ _
  | .creditConfirm _ _ _ | .creditReturn _ _ _ _ | .creditRefreshTimerExpiry | .linkControlSend _ | .dataSend _
  | .dataSendEnd _ | .summaryTimerExpiry | .loadIdleTimerExpiry | .identify _ | .readRecord _ _ _
  | .readStatus _ _ | .counterRead _ _ | .counterClear _ _ | .clearSticky _ | .bankErase _ _ _
  | .bankBlankCheck _ _ _ | .loadBegin _ _ _ _ | .loadEnd _ _ | .bankCommit _ _ | .bankLock _ _ _
  | .bankUnlock _ _ _ | .voyageClose _ | .bunker _ _ _ | .setLineup _ _ _ | .makeupConfirm _ | .resetCore _
  | .busIdle _ => true

end Sys2Proof
end

