-- ==== Sys2Proof/Tests/Slice0.lean ====
section
/-! SUPPORT. Tests of the model: the operand checks refuse ill-formed commands, single steps of the spec's worked examples,
and for every obligation with hypotheses a theorem that shows states and operands that meet the hypotheses of each clause,
with what the model answers there. Expected values come from the rules and examples of spec/. -/

namespace Sys2Proof.Tests

open Sys2Proof Sys2Proof.Machine

set_option Elab.async false

/-! ## Small states -/

/-- The state a command leads to. -/
def after (c : Instr) (s : State) : State :=
  match exec c s with
  | .next t => t
  | .fault _ => s
  | .refused _ => s

/-- A running part with nothing raised and nothing waiting. -/
def calm : State :=
  { State.reset with now := 1000000, pcw := PortCtl.initial, mgu := { Mgu.initial with summary := some 1500000 } }

/-- The own engines of section 2.10, with setpoint nodes 11 to 16 and feedback nodes 21 to 26. -/
def engine (i : Nat) (wr : Int) : EngineEntry :=
  { configured := true, wt := 250, wr := wr, idle := 300, maxAhead := 1800, maxAstern := 1500, shiftLimit := 400,
    shiftDwell := 2000, slew := 25, setNode := 11 + i, fbNode := 21 + i, source := .own }

def group (i : Nat) : RudderEntry :=
  { configured := true, gain := 350, limit := 350, gainAstern := 350, slew := 15, setNode := 17 + i, fbNode := 27 + i,
    fromXs := false }

def station (node : Nat) (kind : StationKind) (force : Bool) : StationEntry :=
  { configured := true, node := node, kind := kind, force := force }

/-- S0 and S1 MANUAL at nodes 5 and 6, S1 may force, S2 an AUTOPILOT at node 7; E1 to E4 and RS, RF configured. -/
def alloc : AllocTable :=
  { engines := #v[engine 0 (-300), engine 1 (-150), engine 2 150, engine 3 300, noEngine, noEngine],
    rudders := #v[group 0, group 1, noRudder],
    stations := #v[station 5 .manual false, station 6 .manual true, station 7 .autopilot false, noStation],
    turnLimit := 250, bandUpper := #v[6, 15, 24], rAhead := #v[40, 30, 20, 10], rAstern := #v[40, 30, 20, 10],
    deltaMin := 5, rDown := 40, rStop := 100, rTurn := 50, cF := 300, sMax := 1500, deadband := 50 }

def present : Station := { Station.initial with state := .present, presence := some 1900000 }

/-- A last HELM that arrived 40 ms ago. -/
def helmed (d t : Int) (r : Station) : Station :=
  { r with last := some { d := d, t := t, seq := 9, time := 960000 }, freshness := some 1260000 }

/-- The lead of section 1.6: S0 in command at D* = D_eff = 400, the other stations present. -/
def held : State :=
  { calm with
    tau := { Tau.initial with alloc := some alloc, dEff := 400, timer := some 1010000 },
    csu := { Csu.initial with
      stations := #v[helmed 400 0 { present with state := .inCommand }, helmed 410 0 present, present, Station.initial],
      inCommand := some 0, dStar := 400 } }

/-- `held` with its station unit changed. -/
def heldWith (f : Csu → Csu) : State := { held with csu := f held.csu }

/-- `Sender` as one decidable condition. -/
abbrev Sends (s : State) (n : Node) (i : Fin 4) : Prop :=
  s.power = .run ∧ findStation s n = some i ∧ s.csu.stations[i].state ≠ .absent ∧ s.csu.stations[i].silent = false

theorem sends_iff (s : State) (n : Node) (i : Fin 4) : Sends s n i ↔ Sender s n i :=
  ⟨fun ⟨a, b, c, d⟩ => ⟨a, b, c, d⟩, fun h => ⟨h.running, h.found, h.here, h.heard⟩⟩

/-- `Csu.OneHolder` as one decidable condition. -/
abbrev OneHolds (s : State) : Prop :=
  (∀ i : Fin 4, s.csu.stations[i].state = .inCommand ↔ s.csu.inCommand = some i) ∧
    ∀ i : Fin 4, s.csu.stations[i].state = .requesting ↔ s.csu.request = some i

theorem oneHolds_iff (s : State) : OneHolds s ↔ s.csu.OneHolder := Iff.rfl

/-- `Told` as one decidable condition. -/
abbrev Tells (s t : State) : Prop :=
  t = { s with pcw := t.pcw, mgu := t.mgu } ∧
  t.pcw = { s.pcw with tx := t.pcw.tx, txDrop := t.pcw.txDrop, flushDrop := t.pcw.flushDrop } ∧
  (∀ q : Fin 4, s.pcw.tx[q] <+: t.pcw.tx[q]) ∧
  t.mgu = { s.mgu with raised := t.mgu.raised, sticky := t.mgu.sticky, statusDrop := t.mgu.statusDrop,
                       responseDrop := t.mgu.responseDrop }

theorem tells_iff (s t : State) : Tells s t ↔ Told s t :=
  ⟨fun ⟨a, b, c, d⟩ => ⟨a, b, c, d⟩, fun h => ⟨h.rest, h.port, h.queues, h.unit⟩⟩

/-! ## Operand checks (WellFormed) -/

def longFrame (cls : BitVec 4) : Frame := { cls := cls, node := 5, kind := 1, payload := [0, 0, 0, 0, 0, 0, 0, 0, 0] }
def frameOfClass (cls : BitVec 4) : Frame := { cls := cls, node := 5, kind := 1, payload := [] }

/-- R135: a frame of more than 8 payload bytes, or of another class than the command's, is refused. -/
theorem test_wellFormed_frames_refused :
    WellFormed (.unknownNodeFrame (longFrame 1)) = false ∧ WellFormed (.unknownNodeFrame (frameOfClass 2)) = false ∧
    WellFormed (.malformedFeedback (longFrame 3)) = false ∧ WellFormed (.malformedFeedback (frameOfClass 0)) = false ∧
    WellFormed (.hSetpointFrame (longFrame 2)) = false ∧ WellFormed (.hSetpointFrame (frameOfClass 3)) = false ∧
    WellFormed (.malformedReport (longFrame 4)) = false ∧ WellFormed (.malformedReport (frameOfClass 5)) = false ∧
    WellFormed (.releaseFrameUnknownKind (longFrame 6)) = false ∧
    WellFormed (.releaseFrameUnknownKind (frameOfClass 7)) = false ∧
    WellFormed (.malformedMeter (longFrame 5)) = false ∧ WellFormed (.malformedMeter (frameOfClass 4)) = false ∧
    WellFormed (.malformedRequest (longFrame 8)) = false ∧ WellFormed (.malformedRequest (frameOfClass 9)) = false ∧
    WellFormed (.data .h0 0 0 (longFrame 3)) = false := by decide

/-- R137: the payload followed has the length of its field, and none above 8. Section 11.2: 6 data bytes, and a voyage
number of 16 bits. -/
theorem test_wellFormed_lengths_refused :
    WellFormed (.receiveFrame .w 0 2 [1] 0 true) = false ∧ WellFormed (.receiveFrame .w 0 9 [1] 0 true) = false ∧
    WellFormed (.loadData 5 0 [1, 2, 3, 4, 5]) = false ∧ WellFormed (.voyageOpen 5 0 65536) = false := by decide

theorem test_wellFormed_accepted :
    WellFormed (.unknownNodeFrame (frameOfClass 0)) = true ∧ WellFormed (.malformedRequest (frameOfClass 8)) = true ∧
    WellFormed (.receiveFrame .w 0 2 [1, 2] 0 true) = true ∧ WellFormed (.receiveFrame .w 0 9 [] 0 true) = true ∧
    WellFormed (.loadData 5 0 [1, 2, 3, 4, 5, 6]) = true ∧ WellFormed (.voyageOpen 5 0 65535) = true ∧
    WellFormed (.voyageOpen 5 1 65536) = true ∧ WellFormed (.take 5) = true := by decide

/-- The opcode table gives no row any bits, so no word spells a command. -/
theorem test_no_word_spells_a_command : decodeTableWord 16 0x1234 = none ∧
    (State.reset.withFetchWord 16 0x1234).pending = [] := by decide

/-! ## The machine from reset -/

/-- The pairs of a queue's frames without the payload bytes, one of which is open (log entry 13). -/
def outline (l : List TxEntry) : List (BitVec 4 × BitVec 6 × Nat × Origin) :=
  l.map fun e => (e.frame.cls, e.frame.kind, e.frame.payload.length, e.origin)

/-- Section 11.10: the scan of a factory-blank part ends in the state after reset. -/
theorem test_scan_of_blank_part_is_reset :
    let z := after .startUpScanEnd { after .supplyLoss State.reset with power := .scan }
    z.power = .run ∧ z.csu = State.reset.csu ∧ z.tau = State.reset.tau ∧ z.piu = State.reset.piu ∧
    z.cmu = State.reset.cmu ∧ z.fau = State.reset.fau ∧ z.nvs = State.reset.nvs ∧ z.pcp = State.reset.pcp ∧
    z.pck = State.reset.pck ∧ z.fsw = State.reset.fsw ∧ z.hlc = State.reset.hlc ∧ z.mgu = State.reset.mgu ∧
    (∀ q : Fin 4, outline z.pcw.tx[q] = outline State.reset.pcw.tx[q]) := by decide +kernel

/-! ## Witnesses: the whole part and chapter 1 -/

theorem witness_QuietOutsideRun :
    (let s := { calm with power := .scan }
     s.power ≠ .run ∧ actsOutsideRun (.take 5) = false ∧ after (.take 5) s = s) ∧
    (let s := { calm with power := .coreReset }
     s.power ≠ .run ∧ actsOutsideRun (.supplyLoss) = true ∧ actsOutsideRun (.busIdle .w) = false ∧
     after (.busIdle .w) s = s) := by decide +kernel

theorem witness_SoundKeptByStep :
    ∃ s t : State, Sound s ∧ s ≠ State.reset ∧ step s = .next t := by
  refine ⟨{ State.reset with now := 1 }, _, ⟨?_, ?_, ?_, ?_, ?_, ?_, ?_⟩, ?_, rfl⟩
  · exact ⟨by decide, by decide⟩
  · show PortCtl.WithinDepth _
    intro q; fin_cases q <;> exact ⟨by decide, by decide⟩
  · intro q; fin_cases q <;> exact ⟨by decide, by decide⟩
  · intro q; fin_cases q <;> exact ⟨by decide, by decide⟩
  · intro q; fin_cases q <;> exact ⟨by decide, by decide⟩
  · exact ⟨by decide, by decide⟩
  · exact ⟨by decide, by decide⟩
  · intro h
    have := congrArg State.now h
    exact absurd this (by decide)

theorem witness_BooksStayBalanced :
    ∃ t, Instr.bunker 5 2 7 ≠ .startUpScanEnd ∧ calm.fau.Balanced ∧ exec (.bunker 5 2 7) calm = .next t ∧
      t.fau.voyage.bunkered = 7 ∧ t.fau.tanks[2].balance = 7 := by
  refine ⟨_, by decide, ?_, rfl, ?_⟩
  · intro _; decide
  · decide +kernel

/-- R3: a frame of an unknown node, of another kind or length, and an ALL-STOP of an ABSENT station. -/
theorem witness_ClassOneArrives :
    (let counted := fun s : State => { s with csu := { s.csu with unknownNode := min 65535 (s.csu.unknownNode + 1) } }
     let away := heldWith fun c => { c with stations := c.stations.set 1 Station.initial, unknownNode := 65535 }
     let f := fun (cls : BitVec 4) (kind : BitVec 6) (l : List Byte) => ({ cls := cls, node := 5, kind := kind, payload := l } : Frame)
     findStation held 9 = none ∧ after (.take 9) held = counted held ∧ after (.allStop 9) held = counted held ∧
     after (.helm 9 1 1 1) held = counted held ∧
     after (.unknownNodeFrame { f 1 2 [] with node := 9 }) held = counted held ∧
     findStation away 6 = some 1 ∧ away.csu.stations[1].state = .absent ∧ after (.allStop 6) away = counted away ∧
     after (.unknownNodeFrame (f 0 2 [])) held = counted held ∧ after (.unknownNodeFrame (f 1 0 [])) held = counted held ∧
     after (.unknownNodeFrame (f 1 8 [])) held = counted held ∧
     after (.unknownNodeFrame (f 1 1 [0, 0, 0, 0])) held = counted held) ∧
    (let away := heldWith fun c => { c with stations := c.stations.set 1 Station.initial }
     findStation away 6 = some 1 ∧ away.csu.stations[1].state = .absent ∧ away.csu.stations[1].silent = false ∧
     after (.take 6) away =
       after (.take 6) (report 1 .presentOn (onStation 1 ({ · with state := .present }) (heardFrom 1 away)))) ∧
    (let mute := heldWith fun c => { c with stations := updAt c.stations 0 ({ · with silent := true, presence := none }) }
     findStation mute 5 = some 0 ∧ mute.csu.stations[0].state ≠ .absent ∧ mute.csu.stations[0].silent = true ∧
     after (.give 5) mute =
       after (.give 5) (report 0 .presentOn (onStation 0 ({ · with silent := false }) (heardFrom 0 mute)))) := by
  and_intros <;> decide +kernel

/-- R4 to R6: a repeated sequence, a frame of a station not in command at the clamp's edge, one of the station in command. -/
theorem witness_HelmRows :
    (Sends held 5 0 ∧ (∃ x ∈ held.csu.stations[0].last, x.seq = (9 : Byte).toNat) ∧
      (after (.helm 5 100 0 9) held).csu.helmRepeat = 1) ∧
    (Sends held 6 1 ∧ (∀ x ∈ held.csu.stations[1].last, x.seq ≠ (10 : Byte).toNat) ∧ held.csu.inCommand ≠ some 1 ∧
      (after (.helm 6 1000 (-1000) 10) held).csu.helmClamp = 0 ∧ (after (.helm 6 1001 0 10) held).csu.helmClamp = 1 ∧
      (after (.helm 6 1001 0 10) held).csu.stations[1].last = some { d := 1000, t := 0, seq := 10, time := 1000000 }) ∧
    (Sends held 5 0 ∧ held.csu.inCommand = some 0 ∧ (∀ x ∈ held.csu.stations[0].last, x.seq ≠ (10 : Byte).toNat) ∧
      (after (.helm 5 (-1001) 300 10) held).csu.dStar = -1000 ∧ (after (.helm 5 (-1001) 300 10) held).csu.tStar = 300) ∧
    let auto := heldWith fun c => { c with inCommand := some 2, dAp := 120, stations :=
      #v[present, present, { present with state := .inCommand }, Station.initial] }
    Sends auto 7 2 ∧ (∀ x ∈ auto.csu.stations[2].last, x.seq ≠ (10 : Byte).toNat) ∧
      (after (.helm 7 900 300 10) auto).csu.dStar = 120 ∧ (after (.helm 7 900 300 10) auto).csu.tStar = 250 := by
  and_intros <;> decide +kernel

/-- R8, row by row, with the handle of S1 at the edges of the match of section 1.6 (|D − D_eff| ≤ 50). -/
theorem witness_TakeRows :
    (Sends held 5 0 ∧ OneHolds held ∧ held.csu.stations[0].state = .inCommand ∧
      after (.take 5) held = report 0 .state (heardFrom 0 held)) ∧
    (let s := heldWith fun c => { c with request := some 1, stations := updAt c.stations 1 ({ · with state := .requesting }) }
     Sends s 7 2 ∧ OneHolds s ∧ s.csu.stations[2].state = .present ∧ s.csu.request ≠ none ∧
      after (.take 7) s = report 2 .busy (heardFrom 2 s)) ∧
    (let s := heldWith fun c => { c with phase := .hold, stations := updAt c.stations 1 (helmed 450 100) }
     Sends s 6 1 ∧ OneHolds s ∧ s.csu.stations[1].state = .present ∧ s.csu.request = none ∧ (stationOf s 1).kind = .manual ∧
      (s.csu.inCommand = none ∨ s.csu.phase ≠ .fresh) ∧ handleMatch s 1 = true ∧
      (after (.take 6) s).csu.inCommand = some 1 ∧ (after (.take 6) s).csu.stations[0].state = .present) ∧
    (let s := heldWith fun c => { c with phase := .hold, stations := updAt c.stations 1 (helmed 451 100) }
     Sends s 6 1 ∧ OneHolds s ∧ s.csu.stations[1].state = .present ∧ s.csu.request = none ∧ (stationOf s 1).kind = .manual ∧
      (s.csu.inCommand = none ∨ s.csu.phase ≠ .fresh) ∧ handleMatch s 1 = false ∧
      after (.take 6) s = report 1 .mismatch (heardFrom 1 s)) ∧
    (let s := heldWith fun c => { c with inCommand := none, stations := c.stations.set 0 present }
     Sends s 7 2 ∧ OneHolds s ∧ s.csu.stations[2].state = .present ∧ s.csu.request = none ∧ (stationOf s 2).kind ≠ .manual ∧
      s.csu.inCommand = none ∧ after (.take 7) s = report 2 .notPermitted (heardFrom 2 s)) ∧
    (Sends held 6 1 ∧ OneHolds held ∧ held.csu.stations[1].state = .present ∧ held.csu.request = none ∧ held.csu.inCommand ≠ none ∧
      ((stationOf held 1).kind = .manual → held.csu.phase = .fresh) ∧
      (after (.take 6) held).csu.request = some 1 ∧ (after (.take 6) held).csu.transfer = some 11000000 ∧
      (after (.take 6) held).csu.stations[1].state = .requesting) ∧
    (let s := heldWith fun c =>
     { c with
       request := some 1, phase := .zero,
       stations := updAt c.stations 1 ({ · with state := .requesting }) }
     Sends s 6 1 ∧ OneHolds s ∧ s.csu.stations[1].state = .requesting ∧ (stationOf s 1).kind = .manual ∧ s.csu.phase ≠ .fresh ∧
      handleMatch s 1 = true ∧ (after (.take 6) s).csu.inCommand = some 1 ∧ (after (.take 6) s).csu.request = none) ∧
    (let s := heldWith fun c =>
     { c with
       request := some 1, phase := .zero,
       stations := updAt c.stations 1 fun r => helmed 349 0 { r with state := .requesting } }
     Sends s 6 1 ∧ OneHolds s ∧ s.csu.stations[1].state = .requesting ∧ (stationOf s 1).kind = .manual ∧ s.csu.phase ≠ .fresh ∧
      handleMatch s 1 = false ∧ (after (.take 6) s).csu.request = none ∧
      (after (.take 6) s).csu.stations[1].state = .present) ∧
    (let s := heldWith fun c => { c with request := some 1, stations := updAt c.stations 1 ({ · with state := .requesting }) }
     Sends s 6 1 ∧ OneHolds s ∧ s.csu.stations[1].state = .requesting ∧ ((stationOf s 1).kind = .manual → s.csu.phase = .fresh) ∧
      after (.take 6) s = report 1 .requesting (heardFrom 1 s)) := by
  and_intros <;> decide +kernel

/-- R9: the four cases of GIVE; section 1.6 refuses 470 and grants 430 at D_eff 400. -/
theorem witness_GiveRows :
    (Sends held 6 1 ∧ held.csu.inCommand ≠ some 1 ∧ after (.give 6) held = report 1 .notInCommand (heardFrom 1 held)) ∧
    (Sends held 5 0 ∧ held.csu.inCommand = some 0 ∧ held.csu.request = none ∧
      after (.give 5) held = report 0 .state (heardFrom 0 held)) ∧
    (let s := heldWith fun c =>
     { c with
       request := some 1,
       stations := updAt c.stations 1 fun r => helmed 430 0 { r with state := .requesting } }
     Sends s 5 0 ∧ s.csu.inCommand = some 0 ∧ s.csu.request = some 1 ∧ handleMatch s 1 = true ∧
      (after (.give 5) s).csu.inCommand = some 1 ∧ (after (.give 5) s).csu.stations[0].state = .present) ∧
    (let s := heldWith fun c =>
     { c with
       request := some 1,
       stations := updAt c.stations 1 fun r => helmed 470 0 { r with state := .requesting } }
     Sends s 5 0 ∧ s.csu.inCommand = some 0 ∧ s.csu.request = some 1 ∧ handleMatch s 1 = false ∧
      (after (.give 5) s).csu.inCommand = some 0 ∧ (after (.give 5) s).csu.stations[1].state = .present) := by
  and_intros <;> decide +kernel

/-- R10. -/
theorem witness_TakeForceRows :
    (let s := heldWith fun c => { c with inCommand := some 1, stations :=
       #v[present, { present with state := .inCommand }, present, Station.initial] }
     Sends s 6 1 ∧ s.csu.inCommand = some 1 ∧ after (.takeForce 6) s = report 1 .state (heardFrom 1 s)) ∧
    (Sends held 7 2 ∧ held.csu.inCommand ≠ some 2 ∧ (stationOf held 2).force = false ∧
      after (.takeForce 7) held = report 2 .notPermitted (heardFrom 2 held)) ∧
    (Sends held 6 1 ∧ held.csu.inCommand ≠ some 1 ∧ (stationOf held 1).force = true ∧ (stationOf held 1).kind = .manual ∧
      (after (.takeForce 6) held).csu.inCommand = some 1) := by
  and_intros <;> decide +kernel

/-- R12, R144. -/
theorem witness_AllStopRaised :
    (let s := heldWith fun c => { c with allStop := some .busBreak }
     findStation s 6 = some 1 ∧ s.csu.stations[1].state ≠ .absent ∧ s.csu.allStop ≠ none ∧ after (.allStop 6) s = s) ∧
    (findStation held 6 = some 1 ∧ held.csu.stations[1].state ≠ .absent ∧ held.csu.allStop = none ∧ held.role = .lead ∧
      (after (.allStop 6) held).csu.allStop = some (.station 1) ∧ (after (.allStop 6) held).csu.dStar = 0) ∧
    (let s := { heldWith fun c => { c with join := .offering, joinAnswer := some 1500000 } with role := .helper }
     findStation s 6 = some 1 ∧ s.csu.allStop = none ∧ s.role = .helper ∧ s.csu.join = .offering ∧
      (after (.allStop 6) s).csu.join = .localMode ∧ (after (.allStop 6) s).csu.joinAnswer = none ∧
      Tells { s with
        csu := { s.csu with
                            allStop := some (.station 1), dStar := 0, tStar := 0, dAp := 0, join := .localMode,
                            joinAnswer := none },
        hlc := (handLink (unjoinFrame .allStop) .csu s).1.hlc } (after (.allStop 6) s)) ∧
    (let s := { heldWith fun c => { c with join := .holding, hold := some 1500000 } with role := .helper }
     findStation s 6 = some 1 ∧ s.csu.allStop = none ∧ s.role = .helper ∧ s.csu.join = .holding ∧
      isRaised .helperUnjoined .none (after (.allStop 6) s) = true ∧
      (after (.allStop 6) s).csu.hold = none ∧ (after (.allStop 6) s).csu.allStop = some (.station 1)) ∧
    (let s := heldWith fun c => { c with allStop := some .busBreak }
     s.pcw.state ≠ .isolated ∧ s.csu.allStop ≠ none ∧
      after (.busBreak .w) s = { s with pcw := { s.pcw with breaks := 1 } }) ∧
    (held.pcw.state ≠ .isolated ∧ held.csu.allStop = none ∧ held.role = .lead ∧
      (after (.busBreak .w) held).csu.allStop = some .busBreak ∧ (after (.busBreak .w) held).pcw.breaks = 1) ∧
    (held.pcp.state ≠ .isolated ∧ held.pck.state ≠ .isolated ∧
      after (.busBreak .p) held = { held with pcp := { held.pcp with busError := 1 } } ∧
      after (.busBreak .k) held = { held with pck := { held.pck with busError := 1 } }) ∧
    (let s := { held with pcw := { held.pcw with state := .isolated } }
     (s.port .w).state = .isolated ∧ after (.busBreak .w) s = s) := by
  and_intros <;> decide +kernel

/-- R13: the rows of ALL-STOP-CLEAR, with the handle at 50 and 51 and its age at 299 and 300 ms. -/
theorem witness_AllStopClearRows :
    let stopped := fun (d : Int) (time : Nat) => heldWith fun c =>
     { c with
      allStop := some .busBreak, dStar := 0,
      stations := updAt c.stations 0 ({ · with last := some { d := d, t := 7, seq := 9, time := time } }) }
    let auto := fun (x : Option HelmRec) (phase : StalePhase) =>
      heldWith fun c =>
       { c with
        inCommand := some 2, dAp := 120, phase := phase, allStop := some .busBreak, dStar := 0,
        stations := #v[present, present, { present with state := .inCommand, last := x }, Station.initial] }
    let old : HelmRec := { d := 1, t := -300, seq := 4, time := 1 }
    (Sends held 6 1 ∧ held.csu.inCommand ≠ some 1 ∧
      after (.allStopClear 6) held = report 1 .notInCommand (heardFrom 1 held)) ∧
    (Sends held 5 0 ∧ held.csu.inCommand = some 0 ∧ held.csu.allStop = none ∧
      after (.allStopClear 5) held = report 0 .state (heardFrom 0 held)) ∧
    (Sends (stopped 51 960000) 5 0 ∧ (stopped 51 960000).csu.inCommand = some 0 ∧
      (stationOf (stopped 51 960000) 0).kind = .manual ∧
      after (.allStopClear 5) (stopped 51 960000) = report 0 .mismatch (heardFrom 0 (stopped 51 960000)) ∧
      after (.allStopClear 5) (stopped 50 700000) = report 0 .mismatch (heardFrom 0 (stopped 50 700000))) ∧
    (Sends (stopped 50 700001) 5 0 ∧ (stopped 50 700001).csu.phase ≠ .zero ∧
      (after (.allStopClear 5) (stopped 50 700001)).csu.allStop = none ∧
      (after (.allStopClear 5) (stopped 50 700001)).csu.dStar = 50 ∧
      (after (.allStopClear 5) (stopped 50 700001)).csu.tStar = 7) ∧
    (Sends (auto (some old) .fresh) 7 2 ∧ (stationOf (auto (some old) .fresh) 2).kind = .autopilot ∧
      (after (.allStopClear 7) (auto (some old) .fresh)).csu.dStar = 120 ∧
      (after (.allStopClear 7) (auto (some old) .fresh)).csu.tStar = -250) ∧
    (Sends (auto none .hold) 7 2 ∧ (after (.allStopClear 7) (auto none .hold)).freeCount = 1 ∧
      (after (.allStopClear 7) (auto none .hold)).csu.allStop = none) ∧
    (Sends (auto none .zero) 7 2 ∧ (after (.allStopClear 7) (auto none .zero)).csu.dStar = 0 ∧
      (after (.allStopClear 7) (auto none .zero)).csu.allStop = none) := by
  and_intros <;> decide +kernel

/-- R3, R6, R9: each timer expires at its time, and a stopped one does not. -/
theorem witness_StationTimersExpire :
    (held.csu.stations[3].presence = none ∧ after (.presenceTimerExpiry 3) held = held) ∧
    (let s := heldWith fun c => { c with stations := c.stations.set 3 { Station.initial with presence := some 5 } }
     s.csu.stations[3].presence = some 5 ∧ s.csu.stations[3].state = .absent ∧
      (after (.presenceTimerExpiry 3) s).csu.stations[3] = Station.initial ∧
      (after (.presenceTimerExpiry 3) s).now = 1000000) ∧
    (held.csu.stations[1].presence = some 1900000 ∧ held.csu.stations[1].state = .present ∧
      (after (.presenceTimerExpiry 1) held).csu.stations[1] = Station.initial ∧
      (after (.presenceTimerExpiry 1) held).now = 1900000) ∧
    (let s := heldWith fun c =>
       { c with
         request := some 1, transfer := some 9000000,
         stations := updAt c.stations 1 ({ · with state := .requesting }) }
     s.csu.stations[1].presence = some 1900000 ∧ s.csu.stations[1].state = .requesting ∧
      (after (.presenceTimerExpiry 1) s).csu.request = none ∧ (after (.presenceTimerExpiry 1) s).csu.transfer = none ∧
      s.csu.transfer = some 9000000 ∧ s.csu.request = some 1 ∧ (after .transferTimerExpiry s).csu.request = none ∧
      (after .transferTimerExpiry s).csu.stations[1].state = .present) ∧
    (held.csu.stations[0].presence = some 1900000 ∧ held.csu.stations[0].state = .inCommand ∧
      (after (.presenceTimerExpiry 0) held).csu.stations[0].silent = true ∧
      (after (.presenceTimerExpiry 0) held).csu.inCommand = some 0) ∧
    (held.csu.stations[0].freshness = some 1260000 ∧ held.csu.inCommand = some 0 ∧ held.csu.phase = .fresh ∧
      (after (.freshnessTimerExpiry 0) held).csu.phase = .hold ∧
      (after (.freshnessTimerExpiry 0) held).csu.staleHold = some 4260000 ∧
      isRaised .commandStale (.station 0) (after (.freshnessTimerExpiry 0) held) = true) ∧
    (held.csu.stations[1].freshness = some 1260000 ∧ held.csu.inCommand ≠ some 1 ∧
      (after (.freshnessTimerExpiry 1) held).csu.stations[1].freshness = none ∧
      (after (.freshnessTimerExpiry 1) held).csu.phase = .fresh) ∧
    (let s := heldWith fun c => { c with phase := .hold, staleHold := some 4260000 }
     s.csu.staleHold = some 4260000 ∧ (after .staleHoldTimerExpiry s).csu.phase = .zero ∧
      (after .staleHoldTimerExpiry s).csu.dStar = 0) := by
  and_intros <;> decide +kernel

/-- A link in UP over both lanes, its queues OPEN with 32 entries of credit. -/
def linked : Hlc :=
  let lane : LaneCtl := { LaneCtl.initial with good := true, loss := some 1015000, out := .idleSymbols }
  { Hlc.initial with
    state := .up, inUse := some ⟨true, true⟩, lane0 := lane, lane1 := lane, creditRefresh := some 1010000,
    queues := Vector.replicate 4 { (LinkQueue.initial .opened) with
      credit := 32, epoch := 1, announced := 32, confirmed := true, partner := some 3 } }

/-- X1 from the helper, its feedback at node 41. -/
def allocX : AllocTable :=
  { alloc with engines := alloc.engines.set 4 { (engine 4 0) with setNode := 40, fbNode := 41, wt := 300 } }

/-- A HELPER with S0 in command and the link UP. -/
def helper (join : JoinState) : State :=
  { held with
    role := .helper, hlc := linked,
    csu := { held.csu with
      join := join, joinAnswer := if join = .offering then some 1800000 else none,
      setpointLoss := if join = .joined then some 1200000 else none,
      hold := if join = .holding then some 4000000 else none } }

/-- A LEAD with X1 configured, S0 in command and the link UP; `x` is the last feedback of X1. -/
def leadX (join : JoinState) (x : Option EngineFeedback) : State :=
  let r : EngineRec :=
    { EngineRec.initial with avail := .available, gear := .ahead, rpm := 700, filled := true, run := 3, feedback := x }
  { held with
    hlc := linked, tau := { held.tau with alloc := some allocX },
    csu := { held.csu with join := join },
    piu := { held.piu with engines := held.piu.engines.set 4 r } }

def feedback (time : Nat) (gear : Gear) (shutdown : Bool) : EngineFeedback :=
  { rpm := 650, gear := gear, rate := 900, shutdown := shutdown, overspeed := false, lowOil := false, time := time }

/-- R15 to R17. -/
theorem witness_JoinOfferedAndAnswered :
    (Sends held 5 0 ∧ held.role = .lead ∧ after (.joinGive 5) held = report 0 .notPermitted (heardFrom 0 held)) ∧
    (let s := helper .localMode
     Sends s 6 1 ∧ s.role = .helper ∧ s.csu.inCommand ≠ some 1 ∧
      after (.joinGive 6) s = report 1 .notInCommand (heardFrom 1 s)) ∧
    (let s := helper .offering
     Sends s 5 0 ∧ s.csu.inCommand = some 0 ∧ s.csu.join ≠ .localMode ∧
      after (.joinGive 5) s = report 0 .state (heardFrom 0 s)) ∧
    (let s := helper .localMode
     Sends s 5 0 ∧ s.csu.inCommand = some 0 ∧ s.csu.join = .localMode ∧ s.csu.allStop = none ∧ s.hlc.state = .up ∧
      s.hlc.queues[classQueue s .h 7].state = .opened ∧ (after (.joinGive 5) s).csu.join = .offering ∧
      (after (.joinGive 5) s).csu.joinAnswer = some 2000000) ∧
    (let s := helper .offering
     s.csu.joinAnswer = some 1800000 ∧ (after .joinAnswerTimerExpiry s).csu.join = .localMode ∧
      ((after .joinAnswerTimerExpiry s).hlc.queues[1].tx.map (·.frame)) = [unjoinFrame .timeout]) ∧
    (let s := helper .localMode
     s.role = .helper ∧ s.csu.join ≠ .offering ∧ (after .joinOffer s).csu.class7Ignored = 1 ∧
      (after .joinAccept s).csu.class7Ignored = 1 ∧ held.role = .lead ∧ (after .joinAccept held).csu.class7Ignored = 1) ∧
    (let s := helper .offering
     s.csu.join = .offering ∧ (after .joinAccept s).csu.join = .joined ∧
      (after .joinAccept s).csu.setpointLoss = some 1300000) ∧
    (let s := { (leadX .localMode none) with csu := { Csu.initial with stations := #v[present, present, present, present] } }
     s.csu.inCommand = none ∧ after .joinOffer s = (handLink (unjoinFrame .noCommand) .csu s).1) ∧
    (let s := { held with hlc := linked }
     s.csu.inCommand ≠ none ∧ (engineEntry s 4).configured = false ∧ (engineEntry s 5).configured = false ∧
      (rudderOf s 2).configured = false ∧ after .joinOffer s = (handLink (unjoinFrame .noXSlot) .csu s).1) ∧
    (let s := { (leadX .localMode none) with hlc := { linked with queues := linked.queues.set 1 (LinkQueue.initial .pending) } }
     s.csu.inCommand ≠ none ∧ (engineEntry s 4).configured = true ∧
      s.hlc.queues[classQueue s .h 7].state ≠ .opened ∧ after .joinOffer s = (handLink (unjoinFrame .queueClosed) .csu s).1) ∧
    (let s := leadX .localMode (some (feedback 400001 .ahead false))
     s.csu.inCommand ≠ none ∧ (engineEntry s 4).configured = true ∧ s.hlc.queues[classQueue s .h 7].state = .opened ∧
      s.hlc.queues[classQueue s .h 2].state = .opened ∧ s.now < 400001 + 600 * Config.usPerMs ∧
      (after .joinOffer s).csu.join = .joined ∧ (after .joinOffer s).piu.engines[4].avail = .available ∧
      (after .joinOffer s).piu.engines[4].gear = .ahead) ∧
    (let s := leadX .localMode (some (feedback 400000 .ahead false))
     400000 + 600 * Config.usPerMs ≤ s.now ∧ (after .joinOffer s).piu.engines[4].gear = .neutral ∧
      (after .joinOffer s).piu.engines[4].rpm = 300 ∧ (after .joinOffer s).piu.engines[4].avail = .available) := by
  and_intros <;> decide +kernel

/-- R16, R57: an offer that fails at a lead already JOINED, for each reason, and the seed of X1 by its gear and limits. -/
theorem witness_JoinOfferedAndAnswered_joined :
    let left := fun (s : State) =>
      let t := after .joinOffer s
      (t.csu.join, t.piu.engines[4].avail, t.piu.engines[4].gear, isRaised .helperUnjoined .none t, t.hlc.queues[1].tx.map (·.frame))
    let s := leadX .joined none
    s.role = .lead ∧ s.csu.join = .joined ∧
    left { s with csu := { s.csu with inCommand := none } } =
      (.localMode, .lost, .neutral, true, [unjoinFrame .noCommand]) ∧
    left { s with tau := { s.tau with alloc := some alloc } } =
      (.localMode, .available, .ahead, true, [unjoinFrame .noXSlot]) ∧
    left { s with hlc := { linked with queues := linked.queues.set 1 (LinkQueue.initial .pending) } } =
      (.localMode, .lost, .neutral, true, [unjoinFrame .queueClosed]) ∧
    (after .joinOffer s).csu.join = .joined ∧ (after .joinOffer s).pcw = s.pcw ∧
    (let seeded := fun (rpm : Nat) (g : Gear) =>
       let x := (after .joinOffer (leadX .localMode (some { feedback 400001 g false with rpm := rpm }))).piu.engines[4]
       (x.rpm, x.fresh, x.neutralSince)
     seeded 2000 .ahead = (1800, true, 0) ∧ seeded 200 .astern = (300, true, 0) ∧ seeded 900 .neutral = (300, true, 1000000)) := by
  and_intros <;> decide +kernel

/-- R18, R19, R56. -/
theorem witness_JoinEnds :
    (Sends held 5 0 ∧ held.role = .lead ∧ after (.takeBack 5) held = report 0 .notPermitted (heardFrom 0 held)) ∧
    (let s := helper .joined
     Sends s 6 1 ∧ s.csu.inCommand ≠ some 1 ∧ after (.takeBack 6) s = report 1 .notInCommand (heardFrom 1 s)) ∧
    (let s := helper .localMode
     Sends s 5 0 ∧ s.csu.inCommand = some 0 ∧ s.csu.join = .localMode ∧
      after (.takeBack 5) s = report 0 .state (heardFrom 0 s) ∧ (after (.unjoin 4) s).csu.class7Ignored = 1) ∧
    (let s := helper .joined
     Sends s 5 0 ∧ s.csu.inCommand = some 0 ∧ s.csu.join = .joined ∧ (after (.takeBack 5) s).csu.join = .localMode ∧
      isRaised .helperUnjoined .none (after (.takeBack 5) s) = true ∧ s.csu.setpointLoss = some 1200000 ∧
      (after .setpointLossTimerExpiry s).csu.join = .holding ∧
      (after .setpointLossTimerExpiry s).csu.hold = some 6200000 ∧ (after (.unjoin 1) s).csu.join = .localMode) ∧
    (let s := helper .offering
     s.csu.join = .offering ∧ (after (.unjoin 2) s).csu.join = .localMode ∧ (after (.unjoin 2) s).csu.joinAnswer = none ∧
      isRaised .helperUnjoined .none (after (.unjoin 2) s) = false) ∧
    (let s := helper .holding
     s.csu.hold = some 4000000 ∧ (after .holdTimerExpiry s).csu.join = .localMode ∧
      (after .holdTimerExpiry s).csu.hold = none ∧ isRaised .helperUnjoined .none (after .holdTimerExpiry s) = true) ∧
    (let s := leadX .joined none
     s.role = .lead ∧ s.csu.join = .joined ∧ (engineEntry s 4).configured = true ∧
      s.piu.engines[4].avail = .available ∧ (after (.unjoin 6) s).piu.engines[4].avail = .lost ∧
      (after (.unjoin 6) s).piu.engines[4].gear = .neutral ∧ (after (.unjoin 6) s).piu.engines[4].rpm = 300 ∧
      isRaised .helperUnjoined .none (after (.unjoin 6) s) = true ∧
      (let u := { s with
         piu := { s.piu with engines := updAt s.piu.engines 4 ({ · with avail := .faulted }) },
         mgu := { s.mgu with raised := [(.engineFault, .engine 4)] } }
       (after (.unjoin 6) u).mgu.raised = [(.helperUnjoined, .none)] ∧ (after (.unjoin 6) u).piu.engines[4].gear = .ahead)) := by
  and_intros <;> decide +kernel

/-! ## Witnesses: chapters 2 and 3 -/

/-- Four own engines under way as in section 2.10, each AVAILABLE in AHEAD, E1 at `rpm`; `x` is the state of E4. -/
def cruise (dStar tStar dEff tEff : Int) (x : EngineAvail) : State :=
  let r := fun (rpm : Nat) (a : EngineAvail) =>
    { EngineRec.initial with
      avail := a, gear := if a = .available then .ahead else .neutral, rpm := if a = .available then rpm else 300,
      filled := true, run := 3, feedback := some (feedback 990000 .ahead false), timer := some 1590000 }
  { held with
    csu := { held.csu with dStar := dStar, tStar := tStar },
    tau := { held.tau with dEff := dEff, tEff := tEff },
    cmu := { held.cmu with nAtt := 12, headroom := 400 },
    piu := { held.piu with engines := #v[r 363 .available, r 410 .available, r 505 .available, r 552 x,
      EngineRec.initial, EngineRec.initial] } }

def cycled (s : State) : State := after .allocationCycle s

/-- Section 2.11: cases and rates; section 2.12: the clamp to C_f = 300. -/
theorem witness_CycleStepsDemands :
    (let s := { cruise 0 0 0 0 .available with tau := { Tau.initial with timer := some 1010000 } }
     s.tau.timer = some 1010000 ∧ s.tau.alloc = none ∧ s.tau.swapWaiting = false ∧
      cycled s = { s with now := 1010000, tau := { s.tau with timer := some 1060000 } }) ∧
    (let s := cruise (-600) 200 (-200) 200 .available
     s.tau.timer = some 1010000 ∧ s.tau.swapWaiting = false ∧ allocOf s = some alloc ∧ (cycled s).tau.dEff = -212 ∧
      (cycled s).tau.tEff = 200) ∧
    (let s := { cruise (-600) 0 (-224) 120 .available with cmu := { held.cmu with nAtt := 15, headroom := 100 } }
     (cycled s).tau.dEff = -229 ∧ (cycled s).tau.tEff = 70) ∧
    (let s := { cruise 0 0 (-234) 0 .available with csu := { held.csu with allStop := some .busBreak, dStar := 0 } }
     (cycled s).tau.dEff = -134 ∧ (cycled { s with tau := { s.tau with dEff := -34 } }).tau.dEff = 0) ∧
    (let s := { cruise 600 0 600 0 .available with cmu := { held.cmu with causes := ⟨true, false, false⟩ } }
     makeupFault s = true ∧ (cycled s).tau.dEff = 560 ∧
      (cycled { s with tau := { s.tau with dEff := 300 } }).tau.dEff = 300) ∧
    (let s := cruise 600 40 0 0 .available
     (cycled s).tau.dEff = 30 ∧ (cycled s).tau.tEff = 40) := by
  and_intros <;> decide +kernel

theorem witness_DemandsStayBounded :
    let s := { cruise 600 (-1000) 1000 1000 .available with
      csu := { held.csu with allStop := some .busBreak }, cmu := { held.cmu with causes := ⟨true, false, false⟩ } }
    s.tau.timer ≠ none ∧ s.tau.swapWaiting = false ∧ allocOf s = some alloc ∧ s.csu.dStar.natAbs ≤ 1000 ∧
      s.tau.dEff.natAbs ≤ 1000 ∧ s.tau.tEff.natAbs ≤ 1000 ∧ s.csu.allStop ≠ none ∧ makeupFault s = true ∧
      (cycled s).tau.dEff = 900 := by
  and_intros <;> decide +kernel

/-- Section 2.10: the shares with all four engines and after the loss of E4. -/
theorem witness_CycleWritesEngines :
    (let s := cruise 600 200 600 200 .available
     s.tau.timer = some 1010000 ∧ s.tau.swapWaiting = false ∧ allocOf s = some alloc ∧ s.role = .lead ∧
      s.piu.engines[0].retiring = none ∧
      (cycled s).piu.engines.map (fun r => (r.gear, r.rpm)) =
        #v[(.ahead, 363), (.ahead, 410), (.ahead, 505), (.ahead, 552), (.neutral, 0), (.neutral, 0)]) ∧
    (let s := cruise 600 200 600 200 .lost
     s.piu.engines[3].avail = .lost ∧
      (cycled s).piu.engines.map (fun r => (r.gear, r.rpm)) =
        #v[(.ahead, 388), (.ahead, 435), (.ahead, 530), (.neutral, 300), (.neutral, 0), (.neutral, 0)] ∧
      isRaised .noPropulsion .none (cycled s) = false) ∧
    (let s := { cruise 600 200 600 200 .lost with piu := Piu.initial }
     (cycled s).piu.engines.map (fun r => (r.gear, r.rpm, r.fresh)) =
        #v[(.neutral, 300, true), (.neutral, 300, true), (.neutral, 300, true), (.neutral, 300, true), (.neutral, 0, false),
          (.neutral, 0, false)] ∧
      isRaised .noPropulsion .none (cycled s) = true) ∧
    (let s := cruise 156 0 156 0 .available
     (cycled s).piu.engines[0].gear = .neutral ∧ (cycled s).piu.engines[0].neutralSince = 1010000) ∧
    (let s := cruise (-600) 0 (-600) 0 .available
     (cycled s).piu.engines[0].gear = .neutral) ∧
    (let go := fun (since : Nat) (rpm : Nat) (d : Int) =>
       let s := cruise d 0 d 0 .available
       { s with
         now := 3000000,
         piu := { s.piu with engines := updAt s.piu.engines 0 fun r =>
           { r with gear := .neutral, rpm := 300, neutralSince := since,
                    feedback := some { feedback 990000 .ahead false with rpm := rpm } } } }
     (cycled (go 1000000 400 600)).piu.engines[0].gear = .ahead ∧ (cycled (go 1000000 400 600)).piu.engines[0].rpm = 325 ∧
      (cycled (go 1000001 400 600)).piu.engines[0].gear = .neutral ∧
      (cycled (go 1000000 401 600)).piu.engines[0].gear = .neutral ∧
      (cycled (go 1000000 400 (-600))).piu.engines[0].gear = .astern) := by
  and_intros <;> decide +kernel

theorem witness_NoReversalWithoutNeutral :
    let s := cruise (-600) 0 (-600) 0 .available
    ((0 : Fin 6).val < 4 ∧ s.piu.engines[0].gear = .ahead) ∧ ∃ t, exec .allocationCycle s = .next t ∧
      t.piu.engines[0].gear = .neutral := by
  refine ⟨by decide +kernel, _, rfl, by decide +kernel⟩

/-- R37, R38: T_eff = 200 wants 70; RF turns over while the boat backs. -/
theorem witness_CycleSteersRudders :
    (let s := cruise 600 200 600 200 .available
     s.tau.timer = some 1010000 ∧ s.tau.swapWaiting = false ∧ allocOf s = some alloc ∧
      ((cycled s).piu.rudders.map (·.angle)) = #v[some 15, some 15, none]) ∧
    (let s := cruise (-600) 200 (-600) 200 .available
     ((cycled s).piu.rudders.map (·.angle)) = #v[some 15, some (-15), none]) ∧
    (let s := cruise 600 200 600 200 .available
     let u := { s with piu := { s.piu with rudders := updAt s.piu.rudders 0 ({ · with angle := some 60 }) } }
     (cycled u).piu.rudders[0].angle = some 70) ∧
    (let s := { cruise 600 200 600 200 .available with role := .helper, csu := { held.csu with join := .joined } }
     let u := { s with
       tau := { s.tau with alloc := some { alloc with rudders := alloc.rudders.set 0 { group 0 with fromXs := true } } },
       piu := { s.piu with rudders := s.piu.rudders.map ({ · with angle := some 60 }) } }
     u.role = .helper ∧ u.csu.join = .joined ∧ (rudderOf u 0).fromXs = true ∧ (rudderOf u 0).configured = true ∧
      (cycled u).piu.rudders[0] = u.piu.rudders[0] ∧ (cycled u).piu.rudders[1].angle = some 45) := by
  and_intros <;> decide +kernel

theorem witness_JoinedCycleLeavesMapped :
    let s := cruise 600 200 600 200 .available
    let old : EngineEntry := { engine 2 0 with idle := 280 }
    let u := { s with
      role := .helper, csu := { s.csu with join := .joined },
      tau := { s.tau with alloc := some { alloc with
        engines := #v[{ engine 0 0 with source := .x1 }, engine 1 0, noEngine, noEngine, engine 4 0, noEngine] } },
      piu := { s.piu with engines := updAt s.piu.engines 2 ({ · with retiring := some old }) } }
    u.tau.timer = some 1010000 ∧ u.tau.swapWaiting = false ∧ (engineEntry u 0).source ≠ .own ∧
      (engineEntry u 1).source = .own ∧ (engineEntry u 3).configured = false ∧ (engineEntry u 4).configured = true ∧
      (cycled u).piu.engines[0] = u.piu.engines[0] ∧ (cycled u).piu.engines[1].gear = .neutral ∧
      (cycled u).piu.engines[1].rpm = 300 ∧ (cycled u).piu.engines[2].rpm = 280 ∧
      (cycled u).piu.engines[3] = u.piu.engines[3] ∧ (cycled u).piu.engines[4].rpm = 300 := by
  and_intros <;> decide +kernel

/-! ### A stored ALLOC table (R187) -/

def yes (b : Bool) : List Byte := [boolByte b]
def engineBytes (e : EngineEntry) : List Byte :=
  yes e.configured ++ beBytes 2 e.wt ++ beInt 2 e.wr ++ beBytes 2 e.idle ++ beBytes 2 e.maxAhead ++ beBytes 2 e.maxAstern ++
    beBytes 2 e.shiftLimit ++ beBytes 2 e.shiftDwell ++ beBytes 2 e.slew ++ beBytes 1 e.setNode ++ beBytes 1 e.fbNode ++
    ([match e.source with | .own => 0 | .x1 => 1 | .x2 => 2] : List Byte)
def rudderBytes (r : RudderEntry) : List Byte :=
  yes r.configured ++ beBytes 2 r.gain ++ beBytes 2 r.limit ++ beBytes 2 r.gainAstern ++ beBytes 2 r.slew ++
    beBytes 1 r.setNode ++ beBytes 1 r.fbNode ++ yes r.fromXs
def stationBytes (e : StationEntry) : List Byte :=
  yes e.configured ++ beBytes 1 e.node ++ yes (e.kind == .autopilot) ++ yes e.force
def allocBytes (t : AllocTable) : List Byte :=
  t.engines.toList.flatMap engineBytes ++ t.rudders.toList.flatMap rudderBytes ++ t.stations.toList.flatMap stationBytes ++
    beBytes 2 t.turnLimit ++ t.bandUpper.toList.flatMap (beBytes 1) ++ t.rAhead.toList.flatMap (beBytes 2) ++
    t.rAstern.toList.flatMap (beBytes 2) ++ beBytes 2 t.deltaMin ++ beBytes 2 t.rDown ++ beBytes 2 t.rStop ++
    beBytes 2 t.rTurn ++ beBytes 2 t.cF ++ beBytes 2 t.sMax ++ beBytes 2 t.deadband

/-- A bank with a body, header fields of that CRC and, with `n`, the mark word of that commit number. -/
def bankWith (k : Kind) (body : List Byte) (crc : BitVec 32) (n : Option Nat) : Bank :=
  let cells := memProgramAll (memProgramAll [] 0 (headerBytes k body.length crc)) 32 body
  { Bank.erased with cells := match n with | none => cells | some v => memProgramAll cells 16 (markBytes v) }

/-- The field offsets of section 11.1: the table reads back, and passes its field checks. -/
theorem test_alloc_body_reads_back :
    (allocBytes alloc).length = 207 ∧ decodeAlloc (allocBytes alloc) = alloc ∧
    fieldsOk .alloc none (allocBytes alloc) = true := by decide +kernel

/-- A lead that finds the commit of `new` waiting. -/
def swapping (new : AllocTable) : State :=
  { cruise 600 0 600 0 .available with
    tau := { held.tau with swapWaiting := true },
    nvs := { Nvs.initial with
      banks := Nvs.initial.banks.set 0 (bankWith .alloc (allocBytes new) 0 none),
      active := Nvs.initial.active.set 0 (some false) } }

/-- S0 leaves the table, S1 moves to node 8; E1 keeps its feedback node, E2 changes it, E3 is dropped, X1 comes. -/
def changed : AllocTable :=
  { alloc with
    stations := #v[noStation, station 8 .manual true, station 7 .autopilot false, noStation],
    engines := #v[engine 0 0, { engine 1 0 with fbNode := 50 }, noEngine, engine 3 0, engine 4 0, noEngine] }

/-- R1, R24, R46: one change of each kind. -/
theorem witness_AllocSwapTakesTable :
    let s := swapping changed
    s.power = .run ∧ s.tau.timer = some 1010000 ∧ s.tau.swapWaiting = true ∧ activeAlloc s = some changed ∧
      allocOf s = some alloc ∧ (∀ i : Fin 4, s.csu.stations[i].state = .inCommand ↔ s.csu.inCommand = some i) ∧
      (∀ i : Fin 4, s.csu.stations[i].state = .requesting ↔ s.csu.request = some i) ∧ s.csu.inCommand = some 0 ∧
      allocOf { s with tau := { s.tau with alloc := some changed } } = some changed := by
  decide +kernel

/-- A state with the request of station `q` pending. -/
def asked (q : Fin 4) (s : State) : State :=
  { s with csu := { s.csu with
      stations := updAt s.csu.stations q ({ · with state := .requesting }), request := some q, transfer := some 2000000 } }

/-- The station, outcome and detail of each STATION-STATUS frame in Q1 of W. -/
def statuses (s : State) : List (List Byte) :=
  (s.pcw.tx[1].map (·.frame)).filterMap fun f =>
    if f.cls = 12 ∧ f.kind = 1 then some (f.payload.take 1 ++ f.payload.drop 5) else none

/-- R1: the holder S0 and the requester S1 are both removed. -/
theorem witness_AllocSwapTakesTable_requester :
    let s := asked 1 (swapping changed)
    stationReplaced s 0 = true ∧ stationReplaced s 1 = true ∧ (cycled s).csu.request = none ∧
      statuses (cycled s) = [[1, outcomeByte .cancelled, 255], [0, outcomeByte .removed, 255], [1, outcomeByte .removed, 255]] := by
  decide +kernel

/-- R1, R90: the holder is removed with an arm pending, its requester S2 stays. -/
theorem witness_AllocSwapTakesTable_holder :
    let s := { asked 2 (swapping changed) with cmu := { held.cmu with release := .armed 0 3 52 9000000 } }
    let t := cycled s
    stationReplaced s 2 = false ∧ holderReplaced s = true ∧ t.csu.request = none ∧ t.csu.stations[2].state = .present ∧
      t.cmu.release = .idle ∧ statuses t = [[2, outcomeByte .cancelled, 255], [0, outcomeByte .removed, 255],
        [0, outcomeByte .armCancelled, 3], [1, outcomeByte .removed, 255]] := by
  decide +kernel

/-- R1: the holder stays and turns AUTOPILOT; the requester alone is removed. -/
theorem witness_AllocSwapTakesTable_autopilot :
    let s := asked 1 (swapping { alloc with stations := changed.stations.set 0 (station 5 .autopilot false) })
    let t := cycled s
    stationReplaced s 0 = false ∧ requestReplaced s = true ∧ t.csu.dAp = 600 ∧ t.csu.inCommand = some 0 ∧
      t.csu.request = none := by
  decide +kernel

/-- R19: a lead in HOLDING finds no X slot. -/
theorem witness_AllocSwapTakesTable_lead :
    let s := { swapping alloc with hlc := linked, csu := { held.csu with join := .holding } }
    let t := cycled s
    losesXSlots s = true ∧ t.csu.join = .localMode ∧ isRaised .helperUnjoined .none t = true ∧
      (t.hlc.queues[1].tx.map (·.frame)) = [unjoinFrame .noXSlot] ∧ statuses t = [[0, outcomeByte .unjoined, 3]] := by
  decide +kernel

/-- R46, R194: a rudder group of each change, the alarms that are cleared, and the response. -/
theorem witness_AllocSwapTakesTable_records :
    let s0 := swapping { changed with rudders := #v[{ group 0 with fbNode := 50 }, noRudder, group 2] }
    let s := { s0 with
      piu := { s0.piu with engines := updAt s0.piu.engines 1 ({ · with avail := .faulted }) },
      mgu := { s0.mgu with
        slot := some ⟨5, .commit .alloc⟩,
        raised := [(.commandStale, .none), (.engineFault, .engine 1), (.rudderLost, .rudder 1), (.rudderFault, .rudder 1),
          (.rudderLost, .rudder 0)] } }
    let t := cycled s
    (t.piu.rudders.map (·.avail)) = #v[.lost, .unconfigured, .lost] ∧ t.piu.rudders[1].angle = none ∧
      t.piu.rudders[0].timer = s.piu.rudders[0].timer ∧ t.piu.rudders[2].timer = some 1610000 ∧
      t.mgu.raised = [(.rudderLost, .rudder 0)] ∧ t.mgu.slot = none ∧
      (t.pcw.tx[1].getLast?.map (·.frame)) = some ⟨9, 5, 12, [0, 128] ++ beBytes 4 (activeCommit s .alloc)⟩ ∧
      t.pcw.tx[1].length < 16 := by
  decide +kernel

/-- What the cycle of `witness_AllocSwapTakesTable` leaves. -/
theorem test_swap_takes_table :
    let t := cycled (swapping changed)
    t.tau.swapWaiting = false ∧ t.csu.inCommand = none ∧ t.csu.stations[0] = Station.initial ∧
      t.csu.stations[1] = Station.initial ∧ t.csu.stations[2] = held.csu.stations[2] ∧
      t.piu.engines[0].avail = .available ∧ t.piu.engines[1].avail = .lost ∧
      t.piu.engines[1].timer = some (1010000 + 600 * Config.usPerMs) ∧
      t.piu.engines[2].retiring = some (engine 2 150) ∧ t.piu.engines[4].avail = .lost := by
  decide +kernel

/-- `cruise` with E1 in an availability, a count of clean frames and a gear. -/
def fed (x : EngineAvail) (run : Nat) (gear : Gear) : State :=
  let s := cruise 600 0 600 0 .available
  { s with
    piu := { s.piu with engines := updAt s.piu.engines 0 fun r => { r with avail := x, run := run, gear := gear } },
    fau := { s.fau with accounts := updAt s.fau.accounts 0 ({ · with lastFeedback := some 800000, residue := 35999 }) },
    mgu := { s.mgu with
      raised := match x with
        | .lost => [(.engineLost, .engine 0)]
        | .faulted => [(.engineFault, .engine 0)]
        | _ => [] } }

/-- A FUELMAP with tank 2 defined and, where given, the meters of section 6.4. -/
def fuel (meters : List MeterEntry) : FuelMap :=
  { jMax := 20000, cR := 700, lineup := #v[2, 2, 2, 2],
    tanks := Vector.replicate 8 { defined := true, capacity := 40000000, reserve := 5000000, hysteresis := 1000000 },
    meters := meters }

def heardMeter (e : MeterEntry) (x : MeterState) (baseline : Option Nat) : Meter :=
  { entry := e, unused := false, state := x, baseline := baseline, jumps := [], clean := 0, lastReport := none, carry := 0,
    silence := some 5000000 }

/-- R47, R48, R105: each row of the availability machine. -/
theorem witness_EngineFeedbackTaken :
    (let s := fed .available 3 .ahead
     (2 < (3 : Byte).toNat ∧ after (.engineFb 21 0 3 0 0) s = { s with piu := { s.piu with malformedFeedback := 1 } }) ∧
     (∀ i : Fin 6, ¬(((engineEntry s i).configured = true ∨ s.piu.engines[i].retiring ≠ none) ∧
        (engineOf s i).fbNode = (61 : Node).toNat)) ∧
     after (.engineFb 61 0 0 0 0) s = { s with piu := { s.piu with unknownFeedback := 1 } }) ∧
    (let s := fed .available 3 .ahead
     ((engineEntry s 0).configured = true ∧ (engineOf s 0).fbNode = (21 : Node).toNat ∧ (∀ j : Fin 6, j < 0 → False) ∧
        gearOf 1 = some .ahead ∧ s.piu.engines[0].avail ≠ .unconfigured) ∧
     (let t := after (.engineFb 21 700 1 1 1) s
      t.piu.engines[0].avail = .faulted ∧ t.piu.engines[0].gear = .neutral ∧ t.piu.engines[0].run = 0 ∧
        isRaised .engineFault (.engine 0) t = true) ∧
     (let t := after (.engineFb 21 700 1 1 2) s
      t.piu.engines[0].avail = .available ∧ t.piu.engines[0].gear = .ahead ∧ isRaised .engineWarning (.engine 0) t = true ∧
        t.piu.engines[0].timer = some 1600000)) ∧
    (let s := fed .lost 0 .neutral
     s.piu.engines[0].avail = .lost ∧ (after (.engineFb 21 300 0 1 0) s).piu.engines[0].avail = .rejoining ∧
      (after (.engineFb 21 300 0 1 0) s).piu.engines[0].run = 1 ∧ (after (.engineFb 21 300 1 1 0) s).piu.engines[0].run = 0 ∧
      isRaised .engineLost (.engine 0) (after (.engineFb 21 300 0 1 0) s) = false) ∧
    (let s := fed .faulted 0 .neutral
     s.piu.engines[0].avail = .faulted ∧ (after (.engineFb 21 300 0 1 0) s).piu.engines[0].avail = .rejoining ∧
      isRaised .engineFault (.engine 0) (after (.engineFb 21 300 0 1 0) s) = false ∧
      (after (.engineFb 21 300 0 1 1) s).piu.engines[0].avail = .faulted) ∧
    (let s := fed .rejoining 1 .neutral
     s.piu.engines[0].run + 1 < 3 ∧ (after (.engineFb 21 300 0 1 0) s).piu.engines[0].run = 2 ∧
      (after (.engineFb 21 300 2 1 0) s).piu.engines[0].run = 0) ∧
    (let s := fed .rejoining 2 .neutral
     2 ≤ s.piu.engines[0].run ∧ (after (.engineFb 21 300 0 1 0) s).piu.engines[0].avail = .available ∧
      (after (.engineFb 21 300 0 1 0) s).piu.engines[0].run = 3) ∧
    (let u := fed .available 3 .neutral
     let s := { u with piu := { u.piu with engines := updAt u.piu.engines 0 ({ · with retiring := some (engine 0 0) }) } }
     s.piu.engines[0].retiring ≠ none ∧ (after (.engineFb 21 300 0 1 0) s).piu.engines[0].avail = .unconfigured ∧
      (after (.engineFb 21 300 0 1 0) s).piu.engines[0].retiring = none ∧
      (after (.engineFb 21 300 1 1 0) s).piu.engines[0].retiring = some (engine 0 0)) ∧
    (let u := fed .available 3 .ahead
     let s := { u with fau := { u.fau with table := some (fuel []), lineup := #v[2, 2, 2, 2] } }
     u.fau.table = none ∧ (after (.engineFb 21 700 1 1850 0) u).fau.accounts[0].lastFeedback = some 1000000 ∧
      s.fau.table ≠ none ∧ isMetered s.fau.meters 0 = false ∧
      (after (.engineFb 21 700 1 1850 0) s).fau.accounts[0].total = 11 ∧
      (after (.engineFb 21 700 1 1850 0) s).fau.accounts[0].residue = 9999 ∧
      (after (.engineFb 21 700 1 1850 0) s).fau.tanks[2].balance = -11) ∧
    (let u := fed .available 3 .ahead
     let s := { u with fau := { u.fau with
       table := some (fuel []), meters := [heardMeter ⟨31, .supply 0⟩ .running (some 0)] } }
     isMetered s.fau.meters 0 = true ∧ (after (.engineFb 21 700 1 1850 0) s).fau.accounts[0].total = 0 ∧
      (after (.engineFb 21 700 1 1850 0) s).fau.accounts[0].estimated = 11) := by
  and_intros <;> decide +kernel

/-- `cruise` with RS commanded to an angle, or with an empty slot. -/
def steered (x : Option Int) (dev : Timer) : State :=
  let s := cruise 600 0 600 0 .available
  { s with
    piu := { s.piu with rudders := updAt s.piu.rudders 0 fun r =>
      { r with angle := x, avail := .available, timer := some 1590000, deviation := dev } } }

/-- R61, R62, at a deviation of 50 and 51. -/
theorem witness_RudderFeedbackTaken :
    (let s := steered none none
     let f := fun (kind : BitVec 6) (l : List Byte) => ({ cls := 3, node := 27, kind := kind, payload := l } : Frame)
     (∀ x ∈ [f 0 [], f 3 [], f 1 [0, 0], f 2 [0]],
        after (.malformedFeedback x) s = { s with piu := { s.piu with malformedFeedback := 1 } }) ∧
      (∀ i : Fin 3, ¬((rudderOf s i).configured = true ∧ (rudderOf s i).fbNode = (26 : Node).toNat)) ∧
      after (.rudderFb 26 0) s = { s with piu := { s.piu with unknownFeedback := 1 } } ∧
      (rudderOf s 0).configured = true ∧ (rudderOf s 0).fbNode = (27 : Node).toNat ∧ s.piu.rudders[0].angle = none ∧
      (after (.rudderFb 27 (-20)) s).piu.rudders[0].feedback = some { angle := -20, time := 1000000 }) ∧
    (let s := steered (some 100) none
     (after (.rudderFb 27 49) s).piu.rudders[0].deviation = some 3000000 ∧
      (after (.rudderFb 27 50) s).piu.rudders[0].deviation = none) ∧
    (let s := { steered (some 100) (some 7) with
       mgu := { Mgu.initial with raised := [(.rudderFault, .rudder 0)], sticky := Mgu.initial.sticky.set 7 true } }
     (after (.rudderFb 27 49) s).piu.rudders[0].deviation = some 7 ∧
      isRaised .rudderFault (.rudder 0) (after (.rudderFb 27 49) s) = true ∧
      isRaised .rudderFault (.rudder 0) (after (.rudderFb 27 50) s) = false) := by
  and_intros <;> decide +kernel

theorem witness_FeedbackTimersExpire :
    (let s := fed .available 3 .ahead
     s.piu.engines[0].timer = some 1590000 ∧ (after (.engineFeedbackTimerExpiry 0) s).piu.engines[0].avail = .lost ∧
      (after (.engineFeedbackTimerExpiry 0) s).piu.engines[0].neutralSince = 1590000 ∧
      isRaised .engineLost (.engine 0) (after (.engineFeedbackTimerExpiry 0) s) = true) ∧
    (let s := fed .faulted 0 .neutral
     s.piu.engines[0].timer = some 1590000 ∧
      isRaised .engineFault (.engine 0) (after (.engineFeedbackTimerExpiry 0) s) = false) ∧
    (let s := steered (some 100) (some 2000000)
     s.piu.rudders[0].timer = some 1590000 ∧ (after (.rudderFeedbackTimerExpiry 0) s).piu.rudders[0].avail = .lost ∧
      isRaised .rudderLost (.rudder 0) (after (.rudderFeedbackTimerExpiry 0) s) = true ∧
      s.piu.rudders[0].deviation = some 2000000 ∧ (after (.deviationTimerExpiry 0) s).piu.rudders[0].deviation = none ∧
      isRaised .rudderFault (.rudder 0) (after (.deviationTimerExpiry 0) s) = true) := by
  and_intros <;> decide +kernel

/-- A HELPER whose E1 and RS the lead drives through nodes 40 and 45. -/
def driven (join : JoinState) (x : EngineAvail) (gear : Gear) (cap : Option Nat) : State :=
  let r : EngineRec :=
    { EngineRec.initial with
      avail := x, gear := gear, rpm := 700, filled := true, run := 3, cap := cap,
      feedback := some { feedback 990000 .neutral false with rpm := 400 } }
  let t : AllocTable :=
    { alloc with
      engines := alloc.engines.set 0 { (engine 0 0) with source := .x1, setNode := 40 },
      rudders := alloc.rudders.set 0 { (group 0) with fromXs := true, setNode := 45 } }
  { (helper join) with
    now := 2000000, tau := { held.tau with alloc := some t },
    piu := { Piu.initial with engines := Piu.initial.engines.set 0 r } }

def setpoint (node : Node) (kind : BitVec 6) (l : List Byte) : Instr :=
  .hSetpointFrame { cls := 2, node := node, kind := kind, payload := l }

/-- R58, R59. -/
theorem witness_HelperTakesSetpoints :
    (let s := driven .joined .available .ahead none
     let gone : State := { s with piu := { s.piu with hDiscarded := 1 } }
     s.role = .helper ∧ after (setpoint 40 3 []) s = gone ∧ after (setpoint 40 1 [1, 2, 3, 4]) s = gone ∧
      after (setpoint 45 2 [0, 0, 0]) s = gone ∧ after (setpoint 41 1 [1, 2, 188, 0, 2]) s = gone ∧
      after (setpoint 41 2 [0, 0, 0, 2]) s = gone ∧ after (setpoint 40 1 [1, 2, 188, 0, 1]) s = gone ∧
      after (setpoint 40 1 [3, 2, 188, 0, 3]) s = gone ∧ after (setpoint 45 2 [0, 0, 0, 1]) s = gone) ∧
    (let s := driven .localMode .available .ahead none
     ¬(s.csu.join = .joined ∨ s.csu.join = .holding) ∧ (after (setpoint 40 1 [1, 2, 188, 0, 3]) s).piu.hDiscarded = 1) ∧
    (let s := driven .holding .available .ahead none
     s.csu.join = .holding ∧ (engineEntry s 0).configured = true ∧ (engineEntry s 0).source ≠ .own ∧
      (engineEntry s 0).setNode = (40 : Node).toNat ∧ gearOf 1 = some .ahead ∧
      (after (setpoint 40 1 [1, 2, 188, 0, 2]) s).csu.join = .joined ∧
      (after (setpoint 40 1 [1, 2, 188, 0, 2]) s).csu.setpointLoss = some 2300000 ∧
      (after (setpoint 40 1 [1, 2, 188, 0, 2]) s).piu.engines[0].rpm = 700 ∧
      (after (setpoint 40 1 [1, 9, 0, 0, 2]) s).piu.engines[0].rpm = 1800 ∧
      (after (setpoint 40 1 [0, 2, 188, 0, 3]) s).piu.engines[0].gear = .neutral ∧
      (after (setpoint 40 1 [2, 2, 188, 0, 3]) s).piu.engines[0].gear = .neutral) ∧
    (let s := driven .joined .available .neutral (some 500)
     (after (setpoint 40 1 [2, 9, 0, 0, 3]) s).piu.engines[0].gear = .astern ∧
      (after (setpoint 40 1 [2, 9, 0, 0, 3]) s).piu.engines[0].rpm = 900) ∧
    (let s := { driven .joined .available .neutral none with now := 1999999 }
     (after (setpoint 40 1 [2, 9, 0, 0, 3]) s).piu.engines[0].gear = .neutral) ∧
    (let s := driven .joined .lost .ahead none
     s.piu.engines[0].avail ≠ .available ∧ (after (setpoint 40 1 [1, 2, 188, 0, 3]) s).piu.engines[0].gear = .neutral) ∧
    (let s := driven .joined .available .ahead none
     (rudderOf s 0).configured = true ∧ (rudderOf s 0).fromXs = true ∧ (rudderOf s 0).setNode = (45 : Node).toNat ∧
      (after (setpoint 45 2 [1, 94, 0, 2]) s).piu.rudders[0].angle = some 350 ∧
      (after (setpoint 45 2 [254, 161, 0, 2]) s).piu.rudders[0].angle = some (-350)) := by
  and_intros <;> decide +kernel

/-- R53, R54, with P open, ISOLATED, and the link UP and DOWN. -/
theorem witness_RefreshSendsSlots :
    let u := cruise 600 0 600 0 .available
    let s := { u with
      hlc := linked,
      piu := { u.piu with
        refresh := some 1050000, rudders := updAt u.piu.rudders 0 ({ · with angle := some (-3) }),
        engines := updAt u.piu.engines 4 ({ · with filled := true, rpm := 300, fresh := true, seq := 255 }) } }
    s.piu.refresh = some 1050000 ∧ s.pcp.state ≠ .isolated ∧ s.hlc.state ≠ .down ∧ s.hlc.state ≠ .roleMismatch ∧
      s.hlc.queues[classQueue s .h 2].state ≠ .disabled ∧
      ((after .refreshTimerExpiry s).pcp.tx[1].map (fun e => (e.frame.node, e.frame.payload))) =
        [(11, [1, 1, 107, 0, 0]), (12, [1, 1, 154, 0, 0]), (13, [1, 1, 249, 0, 0]), (14, [1, 2, 40, 0, 0]),
          (17, [255, 253, 0, 0])] ∧
      ((after .refreshTimerExpiry s).hlc.queues[1].tx.map (fun e => e.frame.payload)) = [[0, 1, 44, 255, 1]] ∧
      (after .refreshTimerExpiry s).piu.engines[4].seq = 0 ∧ (after .refreshTimerExpiry s).piu.engines[4].fresh = false ∧
      (after .refreshTimerExpiry s).piu.refresh = some 1150000 ∧
      (let v := { s with pcp := { s.pcp with state := .isolated }, hlc := Hlc.initial }
       v.pcp.state = .isolated ∧ v.hlc.state = .down ∧ (after .refreshTimerExpiry v).pcp.flushDrop = 5 ∧
        (after .refreshTimerExpiry v).hlc.flushDrop = 1 ∧ (after .refreshTimerExpiry v).piu.engines = v.piu.engines) := by
  and_intros <;> decide +kernel

/-- R54: the P queue with room for one frame, the H queue full, and the H queue DISABLED. -/
theorem witness_RefreshSendsSlots_dropped :
    let u := cruise 600 0 600 0 .available
    let e : TxEntry := { frame := unjoinFrame .timeout, origin := .csu }
    let s := { u with
      hlc := { linked with queues := updAt linked.queues 1 ({ · with tx := List.replicate 32 e }) },
      pcp := { u.pcp with tx := u.pcp.tx.set 1 (List.replicate 15 e) },
      piu := { u.piu with
        refresh := some 1050000,
        engines := updAt (u.piu.engines.map ({ · with fresh := true })) 4 ({ · with filled := true, seq := 255 }) } }
    let v := { s with hlc := { linked with queues := updAt linked.queues 1 ({ · with state := .disabled }) } }
    let t := after .refreshTimerExpiry s
    let w := after .refreshTimerExpiry v
    s.piu.refresh = some 1050000 ∧ s.pcp.state ≠ .isolated ∧ s.hlc.queues[classQueue s .h 2].state ≠ .disabled ∧
      v.hlc.queues[classQueue v .h 2].state = .disabled ∧
      (t.piu.engines.map fun r => (r.fresh, r.seq)) =
        #v[(false, 1), (true, 0), (true, 0), (true, 0), (true, 255), (true, 0)] ∧
      t.pcp.tx[1].length = 16 ∧ t.pcp.txDrop[1] = 3 ∧ t.hlc.queues[1].txDrop = 1 ∧ t.hlc.queues[1].tx.length = 32 ∧
      w.hlc.disabledDrop = 1 ∧ w.piu.engines[4].seq = 255 ∧ w.hlc.queues = v.hlc.queues := by
  and_intros <;> decide +kernel

/-! ## Witnesses: chapters 4 and 5 -/

def wire (node a b : Nat) : CouplingEntry :=
  { node := node, unitA := a, unitB := b, kind := .face, limit := 1000, threshold := none, locked := false }

def coupled (node a b : Nat) (x : CouplingState) (t : Option Nat) (missed : Nat) : Coupling :=
  { entry := wire node a b, state := x, tension := t, brake := none, hook := none, missed := missed, good := 0,
    failed := false }

def bargeEntry (id : Nat) : UnitEntry := { id := id, row := 0, column := id, kind := if id = 0 then .ownBoat else .bargeLoaded }

def barge (id : Nat) (attached : Bool) : TowUnit := { entry := bargeEntry id, attached := attached }

/-- Units 0, 1, 2 in a line, the coupling of units 1 and 2 given; S0 in command. -/
def tow (c : Coupling) : State :=
  { held with
    cmu := { Cmu.initial with
      units := [barge 0 false, barge 1 true, barge 2 true], couplings := [coupled 51 0 1 .loaded (some 100) 0, c],
      roundTimer := some 1200000, firstRound := false, nAtt := 2 } }

/-- `tow` with the POLL of its second coupling outstanding, the last of its round. -/
def polled (c : Coupling) : State :=
  let s := tow c
  { s with cmu := { s.cmu with round := some { poll := ⟨1, 52, 4⟩, rest := [] }, answer := some 1015000 } }

/-- R73 to R75, R82 to R84. -/
theorem witness_PollRoundBegins :
    (let s := polled (coupled 52 1 2 .loaded (some 100) 0)
     s.cmu.roundTimer = some 1200000 ∧ s.cmu.round ≠ none ∧ (after .pollRoundTimerExpiry s).cmu.roundOverrun = 1 ∧
      (after .pollRoundTimerExpiry s).cmu.startMarked = true ∧
      (after .pollRoundTimerExpiry s).cmu.roundTimer = some 1450000) ∧
    (let s := tow (coupled 52 1 2 .loaded (some 100) 0)
     let u := { s with cmu := { s.cmu with couplings := [coupled 51 0 1 .released none 0] } }
     u.cmu.round = none ∧ u.cmu.startMarked = false ∧ u.cmu.makeupSwap = false ∧ u.cmu.couplingSwap = false ∧
      u.cmu.firstRound = false ∧ (∀ c ∈ u.cmu.couplings, ¬(c.state ≠ .releasing ∧ c.state ≠ .released)) ∧
      (after .pollRoundTimerExpiry u).cmu.round = none ∧ (after .pollRoundTimerExpiry u).cmu.headroom = 1000) ∧
    (let s := tow (coupled 52 1 2 .silent none 5)
     s.pck.state = .run ∧ s.pck.tx[classQueue s .k 4].length < 16 ∧ s.cmu.couplings[0]?.isSome = true ∧
      (after .pollRoundTimerExpiry s).cmu.round = some { poll := ⟨0, 51, 0⟩, rest := [1] } ∧
      (after .pollRoundTimerExpiry s).cmu.serial = 1 ∧
      ((after .pollRoundTimerExpiry s).pck.tx[1].map (fun e => (e.frame.node, e.frame.kind))) = [(51, 1)]) ∧
    (let s := tow (coupled 52 1 2 .loaded (some 100) 2)
     let u := { s with pck := { s.pck with state := .isolated } }
     u.pck.state ≠ .run ∧ ((after .pollRoundTimerExpiry u).cmu.couplings.map (fun c => (c.state, c.missed))) =
        [(.loaded, 1), (.silent, 3)] ∧ (after .pollRoundTimerExpiry u).cmu.headroom = 250) ∧
    (let s := tow (coupled 52 1 2 .loaded (some 100) 0)
     let u := { s with cmu := { s.cmu with firstRound := true } }
     u.cmu.firstRound = true ∧ u.cmu.recompute = none ∧ (after .pollRoundTimerExpiry u).cmu.firstRound = false ∧
      ((after .pollRoundTimerExpiry u).cmu.recompute.map (·.rebuild)) = some true) ∧
    (let s := tow (coupled 52 1 2 .loaded (some 100) 0)
     let u := { s with
       cmu := { s.cmu with makeupSwap := true, release := .armed 0 1 52 9000000 },
       fau := { s.fau with voyage := { s.fau.voyage with isOpen := true } } }
     u.cmu.makeupSwap = true ∧ u.fau.voyage.isOpen = true ∧ (after .pollRoundTimerExpiry u).cmu.makeupSwap = false ∧
      (after .pollRoundTimerExpiry u).cmu.units = [] ∧ (after .pollRoundTimerExpiry u).cmu.causes.makeupCommit = true ∧
      (after .pollRoundTimerExpiry u).cmu.release = .idle) := by
  and_intros <;> decide +kernel

/-- The body of a COUPLING table with the default parameters (section 11.1). -/
def couplingBytes (l : List CouplingEntry) : List Byte :=
  beBytes 2 50 ++ beBytes 2 500 ++ beBytes 2 250 ++ beBytes 2 150 ++ beBytes 2 250 ++ beBytes 1 l.length ++
    l.flatMap fun e => beBytes 1 e.node ++ beBytes 1 e.unitA ++ beBytes 1 e.unitB ++ [0] ++ beBytes 2 e.limit ++
      beBytes 2 (e.threshold.getD 65535) ++ yes e.locked

/-- A COUPLING commit of the couplings `new` waiting at a part with the couplings `old`, S0 armed on index 1. -/
def recoupling (old : List Coupling) (new : List CouplingEntry) : State :=
  let s := tow (coupled 52 1 2 .loaded (some 100) 0)
  { s with
    cmu := { s.cmu with couplings := old, couplingSwap := true, release := .armed 0 1 52 9000000 },
    nvs := { Nvs.initial with
      banks := Nvs.initial.banks.set 6 (bankWith .coupling (couplingBytes new) 0 none),
      active := Nvs.initial.active.set 3 (some false) } }

/-- R85: node 52 kept under L = 2000 and then under L = 900, 53 new, a RELEASED and a RELEASING coupling kept, 54 dropped. -/
theorem witness_PollRoundBegins_couplingSwap :
    let tight := fun (s : State) => { s with mgu := { s.mgu with raised := [(.couplingHigh, .coupler 52), (.couplingSilent, .coupler 54)] } }
    let entry := fun (n a b l : Nat) => { wire n a b with limit := l }
    let high := coupled 52 1 2 .high (some 900) 2
    let lost := coupled 54 1 3 .silent none 9
    let states := fun s : State => (after .pollRoundTimerExpiry s).cmu.couplings.map fun c => (c.entry.node, c.state, c.tension, c.missed)
    (let s := recoupling [high] []
     s.cmu.round = none ∧ s.cmu.startMarked = false ∧ s.cmu.makeupSwap = false ∧ s.cmu.couplingSwap = true ∧
      s.pck.state = .run ∧ s.pck.tx[classQueue s .k 4].length < 16) ∧
    (let s := tight (recoupling [high, lost] [entry 52 1 2 2000, entry 53 2 3 1000])
     let t := after .pollRoundTimerExpiry s
     states s = [(52, .loaded, some 900, 2), (53, .slack, none, 0)] ∧ t.mgu.raised = [] ∧ t.cmu.release = .idle ∧
      t.cmu.couplingSwap = false ∧ (t.cmu.round.map (·.poll)) = some ⟨0, 52, 0⟩ ∧ (t.cmu.recompute.map (·.rebuild)) = some true) ∧
    (let s := recoupling [high, lost] [entry 52 1 2 899]
     states s = [(52, .over, some 900, 2)] ∧ isRaised .couplingOver (.coupler 52) (after .pollRoundTimerExpiry s) = true) ∧
    states (recoupling [coupled 52 1 2 .released (some 900) 2] [entry 52 1 2 1000]) = [(52, .slack, none, 0)] ∧
    states (recoupling [coupled 52 1 2 .loaded (some 900) 2] [entry 52 1 3 1000]) = [(52, .slack, none, 0)] ∧
    (let s := recoupling [high, coupled 54 1 3 .releasing (some 5) 0] [entry 54 1 3 1000]
     let u := { s with cmu := { s.cmu with release := .releasing 0 1 54 1900000 8 } }
     let v := { u with
       nvs := Nvs.initial,
       cmu := { u.cmu with recompute := some ⟨[], [], [], [], false⟩ } }
     let t := after .pollRoundTimerExpiry v
     (after .pollRoundTimerExpiry u).cmu.release = .releasing 0 0 54 1900000 8 ∧
      states u = [(54, .releasing, some 5, 0)] ∧ (after .pollRoundTimerExpiry u).cmu.round = none ∧
      t.cmu.couplings = [] ∧ t.cmu.release = .idle ∧ t.cmu.recomputePending = true ∧
      t.pcw = (reportStatus (some 0) .armCancelled 1 v).pcw) := by
  and_intros <;> decide +kernel

/-- R84, R194: unit 2 leaves the list with its BREAKAWAY, unit 1 stays with its own; the commits of both kinds are answered. -/
theorem witness_PollRoundBegins_answers :
    let s0 := tow (coupled 52 1 2 .loaded (some 100) 0)
    let s := { s0 with
      cmu := { s0.cmu with makeupSwap := true },
      mgu := { s0.mgu with slot := some ⟨5, .commit .makeup⟩, raised := [(.breakaway, .unit 1), (.breakaway, .unit 2)] },
      nvs := { Nvs.initial with
        banks := Nvs.initial.banks.set 4 (bankWith .makeup [2, 0, 0, 0, 0, 1, 0, 1, 2] 0 (some 7)),
        active := Nvs.initial.active.set 2 (some false) } }
    let t := after .pollRoundTimerExpiry s
    let v0 := recoupling [] [wire 52 1 2]
    let v := { v0 with mgu := { v0.mgu with slot := some ⟨5, .commit .coupling⟩ } }
    let w := after .pollRoundTimerExpiry v
    s.cmu.round = none ∧ s.cmu.makeupSwap = true ∧ s.cmu.couplingSwap = false ∧ s.pck.state = .run ∧
      s.pck.tx[classQueue s .k 4].length < 16 ∧ s.pcw.state ≠ .isolated ∧
      (t.cmu.units.map (·.entry.id)) = [0, 1] ∧ t.mgu.raised = [(.breakaway, .unit 1)] ∧ t.mgu.slot = none ∧
      (t.pcw.tx[1].getLast?.map (·.frame)) = some ⟨9, 5, 12, [0, 128, 0, 0, 0, 7]⟩ ∧
      w.mgu.slot = none ∧
      (w.pcw.tx[1].getLast?.map (·.frame)) = some ⟨9, 5, 12, [0, 128] ++ beBytes 4 (activeCommit v .coupling)⟩ := by
  and_intros <;> decide +kernel

/-- Section 4.9: L = 1500 and t = 1130 give 246; L = 1000 and t = 0 give 1000; a SILENT coupling bounds at 250. -/
theorem test_headroom_of_the_spec :
    (let c := coupled 52 1 2 .high (some 1130) 0
     headroomOf { Cmu.initial with couplings := [{ c with entry := { c.entry with limit := 1500 } }] } = 246) ∧
    headroomOf { Cmu.initial with couplings := [coupled 52 1 2 .slack (some 0) 0] } = 1000 ∧
    headroomOf { Cmu.initial with couplings := [coupled 52 1 2 .silent (some 0) 3] } = 250 := by
  decide +kernel

/-- The state of the second coupling after a REPORT. -/
def reported (c : Coupling) (t : BitVec 16) (x : Byte) : Option CouplingState :=
  ((after (.report 52 t x) (polled c)).cmu.couplings[1]?).map (·.state)

/-- R68 to R72 at L = 1000: SLACK below 50, HIGH above 800, OVER above 1000; parting from 500 on. -/
theorem witness_ReportMovesCoupling :
    (let s := tow (coupled 52 1 2 .loaded (some 100) 0)
     s.cmu.round = none ∧ (after (.report 52 100 0) s).cmu.unsolicitedReport = 1 ∧
      (after (.report 51 100 0) (polled (coupled 52 1 2 .loaded (some 100) 0))).cmu.unsolicitedReport = 1) ∧
    (let s := polled (coupled 52 1 2 .loaded (some 100) 0)
     let f := fun (kind : BitVec 6) (l : List Byte) => ({ cls := 4, node := 52, kind := kind, payload := l } : Frame)
     (∀ x ∈ [f 1 [], f 2 [0, 0], f 4 []],
        after (.malformedReport x) s = { s with cmu := { s.cmu with malformedReport := 1 } }) ∧
      s.cmu.round = some { poll := ⟨1, 52, 4⟩, rest := [] } ∧ (52 : Node).toNat = 52 ∧ s.cmu.startMarked = false) ∧
    (let c := coupled 52 1 2 .loaded (some 499) 2
     reported c 49 0 = some .slack ∧ reported c 50 0 = some .loaded ∧ reported c 800 0 = some .loaded ∧
      reported c 801 0 = some .high ∧ reported c 1000 0 = some .high ∧ reported c 1001 0 = some .over) ∧
    (let s := polled (coupled 52 1 2 .silent none 7)
     (after (.report 52 900 0) s).cmu.couplings[1]? =
        some { coupled 52 1 2 .high (some 900) 0 with brake := some false, hook := some false } ∧
      isRaised .couplingHigh (.coupler 52) (after (.report 52 900 0) s) = true ∧
      isRaised .couplingOver (.coupler 52) (after (.report 52 5000 0) s) = true ∧
      (after (.report 52 5000 0) s).cmu.tensionClamp = 1 ∧ (after (.report 52 4000 0) s).cmu.tensionClamp = 0) ∧
    (let s := polled (coupled 52 1 2 .loaded (some 500) 0)
     reported (coupled 52 1 2 .loaded (some 500) 0) 49 0 = some .parted ∧
      reported (coupled 52 1 2 .loaded (some 500) 0) 50 0 = some .loaded ∧
      isRaised .couplingParted (.coupler 52) (after (.report 52 0 0) s) = true ∧
      ((after (.report 52 0 0) s).cmu.recompute.map (·.lossSet)) = some [52] ∧
      (after (.report 52 0 0) { s with cmu := { s.cmu with recompute := some ⟨[], [], [], [], false⟩ } }).cmu.recomputePending =
        true) ∧
    (let c := fun (good : Nat) => { coupled 52 1 2 .parted (some 0) 0 with good := good }
     reported (c 1) 50 2 = some .parted ∧ reported (c 2) 50 2 = some .loaded ∧ reported (c 2) 50 0 = some .parted ∧
      ((after (.report 52 49 2) (polled (c 2))).cmu.couplings[1]?.map (·.good)) = some 0 ∧
      (after (.report 52 50 2) (polled (c 2))).cmu.recompute ≠ none) ∧
    reported (coupled 52 1 2 .releasing (some 0) 0) 1001 0 = some .releasing := by
  and_intros <;> decide +kernel

/-- R71: the third poll missed in a row. -/
theorem witness_MissedPollMovesCoupling :
    let silent := fun c => ((after .pollAnswerTimerExpiry (polled c)).cmu.couplings[1]?).map fun x => (x.state, x.missed, x.good)
    (let s := polled (coupled 52 1 2 .high (some 900) 2)
     let u := { s with mgu := { s.mgu with raised := [(.couplingHigh, .coupler 52)] } }
     s.cmu.answer = some 1015000 ∧ s.cmu.round = some { poll := ⟨1, 52, 4⟩, rest := [] } ∧ s.cmu.startMarked = false ∧
      isRaised .couplingSilent (.coupler 52) (after .pollAnswerTimerExpiry u) = true ∧
      isRaised .couplingHigh (.coupler 52) (after .pollAnswerTimerExpiry u) = false ∧
      (after .pollAnswerTimerExpiry u).cmu.headroom = 250) ∧
    silent (coupled 52 1 2 .loaded (some 100) 1) = some (.loaded, 2, 0) ∧
    silent (coupled 52 1 2 .loaded (some 100) 2) = some (.silent, 3, 0) ∧
    silent (coupled 52 1 2 .silent (some 100) 255) = some (.silent, 255, 0) ∧
    silent { coupled 52 1 2 .parted (some 100) 4 with good := 2 } = some (.parted, 5, 0) ∧
    silent (coupled 52 1 2 .releasing (some 100) 1) = some (.releasing, 1, 0) := by
  and_intros <;> decide +kernel

/-- R76 to R79: unit 2 breaks away when its only coupling has parted; with a request pending one more recompute starts. -/
theorem witness_RecomputeCompletes :
    (let s := tow (coupled 52 1 2 .loaded (some 100) 0)
     s.cmu.recompute = none ∧ after .recomputeCompletion s = s) ∧
    (let s := tow (coupled 52 1 2 .parted (some 0) 0)
     let r : Recompute :=
       { units := s.cmu.units.map (·.entry), couplings := s.cmu.couplings.map (fun x => (x.entry, x.state)), lossSet := [52],
         releaseSet := [], rebuild := false }
     let u := { s with cmu := { s.cmu with recompute := some r } }
     let t := after .recomputeCompletion u
     u.cmu.recompute = some r ∧ u.cmu.recomputePending = false ∧ t.cmu.recompute = none ∧ t.cmu.nAtt = 1 ∧
      t.cmu.causes.breakaway = true ∧ isRaised .breakaway (.unit 2) t = true ∧ isRaised .breakaway (.unit 1) t = false ∧
      (t.cmu.breakaways.map (·.id)) = [2] ∧ (t.cmu.units.map (·.attached)) = [true, true, false] ∧
      (let v := after .recomputeCompletion { u with cmu := { u.cmu with recomputePending := true, lossSet := [51] } }
       (v.cmu.recompute.map (·.lossSet)) = some [51] ∧ v.cmu.lossSet = [] ∧ v.cmu.recomputePending = false) ∧
      (let full := fun (n : Nat) => (List.range n).map fun i => ({ id := i + 3, row := 0, column := 0, kind := .bargeLoaded } : UnitEntry)
       let v := fun (n : Nat) => after .recomputeCompletion { u with cmu := { u.cmu with breakaways := full n } }
       (v 46).cmu.breakaways.length = 47 ∧ (v 47).cmu.breakaways = full 47 ∧ (v 47).cmu.causes.breakaway = true ∧
        isRaised .breakaway (.unit 2) (v 47) = true) ∧
      (let v := after .recomputeCompletion { u with cmu := { u.cmu with recompute := some { r with rebuild := true } } }
       v.cmu.causes.breakaway = false ∧ v.cmu.nAtt = 1)) := by
  and_intros <;> decide +kernel

/-- R88 to R90. -/
theorem witness_ReleaseArmRows :
    let s := tow (coupled 52 1 2 .loaded (some 100) 0)
    let arm : State := { s with cmu := { s.cmu with release := .armed 0 1 52 9000000 } }
    let f := fun (kind : BitVec 6) (l : List Byte) => ({ cls := 6, node := 5, kind := kind, payload := l } : Frame)
    findStation s 9 = none ∧ (after (.releaseArm 9 1) arm).cmu.release = .idle ∧
    findStation s 6 = some 1 ∧ s.csu.inCommand ≠ some 1 ∧ (after (.releaseArm 6 1) arm).cmu.release = .idle ∧
    findStation s 5 = some 0 ∧ s.csu.inCommand = some 0 ∧ (after (.releaseArm 5 1) arm).cmu.release = .idle ∧
    after (.releaseArm 5 2) s = reportStatus (some 0) .state 2 s ∧
    (after (.releaseArm 5 1) (tow (coupled 52 1 2 .high (some 900) 0))).cmu.release = .idle ∧
    (let c := coupled 52 1 2 .loaded (some 100) 0
     let v := tow { c with entry := { c.entry with locked := true } }
     after (.releaseArm 5 1) v = reportStatus (some 0) .locked 1 v) ∧
    (after (.releaseArm 5 1) s).cmu.release = .armed 0 1 52 11000000 ∧
    (∀ x ∈ [f 3 [1], f 1 [1, 2], f 2 [1]], findStation s x.node = some 0 ∧ x.payload.headD 255 = 1 ∧
      (after (.releaseFrameUnknownKind x) arm).cmu.release = .idle) ∧
    arm.cmu.release = .armed 0 1 52 9000000 ∧ (after .armTimerExpiry arm).cmu.release = .idle ∧
    (after .armTimerExpiry arm).now = 9000000 ∧ after .armTimerExpiry s = s := by
  and_intros <;> decide +kernel

/-- R91: limit 1000 gives the threshold 100; the thrust limit is 150. -/
theorem witness_ReleaseGoRows :
    let base := fun (x : CouplingState) (t : Option Nat) (d : Int) =>
      let s := tow (coupled 52 1 2 x t 0)
      { s with cmu := { s.cmu with release := .armed 0 1 52 9000000, serial := 8 }, tau := { s.tau with dEff := d } }
    let go := fun (s : State) => (after (.releaseGo 5 1 254) s).cmu.release
    (∀ n ∈ [(9 : Node), 6], (after (.releaseGo n 1 254) (base .loaded (some 100) 0)).cmu.release = .idle ∧
      (after (.releaseGo n 1 254) (base .loaded (some 100) 0)).pcw.tx[1].length = 2) ∧
    findStation held 9 = none ∧ findStation held 6 = some 1 ∧ held.csu.inCommand ≠ some 1 ∧
    (let s := tow (coupled 52 1 2 .loaded (some 100) 0)
     findStation s 5 = some 0 ∧ s.csu.inCommand = some 0 ∧ s.cmu.release = .idle ∧
      after (.releaseGo 5 1 254) s = reportStatus (some 0) .notArmed 1 s) ∧
    (after (.releaseGo 5 2 253) (base .slack (some 0) 0)).cmu.release = .idle ∧
    (after (.releaseGo 5 1 253) (base .slack (some 0) 0)).cmu.release = .idle ∧
    go (base .high (some 0) 0) = .idle ∧
    go { base .slack (some 0) 0 with pck := { PortCtl.initial with state := .restart } } = .idle ∧
    go (base .loaded (some 101) 0) = .idle ∧ go (base .loaded none 0) = .idle ∧ go (base .loaded (some 100) 151) = .idle ∧
    (base .loaded (some 100) (-150)).cmu.release = .armed 0 1 52 9000000 ∧
    go (base .loaded (some 100) (-150)) = .releasing 0 1 52 3000000 8 ∧
    ((after (.releaseGo 5 1 254) (base .loaded (some 100) 150)).pck.tx[1].map (fun e => (e.frame, e.origin))) =
      [({ cls := 4, node := 52, kind := 3, payload := [203] }, .cmuRelease 8)] ∧
    ((after (.releaseGo 5 1 254) (base .loaded (some 100) 150)).cmu.couplings.map (·.state)) = [.loaded, .releasing] ∧
    (let e : TxEntry := { frame := { cls := 4, node := 1, kind := 1, payload := [] }, origin := .fsw }
     let s := { base .loaded (some 100) 150 with
       pck := { PortCtl.initial with tx := PortCtl.initial.tx.set 1 (List.replicate 16 e) } }
     16 ≤ s.pck.tx[classQueue s .k 4].length ∧ go s = .idle ∧
      isRaised .releaseFailed (.coupler 52) (after (.releaseGo 5 1 254) s) = true) := by
  and_intros <;> decide +kernel

/-- R93 to R95. -/
theorem witness_ReleaseEnds :
    let u := tow { coupled 52 1 2 .releasing (some 801) 3 with good := 1 }
    let s := { u with cmu := { u.cmu with release := .releasing 0 1 52 1900000 8 } }
    let states := fun (c : Instr) (s : State) => (after c s).cmu.couplings.map fun x => (x.state, x.failed, x.missed, x.good)
    (after (.releaseDone 52 3) s = { s with cmu := { s.cmu with malformedReport := 1 } }) ∧
    s.cmu.release = .releasing 0 1 52 1900000 8 ∧
    states (.releaseDone 52 2) s = [(.loaded, false, 0, 0), (.high, true, 0, 0)] ∧
    isRaised .releaseFailed (.coupler 52) (after (.releaseDone 52 2) s) = true ∧
    states .releaseAnswerTimerExpiry s = [(.loaded, false, 0, 0), (.high, true, 0, 0)] ∧
    states (.releaseDone 52 1) s = [(.loaded, false, 0, 0), (.released, false, 3, 1)] ∧
    (after (.releaseDone 52 1) s).cmu.release = .idle ∧ (after (.releaseDone 52 1) s).cmu.recompute ≠ none ∧
    after .releaseAnswerTimerExpiry u = u ∧
    (after (.releaseDone 51 2) s).cmu.unsolicitedReport = 1 ∧ (after (.releaseDone 51 1) s).cmu.unsolicitedReport = 1 ∧
    (let v := tow { coupled 52 1 2 .high (some 801) 0 with failed := true }
     (v.cmu.couplings[1]?.map (·.failed)) = some true ∧ isHolding .high = true ∧
      states (.releaseDone 52 1) v = [(.loaded, false, 0, 0), (.released, false, 0, 0)]) := by
  and_intros <;> decide +kernel

/-! ## Witnesses: chapters 6 and 7 -/

/-- A part with FUELMAP loaded: E1 to E4 draw from tank 2, which holds 30,000,000 ml; the given meters. -/
def fuelled (l : List Meter) : State :=
  { held with
    fau := { Fau.initial with
      table := some (fuel (l.map (·.entry))), meters := l, lineup := #v[2, 2, 2, 2],
      tanks := Fau.initial.tanks.set 2 { balance := 30000000, state := .normal, overfull := false },
      accounts := updAt Fau.initial.accounts 0 ({ · with total := 1000000 }),
      voyage := { number := 7, isOpen := true, opening := 31000000, bunkered := 0 },
      windowTimer := some 60000000, checkpointTimer := some 61000000 } }

def one (x : MeterState) (baseline : Option Nat) : State := fuelled [heardMeter ⟨31, .supply 0⟩ x baseline]

/-- The state, baseline, clean count and number of jumps of the first meter. -/
def meterAfter (c : Instr) (s : State) : Option (MeterState × Option Nat × Nat × Nat) :=
  (after c s).fau.meters[0]?.map fun m => (m.state, m.baseline, m.clean, m.jumps.length)

/-- R97 to R99, at a delta of J_max = 20000 and one more, and at the thirtieth clean report. -/
theorem witness_MeterReportRows :
    (let s := one .running (some 0)
     (∀ m ∈ s.fau.meters, ¬(m.unused = false ∧ m.entry.node = (30 : Node).toNat)) ∧
      after (.meter 30 1 150 0) s = { s with fau := { s.fau with unknownMeter := 1 } } ∧
      (let f : Frame := { cls := 5, node := 31, kind := 1, payload := [] }
       f.payload.length ≠ 7 ∧ after (.malformedMeter f) s = { s with fau := { s.fau with malformedMeter := 1 } })) ∧
    (let s := one .running (some 0)
     s.fau.meters[0]? = some (heardMeter ⟨31, .supply 0⟩ .running (some 0)) ∧ (31 : Node).toNat = 31 ∧
      meterAfter (.meter 31 5 150 1) s = some (.fault, some 5, 0, 0) ∧
      isRaised .meterFault (.meter 31) (after (.meter 31 5 150 1) s) = true ∧
      meterAfter (.meter 31 5 150 2) s = some (.running, some 5, 0, 0) ∧
      meterAfter (.meter 31 20000 150 0) s = some (.running, some 20000, 0, 0) ∧
      meterAfter (.meter 31 20001 150 0) s = some (.running, some 20001, 0, 1) ∧
      (after (.meter 31 20001 150 0) s).fau.jump = 1) ∧
    meterAfter (.meter 31 5 150 1) (one .fault (some 0)) = some (.fault, some 5, 0, 0) ∧
    meterAfter (.meter 31 5 150 0) (one .unseen none) = some (.running, some 5, 0, 0) ∧
    (let m := heardMeter ⟨31, .supply 0⟩ .running (some 0)
     let s := fuelled [{ m with jumps := [5, 6] }]
     meterAfter (.meter 31 20001 150 0) s = some (.fault, some 20001, 0, 0) ∧
      isRaised .meterFault (.meter 31) (after (.meter 31 20001 150 0) s) = true ∧
      (after (.jumpListAgeOut 0) s).fau.meters.map (·.jumps) = [[6]]) ∧
    (let m := heardMeter ⟨31, .supply 0⟩ .fault (some 0)
     let s := fuelled [{ m with clean := 28 }]
     let u := { fuelled [{ m with clean := 29 }] with mgu := { Mgu.initial with raised := [(.meterFault, .meter 31)] } }
     meterAfter (.meter 31 5 150 0) s = some (.fault, some 5, 29, 0) ∧
      meterAfter (.meter 31 20001 150 0) s = some (.fault, some 20001, 0, 0) ∧
      meterAfter (.meter 31 5 150 0) u = some (.running, some 5, 30, 0) ∧
      isRaised .meterFault (.meter 31) (after (.meter 31 5 150 0) u) = false) := by
  and_intros <;> decide +kernel

/-- The two meters of section 6.4. -/
def pair : State :=
  fuelled [heardMeter ⟨31, .supply 0⟩ .running (some 4294967000), heardMeter ⟨32, .ret 0⟩ .running (some 41800)]

def booked (s : State) : Int × Int × Int × Int :=
  (s.fau.accounts[0].pendingReturn, s.fau.accounts[0].carry, s.fau.accounts[0].total, s.fau.tanks[2].balance)

/-- Section 6.4, all five steps; section 6.4's estimate, and a transfer between tanks. -/
theorem witness_MeterVolumes :
    (let s1 := after (.meter 32 43000 550 0) pair
     let s2 := after (.meter 31 1704 400 0) s1
     let s3 := after (.meter 32 44000 550 0) s2
     let s4 := after (.meter 31 2204 400 0) s3
     let s5 := after (.meter 31 4204 400 0) s4
     isMetered pair.fau.meters 0 = true ∧ booked s1 = (1159680000, 0, 1000000, 30000000) ∧
      booked s2 = (0, 320000, 1000798, 29999202) ∧ booked s3 = (966400000, 320000, 1000798, 29999202) ∧
      booked s4 = (0, -476580000, 1000798, 29999202) ∧ booked s5 = (0, 420000, 1002279, 29997721)) ∧
    (let s := fuelled [heardMeter ⟨31, .supply 0⟩ .fault (some 0), heardMeter ⟨32, .ret 0⟩ .running (some 0)]
     isMetered s.fau.meters 0 = false ∧ (after (.meter 32 100 150 0) s).fau.accounts = s.fau.accounts) ∧
    (let s := fuelled [heardMeter ⟨33, .transfer 2 5⟩ .running (some 0), heardMeter ⟨34, .transfer 2 2⟩ .running (some 0)]
     (after (.meter 33 1000 900 0) s).fau.tanks[2].balance = 29999063 ∧
      (after (.meter 33 1000 900 0) s).fau.tanks[5].balance = 937 ∧
      (after (.meter 33 1000 901 0) s).fau.temperatureClamp = 1 ∧ (after (.meter 33 1000 900 0) s).fau.temperatureClamp = 0 ∧
      (after (.meter 34 1000 900 0) s).fau.tanks = s.fau.tanks) := by
  and_intros <;> decide +kernel

/-- R98, R107, R114, R124, R126, R127. -/
theorem witness_FuelTimersExpire :
    (let s := pair
     s.fau.meters[(0 : Fin 12).val]? = some (heardMeter ⟨31, .supply 0⟩ .running (some 4294967000)) ∧
      meterAfter (.meterSilenceTimerExpiry 0) s = some (.fault, some 4294967000, 0, 0) ∧
      isRaised .meterFault (.meter 31) (after (.meterSilenceTimerExpiry 0) s) = true ∧
      (after (.meterSilenceTimerExpiry 0) s).fau.accounts[0].void = true ∧
      meterAfter (.meterSilenceTimerExpiry 0) (one .fault (some 4)) = some (.fault, some 4, 0, 0)) ∧
    (let s := fun (m e : Int) (n : Nat) (void : Bool) =>
       { pair with fau := { pair.fau with accounts := updAt pair.fau.accounts 0 fun a =>
         { a with metered := m, estimated := e, disagree := n, void := void } } }
     let counts := fun u : State =>
       ((after .fuelWindowTimerExpiry u).fau.accounts[0].disagree, (after .fuelWindowTimerExpiry u).fau.accounts[0].void,
        isRaised .fuelDisagree (.engine 0) (after .fuelWindowTimerExpiry u))
     pair.fau.windowTimer = some 60000000 ∧ counts (s 10000 12001 2 false) = (3, false, true) ∧
      counts (s 10000 12001 1 false) = (2, false, false) ∧ counts (s 10000 12000 2 false) = (0, false, false) ∧
      counts (s 13339 15340 2 false) = (3, false, true) ∧ counts (s 13340 15341 2 false) = (0, false, false) ∧
      counts (s 0 9999 2 true) = (0, false, false)) ∧
    (let s := pair
     s.fau.checkpointTimer = some 61000000 ∧ s.nvs.waiting = none ∧ s.nvs.current = none ∧
      (after .checkpointTimerExpiry s).nvs.current = some ⟨.slotErase, 61060000⟩ ∧
      ((after .checkpointTimerExpiry s).nvs.checkpoint.map fun c => (c.slot, c.seq)) = some (0, 1) ∧
      (let u := { s with nvs := { s.nvs with newest := some ⟨7, 4294967294⟩ } }
       isRaised .storeFail (.slot 0) (after .checkpointTimerExpiry u) = true) ∧
      (let u := { s with nvs := { s.nvs with newest := some ⟨7, 4294967293⟩, current := some ⟨.bankErase ⟨.alloc, true⟩, 61300000⟩ } }
       (after .checkpointTimerExpiry u).nvs.suspended = some ⟨⟨.alloc, true⟩, 300000⟩ ∧
        (after .checkpointTimerExpiry u).nvs.eraseSuspend = 1 ∧
        ((after .checkpointTimerExpiry u).nvs.checkpoint.map fun c => (c.slot, c.seq)) = some (0, 4294967294)) ∧
      (let u := { s with nvs := { s.nvs with current := some ⟨.blankCheck ⟨.alloc, true⟩, 61300000⟩ } }
       (after .checkpointTimerExpiry u).nvs.waiting.isSome = true ∧ (after .checkpointTimerExpiry u).nvs.checkpoint = none) ∧
      (let u := { s with nvs := { s.nvs with waiting := some ⟨snapshotOf s.fau true, true⟩ } }
       (after .checkpointTimerExpiry u).nvs.replacedSnapshot = 1 ∧
        ((after .checkpointTimerExpiry u).nvs.waiting.map fun w => (w.owed, w.snapshot.closing)) = some (true, false))) := by
  and_intros <;> decide +kernel

/-- R108 to R113, R198. -/
theorem witness_AccountRequests :
    (let s := pair
     s.mgu.resetting = false ∧ after (.setLineup 5 0 0) s = respond 5 18 .badArgument [] s ∧
      after (.setLineup 5 5 0) s = respond 5 18 .badArgument [] s ∧ after (.setLineup 5 1 8) s = respond 5 18 .badArgument [] s ∧
      (after (.setLineup 5 1 7) s).fau.lineup = #v[7, 2, 2, 2] ∧ (after (.setLineup 5 4 0) s).fau.lineup = #v[2, 2, 2, 0] ∧
      (after (.setLineup 5 1 7) s).piu.engines[0].lineup = 7) ∧
    (let s := pair
     after (.bunker 5 8 1) s = respond 5 17 .badArgument [] s ∧ after (.bunker 5 2 0) s = respond 5 17 .badArgument [] s ∧
      (after (.bunker 5 2 4294967295) s).fau.tanks[2].balance = 4324967295 ∧
      (after (.bunker 5 2 4294967295) s).fau.voyage.bunkered = 4294967295 ∧
      (after (.bunker 5 2 4294967295) s).fau.tanks[2].overfull = true ∧
      (after (.bunker 5 7 5000000) s).fau.tanks[7].state = .reserve ∧
      (after (.bunker 5 7 6000001) s).fau.tanks[7].state = .normal) ∧
    (let s := pair
     s.fau.voyage.isOpen = true ∧ after (.voyageOpen 5 0 9) s = respond 5 15 .refusedState [] s ∧
      after (.voyageOpen 5 9 0) s = respond 5 15 .badArgument [] s ∧ s.mgu.assembly = none ∧
      after (.voyageOpen 5 1 0) s = respond 5 15 .sequence [] s) ∧
    (let s := { pair with
       fau := { pair.fau with voyage := { pair.fau.voyage with isOpen := false } },
       mgu := { pair.mgu with assembly := some { number := 9, soundings := [1, 2, 3, 4, 5, 6] } } }
     let u := { s with mgu := { s.mgu with assembly := some { number := 9, soundings := [1, 2, 3, 4, 5, 6, 7] } } }
     ((after (.voyageOpen 5 0 9) s).mgu.assembly = some { number := 9, soundings := [] }) ∧
      (after (.voyageOpen 5 7 7) s).mgu.assembly = some { number := 9, soundings := [1, 2, 3, 4, 5, 6, 7] } ∧
      (after (.voyageOpen 5 8 7) s).mgu.assembly = none ∧
      (after (.voyageOpen 5 8 4294967295) u).fau.voyage = { number := 9, isOpen := true, opening := 4294967323, bunkered := 0 } ∧
      (after (.voyageOpen 5 8 4294967295) u).fau.tanks[7].balance = 4294967295 ∧
      (after (.voyageOpen 5 8 4294967295) u).fau.accounts[0].total = 0 ∧
      (let v := { u with fau := { u.fau with voyage := { u.fau.voyage with isOpen := true } } }
       (after (.voyageOpen 5 8 7) v).fau.voyage = v.fau.voyage ∧ (after (.voyageOpen 5 8 7) v).mgu.assembly = none)) ∧
    (let s := pair
     (let u := { s with mgu := { s.mgu with slot := some ⟨6, .loadEnd⟩ } }
      after (.voyageClose 5) u = respond 5 16 .busy [] u) ∧
      (let u := { s with fau := { s.fau with voyage := { s.fau.voyage with isOpen := false } } }
       after (.voyageClose 5) u = respond 5 16 .refusedState [] u) ∧
      (after (.voyageClose 5) s).fau.voyage.isOpen = false ∧ (after (.voyageClose 5) s).mgu.slot = some ⟨5, .voyageClose⟩ ∧
      ((after (.voyageClose 5) s).nvs.checkpoint.map fun c => (c.owed, c.snapshot.closing)) = some (true, true) ∧
      (let u := { s with nvs := { s.nvs with newest := some ⟨7, 4294967294⟩ } }
       (after (.voyageClose 5) u).mgu.slot = none ∧ (after (.voyageClose 5) u).nvs.checkpoint = none) ∧
      (let u := { s with nvs := { s.nvs with current := some ⟨.blankCheck ⟨.alloc, true⟩, 61300000⟩ } }
       (after (.voyageClose 5) u).nvs.waiting = some { snapshot := snapshotOf (after (.voyageClose 5) u).fau true, owed := true })) := by
  and_intros <;> decide +kernel

/-- The limits of a record: the 48-bit ends, the highest number and sequence. -/
theorem witness_CheckpointRecordRoundTrip :
    let p : Snapshot :=
      { number := 65535, isOpen := true, opening := 140737488355327, bunkered := -140737488355328,
        balances := #v[-140737488355328, 140737488355327, 0, -1, 1, 5, 6, 7], totals := #v[140737488355327, -140737488355328, -1, 0],
        lineup := #v[0, 7, 3, 4], sat := true, closing := false }
    (4294967294 : Nat) ≤ 4294967294 ∧ p.number < 65536 ∧ -140737488355328 ≤ p.bunkered ∧ p.opening ≤ 140737488355327 ∧
      (∀ i : Fin 8, -140737488355328 ≤ p.balances[i] ∧ p.balances[i] ≤ 140737488355327) ∧
      (∀ e : Fin 4, -140737488355328 ≤ p.totals[e] ∧ p.totals[e] ≤ 140737488355327) ∧
      slotSnapshot { cells := memProgramAll [] 0 (recordHead p 4294967294), torn := false } = p ∧
      slotSeq { cells := memProgramAll [] 0 (recordHead p 4294967294), torn := false } = 4294967294 := by
  and_intros <;> decide +kernel

/-! ### A checkpoint slot and stored banks -/

/-- Bytes 0 to 94 of a record of sequence 9 with the closing flag, its other fields left erased. -/
def closedRecord : List Byte := [0, 0, 0, 9, 255, 255, 4] ++ List.replicate 12 255 ++ List.replicate 19 255 ++
  List.replicate 19 255 ++ List.replicate 19 255 ++ List.replicate 19 255

def closedSlot : Slot :=
  { cells := [(0, 0), (1, 0), (2, 0), (3, 9), (6, 4), (252, 193), (253, 23), (254, 12), (255, 143)], torn := false }

/-- The CRC-32 of R187 over those bytes, worked out outside the model. -/
theorem test_crc_of_record : crc32 closedRecord = 0xc1170c8f#32 := by
  have a : crc32Run crc32Preset ([0, 0, 0, 9, 255, 255, 4] ++ List.replicate 12 255) = 0x8c6923f3#32 := by decide +kernel
  have b : crc32Run 0x8c6923f3#32 (List.replicate 19 255) = 0xad3dadff#32 := by decide +kernel
  have c : crc32Run 0xad3dadff#32 (List.replicate 19 255) = 0xd62aa08b#32 := by decide +kernel
  have d : crc32Run 0xd62aa08b#32 (List.replicate 19 255) = 0xd70488d6#32 := by decide +kernel
  have e : crc32Run 0xd70488d6#32 (List.replicate 19 255) = 0x3ee8f370#32 := by decide +kernel
  have app : ∀ r l m, crc32Run r (l ++ m) = crc32Run (crc32Run r l) m := fun r l m => by
    simp only [crc32Run, List.foldl_append]
  rw [crc32, closedRecord, app, app, app, app, a, b, c, d, e]
  decide

theorem test_closed_slot_valid : slotValid closedSlot = true := by
  have h : memBytes closedSlot.cells 0 95 = closedRecord := by decide +kernel
  rw [slotValid, h, test_crc_of_record]
  decide +kernel

/-- R187: the CRC-32 check value of this generator, preset and complement over "123456789". -/
theorem test_crc32_check_value : crc32 [49, 50, 51, 52, 53, 54, 55, 56, 57] = 0xfc891918#32 := by decide +kernel

/-- The body of a MAKEUP table that holds unit 0 alone, and its CRC. -/
def ownBoat : List Byte := [1, 0, 0, 0, 0]

def stored (n : Nat) : Bank := bankWith .makeup ownBoat (crc32 ownBoat) (some n)

/-- A part in its scan, with MAKEUP banks A and B. -/
def scanning (a b : Bank) (slots : Vector Slot 8) (flag : LockFlag) : State :=
  { State.reset with
    power := .scan,
    nvs := { Nvs.initial with
      banks := (Nvs.initial.banks.set 4 a).set 5 b, slots := slots, flags := Nvs.initial.flags.set 5 flag } }

/-- R130 to R132: no candidate, one, the higher number, A at equal numbers; a valid slot with the closing flag. -/
theorem witness_ScanTakesStore :
    (let s := scanning Bank.erased { stored 3 with markTorn := true } Nvs.initial.slots .partly
     s.power = .scan ∧ s.resetPin = false ∧ bankCandidate .makeup s.nvs.banks[bankIx ⟨.makeup, false⟩] = false ∧
      bankCandidate .makeup s.nvs.banks[bankIx ⟨.makeup, true⟩] = false ∧
      (scanStore s.nvs).active[kindIx .makeup] = none ∧ (scanStore s.nvs).locked[(5 : Fin 10)] = true ∧
      (scanStore s.nvs).locked[(4 : Fin 10)] = false ∧ newestSlot s.nvs.slots = none) ∧
    (let s := scanning Bank.erased (stored 3) Nvs.initial.slots .erased
     bankCandidate .makeup s.nvs.banks[bankIx ⟨.makeup, true⟩] = true ∧
      (scanStore s.nvs).active[kindIx .makeup] = some true) ∧
    (let s := scanning (stored 3) (stored 4) Nvs.initial.slots .erased
     bankCandidate .makeup s.nvs.banks[bankIx ⟨.makeup, false⟩] = true ∧
      bankCommit s.nvs.banks[bankIx ⟨.makeup, true⟩] = 4 ∧ (scanStore s.nvs).active[kindIx .makeup] = some true) ∧
    (let s := scanning (stored 4) (stored 4) Nvs.initial.slots .erased
     (scanStore s.nvs).active[kindIx .makeup] = some false) := by
  and_intros <;> decide +kernel

theorem witness_ScanTakesStore_recovered :
    let slots := Nvs.initial.slots.set 3 closedSlot
    (scanning Bank.erased Bank.erased slots .erased).nvs.slots = slots ∧ newestSlot slots = some ⟨3, 9⟩ ∧
      (slotSnapshot closedSlot).closing = true := by
  have h : ∀ i : Fin 8, slotValid (Nvs.initial.slots.set 3 closedSlot)[i] = decide (i = 3) := by
    intro i
    by_cases e : i = 3
    · subst e; exact test_closed_slot_valid
    · have : (Nvs.initial.slots.set 3 closedSlot)[i] = Slot.erased := by revert i; decide
      rw [this]; simp only [e, decide_false]; decide +kernel
  refine ⟨rfl, ?_, by decide +kernel⟩
  simp only [newestSlot, show List.finRange 8 = [0, 1, 2, 3, 4, 5, 6, 7] from by decide, List.foldl, h]
  decide +kernel

/-- R130, R133, R199. -/
theorem witness_SupplyAndResetBegin :
    (let s := { calm with power := .off }
     s.power = .off ∧ (after (.supplyOn .helper) s).power = .scan ∧ (after (.supplyOn .helper) s).role = .helper ∧
      after .supplyLoss s = s ∧ calm.power ≠ .off ∧ after (.supplyOn .helper) calm = calm ∧ calm.nvs.current = none ∧ calm.nvs.suspended = none ∧
      (after .supplyLoss pair).power = .off ∧ (after .supplyLoss pair).fau = Fau.initial) ∧
    (calm.power = .run ∧ (after .resetPinAssert pair).power = .coreReset ∧ (after .resetPinAssert pair).resetPin = true ∧
      (after .resetPinAssert pair).fau.voyage = pair.fau.voyage ∧ (after .resetPinAssert pair).csu = Csu.initial) ∧
    (let s := { calm with power := .scan }
     s.power ≠ .run ∧ (after .resetPinAssert s).power = .scan ∧ (after .resetPinAssert s).resetPin = true ∧
      (after .resetPinRelease { s with resetPin := true }).resetPin = false) := by
  and_intros <;> decide +kernel

/-- An operation running in a part, with bank 4 and slot 3 holding something. -/
def running (op : StoreOp) : State :=
  { pair with
    nvs := { Nvs.initial with
      banks := Nvs.initial.banks.set 4 (bankWith .makeup ownBoat 0 none), slots := Nvs.initial.slots.set 3 closedSlot,
      current := some ⟨op, 1000500⟩,
      checkpoint := match op with
        | .slotErase | .slotProgram => some ⟨snapshotOf pair.fau false, false, 3, 10, 0⟩
        | _ => none } }

def boatA : BankId := ⟨.makeup, false⟩

/-- R133: one operation of each kind cut short. -/
theorem witness_InterruptedOperations :
    let cut := fun op : StoreOp => after .supplyLoss (running op)
    (∀ op ∈ [StoreOp.blankCheck boatA, .commitCheck boatA],
      (running op).nvs.current = some ⟨op, 1000500⟩ ∧ (cut op).nvs.banks = (running op).nvs.banks) ∧
    (running (.bankErase boatA)).nvs.suspended = none ∧ (cut (.bankErase boatA)).nvs.banks[4].torn = true ∧
    (∀ b : Fin 10, (running .slotErase).nvs.banks[b].cells.wf = true) ∧
    (∀ i : Fin 8, (running .slotErase).nvs.slots[i].cells.wf = true) ∧
    (let s := running .slotErase
     let u := { s with nvs := { s.nvs with suspended := some ⟨boatA, 250000⟩ } }
     u.nvs.current = some ⟨.slotErase, 1000500⟩ ∧ (after .supplyLoss u).nvs.banks[4].torn = true ∧
       (after .supplyLoss u).nvs.slots[3].torn = true) ∧
    (cut (.loadProgram boatA 0 [1])).nvs.banks[4].torn = true ∧ (cut (.headerFields boatA 5 0)).nvs.banks[4].torn = true ∧
    (cut (.markWord boatA 5)).nvs.banks[4].markTorn = true ∧
    (cut (.lockProgram boatA)).nvs.flags[4] = .partly ∧ (cut (.lockErase boatA)).nvs.flags[4] = .partly ∧
    (running .slotErase).nvs.checkpoint.isSome = true ∧ (cut .slotErase).nvs.slots[3].torn = true ∧
    (after .resetPinAssert (running .slotProgram)).nvs.slots[3].torn = true := by
  and_intros <;> decide +kernel

/-- R127: byte 3 already cleared, where the record has 10: the bytes before the CRC are not whole, and the CRC is as it was. -/
theorem witness_InterruptedOperations_crcLast :
    let x := running .slotProgram
    let s : State := { x with nvs := { x.nvs with slots := x.nvs.slots.set 3 { cells := [(3, 0)], torn := false } } }
    let m := (after .supplyLoss s).nvs.slots[3].cells
    s.nvs.current = some ⟨.slotProgram, 1000500⟩ ∧ s.nvs.checkpoint = some ⟨snapshotOf pair.fau false, false, 3, 10, 0⟩ ∧
      memBytes m 0 95 ≠ recordHead (snapshotOf pair.fau false) 10 ∧ ∀ a, 95 ≤ a → memRead m a = 255 := by
  have e : (after .supplyLoss (let x := running .slotProgram
    { x with nvs := { x.nvs with slots := x.nvs.slots.set 3 { cells := [(3, 0)], torn := false } } })).nvs.slots[3].cells =
      cutRecord [(3, 0)] (snapshotOf pair.fau false) 10 0 := rfl
  refine ⟨rfl, rfl, ?_⟩
  dsimp only
  rw [e]
  have w : Memory.wf [(3, 0)] = true := rfl
  have l : (recordHead (snapshotOf pair.fau false) 10).length = 95 := by decide +kernel
  have r : (recordHead (snapshotOf pair.fau false) 10)[3]? = some 10 := by decide +kernel
  have three : ∀ c : Memory, memRead c 3 = 0 → memBytes c 0 95 ≠ recordHead (snapshotOf pair.fau false) 10 := by
    intro c z x
    have := memBytes_getElem? c (a := 0) (show 3 < 95 by decide)
    rw [x, r, z] at this
    exact absurd this (by decide)
  have zero : memRead (tornProgram [(3, 0)] 0 (recordHead (snapshotOf pair.fau false) 10) 0) 3 = 0 := by
    rw [memRead_tornProgram w, show memRead [(3, 0)] 3 = 0 from rfl]
    simp
  refine ⟨three _ ((memRead_cutRecord w _ _ _ _ (.inl (by decide))).trans zero), fun a ha => ?_⟩
  rw [memRead_cutRecord w _ _ _ _ (.inr (three _ zero)), memRead_tornProgram w, dif_neg (by omega)]
  simp [memRead, erasedByte, show 3 ≠ a by omega]

/-- R119, R133, R199: an engine's window void, a meter with a baseline running and one without unseen. -/
theorem witness_CoreResetEnds :
    let m := heardMeter ⟨31, .supply 0⟩ .fault (some 4)
    let u := fuelled [{ m with clean := 7, jumps := [1] }, heardMeter ⟨32, .ret 0⟩ .fault none]
    let s := { u with power := .coreReset, fau := { u.fau with windowTimer := none, checkpointTimer := none } }
    (s.power = .coreReset ∧ after .coreResetEnd { s with resetPin := true } = { s with resetPin := true }) ∧
    s.resetPin = false ∧ (after .coreResetEnd s).power = .run ∧ (after .coreResetEnd s).fau.voyage = s.fau.voyage ∧
    (after .coreResetEnd s).fau.tanks[2].balance = 30000000 ∧
    ((after .coreResetEnd s).fau.meters.map fun m => (m.state, m.clean, m.jumps)) = [(.running, 0, []), (.unseen, 0, [])] ∧
    (after .coreResetEnd s).fau.windowTimer = some 61000000 ∧ (after .coreResetEnd s).origin = 1000000 := by
  and_intros <;> decide +kernel

/-- A long request waiting for an operation on `boatA`, whose bank holds `b`. -/
def longOp (op : StoreOp) (r : LongOp) (b : Bank) : State :=
  { calm with
    nvs := { Nvs.initial with banks := Nvs.initial.banks.set 4 b, current := some ⟨op, 1000500⟩ },
    mgu := { calm.mgu with
      slot := some ⟨5, r⟩, standby := calm.mgu.standby.set 2 (some false),
      load := match r with
        | .loadData _ | .loadEnd => some ⟨boatA, 5, 6, 0, 0, 0xFFFFFFFF#32⟩
        | _ => none,
      loadIdle := match r with | .loadData _ | .loadEnd => some 9000000 | _ => none } }

/-- A part whose MAKEUP bank A is as given. -/
def banked (active : Option Bool) (locked : Bool) (b : Bank) : State :=
  { calm with
    nvs := { Nvs.initial with
      banks := Nvs.initial.banks.set 4 b, active := Nvs.initial.active.set 2 active, locked := Nvs.initial.locked.set 4 locked } }

/-- R190 to R195: each check in its order, for MAKEUP bank A (kind 3, bank 0). -/
theorem witness_BankRequests :
    (let s := { calm with mgu := { calm.mgu with slot := some ⟨6, .loadEnd⟩ } }
     s.mgu.resetting = false ∧ s.mgu.slot ≠ none ∧ after (.bankErase 5 3 0) s = respond 5 7 .busy [] s ∧
      after (.bankCommit 5 3) s = respond 5 12 .busy [] s) ∧
    (let s := calm
     s.mgu.slot = none ∧ bankOf 6 0 = none ∧ bankOf 3 2 = none ∧ bankOf 0 0 = none ∧
      after (.bankErase 5 6 0) s = respond 5 7 .badArgument [] s ∧ after (.bankLock 5 3 2) s = respond 5 13 .badArgument [] s) ∧
    (let s := banked (some false) false (bankWith .makeup ownBoat 0 none)
     bankOf 3 0 = some boatA ∧ s.nvs.active[kindIx .makeup] = some false ∧
      after (.bankErase 5 3 0) s = respond 5 7 .refusedState [] s ∧
      after (.loadBegin 5 3 0 4064) s = respond 5 9 .refusedState [] s ∧
      after (.bankUnlock 5 3 0) s = respond 5 14 .refusedState [] s) ∧
    (let s := banked none true (bankWith .makeup ownBoat 0 none)
     s.nvs.locked[bankIx boatA] = true ∧ after (.bankErase 5 3 0) s = respond 5 7 .locked [] s ∧
      after (.loadBegin 5 3 0 1) s = respond 5 9 .locked [] s ∧ after (.bankLock 5 3 0) s = respond 5 13 .ok [] s ∧
      s.fau.voyage.isOpen = false ∧ (after (.bankUnlock 5 3 0) s).nvs.current = some ⟨.lockErase boatA, 1060000⟩ ∧
      (let u := { s with fau := { s.fau with voyage := { s.fau.voyage with isOpen := true } } }
       after (.bankUnlock 5 3 0) u = respond 5 14 .refusedState [] u)) ∧
    (let s := banked none false (bankWith .makeup ownBoat 0 none)
     (after (.bankErase 5 3 0) s).nvs.current = some ⟨.bankErase boatA, 1400000⟩ ∧
      memRead (after (.bankErase 5 3 0) s).nvs.banks[4].cells 31 = 255 ∧
      memRead (after (.bankErase 5 3 0) s).nvs.banks[4].cells 32 = 1 ∧
      (after (.bankBlankCheck 5 3 0) s).nvs.current = some ⟨.blankCheck boatA, 1020000⟩ ∧
      after (.loadBegin 5 3 0 4065) s = respond 5 9 .badArgument [] s ∧
      (after (.loadBegin 5 3 0 4064) s).mgu.slot = some ⟨5, .loadBegin boatA 4064⟩ ∧
      (after (.bankLock 5 3 0) s).nvs.locked[bankIx boatA] = true ∧ after (.bankUnlock 5 3 0) s = respond 5 14 .ok [] s ∧
      kindOf 3 = some .makeup ∧ kindOf 6 = none ∧ after (.bankCommit 5 6) s = respond 5 12 .badArgument [] s ∧
      markErased s.nvs.banks[bankIx (standbyBank s .makeup)] = true ∧ activeCommit s .makeup < 4294967294 ∧
      (after (.bankCommit 5 3) s).nvs.current = some ⟨.commitCheck boatA, 1020000⟩ ∧
      (let u := { s with nvs := { s.nvs with current := some ⟨.slotErase, 1000500⟩ } }
       u.nvs.current ≠ none ∧ (after (.bankErase 5 3 0) u).nvs.waitingOp = some (.bankErase boatA))) ∧
    (let s := { banked none false Bank.erased with mgu := { calm.mgu with load := some ⟨boatA, 6, 6, 0, 0, 0⟩ } }
     after (.bankErase 5 3 0) s = respond 5 7 .refusedState [] s ∧
      after (.bankBlankCheck 5 3 0) s = respond 5 8 .refusedState [] s ∧
      after (.loadBegin 5 3 0 1) s = respond 5 9 .busy [] s ∧ after (.bankCommit 5 3) s = respond 5 12 .refusedState [] s) := by
  and_intros <;> decide +kernel

/-- R193: a load of 7 bytes takes two requests, the second with 1 byte. -/
theorem witness_LoadRequests :
    let s := fun (next : Nat) (crc : BitVec 32) =>
      { calm with mgu := { calm.mgu with load := some ⟨boatA, 5, 7, next, 6 * next, crc⟩, loadIdle := some 8000000 } }
    let gone := fun u : State => { u with
      nvs := { u.nvs with banks := u.nvs.banks.set 4 { Bank.erased with torn := true } },
      mgu := { u.mgu with load := none, loadIdle := none } }
    calm.mgu.load = none ∧ after (.loadData 5 0 [1, 2, 3, 4, 5, 6]) calm = respond 5 10 .sequence [] calm ∧
    after (.loadEnd 5 0) calm = respond 5 11 .sequence [] calm ∧
    after (.loadData 6 0 [1, 2, 3, 4, 5, 6]) (s 0 0) = respond 6 10 .busy [] (s 0 0) ∧
    after (.loadData 5 1 [1, 2, 3, 4, 5, 6]) (s 0 0) = respond 5 10 .sequence [] (gone (s 0 0)) ∧
    after (.loadData 5 2 [1, 2, 3, 4, 5, 6]) (s 2 0) = respond 5 10 .sequence [] (gone (s 2 0)) ∧
    (after (.loadData 5 1 [1, 2, 3, 4, 5, 6]) (s 1 0)).nvs.current = some ⟨.loadProgram boatA 6 [1], 1001000⟩ ∧
    after (.loadEnd 6 0) (s 2 0) = respond 6 11 .busy [] (s 2 0) ∧
    after (.loadEnd 5 0) (s 1 0) = respond 5 11 .sequence [] (gone (s 1 0)) ∧
    after (.loadEnd 5 0) (s 2 0) = respond 5 11 .checkFailed [] (gone (s 2 0)) ∧
    (after (.loadEnd 5 0xFFFFFFFF#32) (s 2 0)).nvs.current = some ⟨.headerFields boatA 7 0xFFFFFFFF#32, 1005000⟩ ∧
    (s 2 0).mgu.loadIdle = some 8000000 ∧ after .loadIdleTimerExpiry (s 2 0) = { gone (s 2 0) with now := 8000000 } := by
  and_intros <;> decide +kernel

/-- R193: the bank of a context aborted before any byte was programmed is not blank, neither for BANK-BLANK-CHECK nor for LOAD-BEGIN,
also after a core reset; an erase that ends well makes it blank again. -/
theorem witness_LoadRequests_notBlank :
    let s : State :=
      { calm with mgu := { calm.mgu with load := some ⟨boatA, 5, 7, 0, 0, 0xFFFFFFFF#32⟩, loadIdle := some 8000000 } }
    let checked := fun (r : LongOp) (u : State) => { u with
      nvs := { u.nvs with current := some ⟨.blankCheck boatA, 8020000⟩ }, mgu := { u.mgu with slot := some ⟨5, r⟩ } }
    let aborted := after .loadIdleTimerExpiry s
    let reset := after .coreResetEnd (after .resetPinRelease (after .resetPinAssert s))
    let erased := after (.bankEraseEnd true) { aborted with nvs := { aborted.nvs with current := some ⟨.bankErase boatA, 9000000⟩ } }
    let opens := fun u : State => (after .blankCheckEnd (checked (.loadBegin boatA 7) u)).mgu.load.isSome
    aborted.power = .run ∧ aborted.nvs.suspended = none ∧ aborted.nvs.waiting = none ∧ aborted.nvs.waitingOp = none ∧
    after .blankCheckEnd (checked (.blankCheck boatA) aborted) =
      respond 5 8 .notBlank [] { aborted with now := 8020000 } ∧
    opens calm = true ∧ opens aborted = false ∧ reset.power = .run ∧ opens reset = false ∧ opens erased = true := by
  and_intros <;> decide +kernel

/-- R121, R122, R191 to R195. -/
theorem witness_StoreOperationsEnd :
    let full := bankWith .makeup ownBoat 0 none
    (let s := longOp (.bankErase boatA) (.erase boatA) full
     s.nvs.suspended = none ∧ s.nvs.waiting = none ∧ s.nvs.waitingOp = none ∧ (∀ b : Fin 10, s.nvs.banks[b].cells.wf = true) ∧
      (∀ i : Fin 8, s.nvs.slots[i].cells.wf = true) ∧ s.nvs.current = some ⟨.bankErase boatA, 1000500⟩ ∧
      (after (.bankEraseEnd true) s).nvs.banks[4] = Bank.erased ∧ (after (.bankEraseEnd false) s).nvs.banks[4].torn = true ∧
      (after (.bankEraseEnd true) s).mgu.standby[(2 : Fin 5)] = none ∧ (after (.bankEraseEnd true) s).mgu.slot = none) ∧
    (let s := longOp (.blankCheck boatA) (.loadBegin boatA 7)
     (after .blankCheckEnd (s full)).mgu.load = none ∧
      ((after .blankCheckEnd (s Bank.erased)).mgu.load.map fun c => (c.count, c.next)) = some (7, 0) ∧
      (after .blankCheckEnd (s Bank.erased)).mgu.loadIdle = some 11000500 ∧
      (after .blankCheckEnd (longOp (.blankCheck boatA) (.blankCheck boatA) Bank.erased)).mgu.slot = none) ∧
    (let s := longOp (.loadProgram boatA 0 [1, 2]) (.loadData [1, 2])
     memRead (after (.loadProgramEnd true) (s Bank.erased)).nvs.banks[4].cells 33 = 2 ∧
      ((after (.loadProgramEnd true) (s Bank.erased)).mgu.load.map fun c => (c.next, c.taken)) = some (1, 2) ∧
      (after (.loadProgramEnd true) (s full)).mgu.load = none ∧
      (after (.loadProgramEnd true) (s full)).nvs.banks[4].torn = true ∧
      (after (.loadProgramEnd false) (s Bank.erased)).mgu.load = none) ∧
    (let s := longOp (.headerFields boatA 5 7) .loadEnd Bank.erased
     memBytes (after (.headerFieldsProgramEnd true) s).nvs.banks[4].cells 0 8 = [3, 0, 5, 0, 0, 0, 7, 255] ∧
      (after (.headerFieldsProgramEnd true) s).mgu.standby[(2 : Fin 5)] = some false ∧
      (after (.headerFieldsProgramEnd false) s).nvs.banks[4].torn = true ∧
      (after (.headerFieldsProgramEnd true) (longOp (.headerFields boatA 5 7) .loadEnd
        { Bank.erased with cells := [(0, 0)] })).mgu.load = none ∧
      (after (.headerFieldsProgramEnd false) s).mgu.load = none) ∧
    (let s := longOp (.markWord boatA 9) (.commit .makeup) full
     markErased full = true ∧ (after (.markWordProgramEnd false) s).nvs.banks[4].markTorn = true ∧
      (after (.markWordProgramEnd true) s).nvs.active[(2 : Fin 5)] = some false ∧
      (after (.markWordProgramEnd true) s).cmu.makeupSwap = true ∧
      bankCommit (after (.markWordProgramEnd true) s).nvs.banks[4] = 9 ∧
      markGood (after (.markWordProgramEnd true) s).nvs.banks[4] = true) ∧
    (let s := longOp (.commitCheck boatA) (.commit .makeup)
     (after .commitCheckEnd (s full)).nvs.current = none ∧
      (after .commitCheckEnd (s (bankWith .makeup ownBoat (crc32 ownBoat) none))).nvs.current =
        some ⟨.markWord boatA 1, 1005500⟩) ∧
    (let s := longOp (.lockProgram boatA) (.lock boatA) full
     (after (.lockProgramEnd true) s).nvs.flags[4] = .written ∧ (after (.lockProgramEnd false) s).nvs.flags[4] = .partly) ∧
    (let s := longOp (.lockErase boatA) (.unlock boatA) full
     (after (.lockEraseEnd true) s).nvs.locked[(4 : Fin 10)] = false ∧
      (after (.lockEraseEnd false) s).nvs.locked[(4 : Fin 10)] = true) := by
  and_intros <;> decide +kernel

/-- R125: a checkpoint of the last number but one waits, and starts at the end of each operation. -/
theorem witness_StoreOperationsEnd_waiting :
    let w : WaitingCheckpoint := ⟨snapshotOf calm.fau false, false⟩
    let full := bankWith .makeup ownBoat 0 none
    let good := bankWith .makeup ownBoat (crc32 ownBoat) none
    let waits := fun (s : State) => { s with nvs := { s.nvs with newest := some ⟨7, 4294967293⟩, waiting := some w } }
    let opens := fun (t : State) => t.nvs.current = some ⟨.slotErase, 1060500⟩ ∧ t.nvs.waiting = none ∧
      t.nvs.checkpoint = some ⟨snapshotOf calm.fau false, false, 0, 4294967294, 0⟩
    let s := waits (longOp (.bankErase boatA) (.erase boatA) full)
    s.nvs.newest.elim 0 (·.seq) < 4294967294 ∧
      opens (after (.bankEraseEnd true) s) ∧ (after (.bankEraseEnd true) s).mgu.slot = none ∧
      opens (after .blankCheckEnd (waits (longOp (.blankCheck boatA) (.blankCheck boatA) full))) ∧
      opens (after (.loadProgramEnd true) (waits (longOp (.loadProgram boatA 0 [1, 2]) (.loadData [1, 2]) Bank.erased))) ∧
      opens (after (.headerFieldsProgramEnd true) (waits (longOp (.headerFields boatA 5 7) .loadEnd Bank.erased))) ∧
      opens (after (.markWordProgramEnd true) (waits (longOp (.markWord boatA 9) (.commit .makeup) full))) ∧
      opens (after (.lockProgramEnd true) (waits (longOp (.lockProgram boatA) (.lock boatA) full))) ∧
      opens (after (.lockEraseEnd false) (waits (longOp (.lockErase boatA) (.unlock boatA) full))) ∧
      opens (after .commitCheckEnd (waits (longOp (.commitCheck boatA) (.commit .makeup) full))) ∧
      (after .commitCheckEnd (waits (longOp (.commitCheck boatA) (.commit .makeup) full))).mgu.slot = none ∧
      opens (after .commitCheckEnd (waits (longOp (.commitCheck boatA) (.commit .makeup) good))) ∧
      (after .commitCheckEnd (waits (longOp (.commitCheck boatA) (.commit .makeup) good))).nvs.waitingOp =
        some (.markWord boatA 1) := by
  and_intros <;> decide +kernel

/-- R194, step 6: the swap of a WINDOW and of a FUELMAP commit is answered OK with the commit number. -/
theorem witness_StoreOperationsEnd_commits :
    (let s := fun k : Kind =>
       { longOp (.markWord ⟨k, true⟩ 260) (.commit k) Bank.erased with fsw := Fsw.initial }
     ((after (.markWordProgramEnd true) (s .window)).pcw.tx.toList.flatten.map fun e => (e.frame.kind, e.frame.payload)) =
         [(12, [0, 128, 0, 0, 1, 4])] ∧
      (after (.markWordProgramEnd true) (s .window)).fsw.commit = 260 ∧
      (after (.markWordProgramEnd true) (s .window)).mgu.slot = none ∧
      (after (.markWordProgramEnd true) (s .fuelmap)).mgu.slot = none ∧
      (after (.markWordProgramEnd true) (s .fuelmap)).fau.table.isSome = true ∧
      (((after (.markWordProgramEnd true) (s .fuelmap)).pcw.tx[1].map fun e => (e.frame.kind, e.frame.payload)).getLast?) =
         some (12, [0, 128, 0, 0, 1, 4])) := by
  and_intros <;> decide +kernel

/-- R123, R125 to R128, with the sequences of section 7.9: slot 3 written as 1042. -/
theorem witness_CheckpointSlots :
    let s := fun (op : StoreOp) (failures : Nat) =>
      { calm with nvs := { Nvs.initial with
          current := some ⟨op, 1000500⟩, newest := some ⟨2, 1041⟩,
          checkpoint := some ⟨snapshotOf calm.fau false, false, 3, 1042, failures⟩ } }
    let u := fun (f : Nvs → Nvs) => { s .slotProgram 0 with nvs := f (s .slotProgram 0).nvs }
    (s .slotErase 0).nvs.current = some ⟨.slotErase, 1000500⟩ ∧
    (after (.slotEraseEnd true) (s .slotErase 0)).nvs.current = some ⟨.slotProgram, 1020500⟩ ∧
    (after (.slotEraseEnd false) (s .slotErase 5)).nvs.current = some ⟨.slotErase, 1060500⟩ ∧
    ((after (.slotProgramEnd false) (s .slotProgram 5)).nvs.checkpoint.map fun c => (c.slot, c.failures)) = some (4, 6) ∧
    (after (.slotProgramEnd false) (s .slotProgram 6)).nvs.checkpoint = none ∧
    isRaised .storeFail (.slot 3) (after (.slotProgramEnd false) (s .slotProgram 6)) = true ∧
    (after (.slotProgramEnd true) (s .slotProgram 0)).nvs.newest = some ⟨3, 1042⟩ ∧
    (after (.slotProgramEnd true) (s .slotProgram 0)).nvs.current = none ∧
    (after (.slotProgramEnd true) (u fun n => { n with waiting := some ⟨snapshotOf calm.fau false, false⟩ })).nvs.current =
      some ⟨.slotErase, 1060500⟩ ∧
    (after (.slotProgramEnd true) (u fun n => { n with suspended := some ⟨boatA, 250000⟩ })).nvs.current =
      some ⟨.bankErase boatA, 1250500⟩ ∧
    (after (.slotProgramEnd true) (u fun n => { n with waitingOp := some (.loadProgram boatA 0 [1]) })).nvs.current =
      some ⟨.loadProgram boatA 0 [1], 1001500⟩ := by
  and_intros <;> decide +kernel

/-- R125, R126: who gets the store when a checkpoint has ended, written or not. -/
theorem witness_CheckpointSlots_next :
    let w : WaitingCheckpoint := ⟨snapshotOf calm.fau false, true⟩
    let full := bankWith .makeup ownBoat 0 none
    let s := fun (op : StoreOp) (failures : Nat) (f : Nvs → Nvs) =>
      { calm with nvs := f { Nvs.initial with
          banks := Nvs.initial.banks.set 4 full, current := some ⟨op, 1000500⟩, newest := some ⟨2, 1041⟩,
          checkpoint := some ⟨snapshotOf calm.fau false, false, 3, 1042, failures⟩ } }
    let ends := fun f => after (.slotProgramEnd true) (s .slotProgram 0 f)
    let fails := fun f => after (.slotEraseEnd false) (s .slotErase 6 f)
    let opens := fun (t : State) (slot : Fin 8) (seq : Nat) =>
      t.nvs.checkpoint = some ⟨w.snapshot, true, slot, seq, 0⟩ ∧ t.nvs.current = some ⟨.slotErase, 1060500⟩ ∧
        t.nvs.waiting = none
    let erase : StoreOp := .bankErase boatA
    let e : Nvs → Nvs := fun n => { n with waitingOp := some erase }
    let e2 : Nvs → Nvs := fun n => { n with waitingOp := some erase, waiting := some w, eraseSuspend := 65535 }
    let l : Nvs → Nvs := fun n => { n with waitingOp := some (.lockProgram boatA), waiting := some w }
    let x2 : Nvs → Nvs := fun n => { n with suspended := some ⟨boatA, 250000⟩, waiting := some w }
    opens (ends ({ · with waiting := some w })) 4 1043 ∧ opens (fails ({ · with waiting := some w })) 3 1042 ∧
    opens (ends x2) 4 1043 ∧ (ends x2).nvs.suspended = some ⟨boatA, 250000⟩ ∧
    opens (fails x2) 3 1042 ∧ (fails x2).nvs.suspended = some ⟨boatA, 250000⟩ ∧
    (fails ({ · with suspended := some ⟨boatA, 250000⟩ })).nvs.current = some ⟨erase, 1250500⟩ ∧
    (ends l).nvs.current = some ⟨.lockProgram boatA, 1010500⟩ ∧ (ends l).nvs.locked[(4 : Fin 10)] = true ∧
      (ends l).nvs.waiting = some w ∧ (ends l).nvs.checkpoint = none ∧
    (fails l).nvs.current = some ⟨.lockProgram boatA, 1010500⟩ ∧
    (ends e).nvs.current = some ⟨erase, 1400500⟩ ∧ (ends e).nvs.banks[4].torn = true ∧
      memRead (ends e).nvs.banks[4].cells 0 = 255 ∧ memBytes (ends e).nvs.banks[4].cells 32 5 = ownBoat ∧
      (ends e).nvs.suspended = none ∧
    opens (ends e2) 4 1043 ∧ (ends e2).nvs.suspended = some ⟨boatA, 400000⟩ ∧ (ends e2).nvs.eraseSuspend = 65535 ∧
      (ends e2).nvs.banks[4].torn = true ∧ (ends e2).nvs.waitingOp = none ∧
    opens (fails e2) 3 1042 ∧
    (ends id).nvs.current = none ∧ (fails id).nvs.current = none ∧ (fails id).nvs.checkpoint = none ∧
    (let u := s .slotErase 7 ({ · with newest := none })
     (after (.slotEraseEnd false) u).nvs.checkpoint = none ∧
      ((after (.slotEraseEnd false) (s .slotErase 6 ({ · with newest := none }))).nvs.checkpoint.map (·.failures)) = some 7) := by
  and_intros <;> decide +kernel

/-! ## Witnesses: chapters 8 to 11 -/

def frame (cls : BitVec 4) (node : Node) (kind : BitVec 6) (l : List Byte) : Frame :=
  { cls := cls, node := node, kind := kind, payload := l }

/-- The command by which a segment brings a sound frame. -/
def hears (seg : Segment) (f : Frame) : Instr :=
  .receiveFrame seg (headerOf f) (BitVec.ofNat 4 f.payload.length) f.payload
    (frameCrc (headerOf f) (BitVec.ofNat 4 f.payload.length) f.payload) true

/-- A port at bus idle. -/
def idlePort : PortCtl := { PortCtl.initial with line := .idle }

/-- A running part whose ports are at bus idle. -/
def ready : State := { calm with pcw := idlePort, pcp := idlePort, pck := idlePort }

/-- CRC-16 with generator 1021 and preset FFFF over the bytes "123456789" is 29B1. -/
theorem test_crc16_check_value :
    crc16 (([49, 50, 51, 52, 53, 54, 55, 56, 57] : List Byte).flatMap bitsOf) = 0x29b1#16 := by decide +kernel

/-- R135: sixteen dominant bits take two inserted bits, which a receiver removes. -/
theorem test_stuffing :
    stuff (List.replicate 16 false) = List.replicate 8 false ++ true :: List.replicate 8 false ++ [true] ∧
    unstuff (stuff (frameBits (frame 1 5 2 []))) = frameBits (frame 1 5 2 []) := by decide +kernel

/-- R135, R137 to R139, R153. -/
theorem witness_PortReceives :
    let f := frame 1 5 2 []
    let e := frame 3 21 1 [2, 188, 1, 7, 58, 0]
    let busy : InSwitch := { frame := f, ingress := .w, deadline := 1000100 }
    let taken : State := { ready with fsw := { Fsw.initial with inSwitch := some busy } }
    let full : State :=
      { taken with pcw := { idlePort with rx := idlePort.rx.set 1 (List.replicate 16 f) } }
    (let s := calm
     ¬(s.pcw.state = .run ∧ s.pcw.line ≠ .waitIdle ∧ s.pcw.sending = none) ∧ after (hears .w f) s = s) ∧
    (ready.pcw.state = .run ∧ ready.pcw.line ≠ .waitIdle ∧ ready.pcw.sending = none ∧ 8 < (9 : BitVec 4).toNat ∧
      (after (.receiveFrame .w 0 9 [] 0 true) ready).pcw.busError = 1 ∧
      (after (.receiveFrame .w 0 9 [] 0 true) ready).pcw.line = .waitIdle) ∧
    (after (.receiveFrame .w (headerOf f) 0 [] (frameCrc (headerOf f) 0 [] + 1) true) ready).pcw.crcError = 1 ∧
    (after (.receiveFrame .w (headerOf f) 0 [] (frameCrc (headerOf f) 0 []) false) ready).pcw.busError = 1 ∧
    (taken.fsw.inSwitch ≠ none ∧ (after (hears .w e) taken).pcw.rx[1] = [e] ∧ (after (hears .w e) taken).pcw.acked = true) ∧
    (ready.fsw.inSwitch = none ∧ (∀ i : Fin 4, ready.pcw.rx[i] = [] ∧ ready.pcp.rx[i] = [] ∧ ready.pck.rx[i] = [] ∧
        ready.hlc.queues[i].rx = []) ∧
      (after (hears .p e) ready).fsw.inSwitch = some { frame := e, ingress := .p, deadline := 1000200 } ∧
      (after (hears .p e) ready).pcp.rx = ready.pcp.rx) ∧
    (16 ≤ full.pcw.rx[classQueue full .w 3].length ∧ (after (hears .w e) full).pcw.overrun = #v[0, 1, 0, 0] ∧
      isRaised .queueOverrun (.portQueue .w 1) (after (hears .w e) full) = true) := by
  and_intros <;> decide +kernel

/-- A port sending the head of Q1. -/
def sendingOn (f : Frame) (o : Origin) (c : Cmu) : State :=
  { calm with pck := { PortCtl.initial with
      line := .busy, sending := some 1, tx := PortCtl.initial.tx.set 1 [{ frame := f, origin := o }] }, cmu := c }

/-- R141 to R143, R148. -/
theorem witness_PortSends :
    let e : TxEntry := { frame := frame 12 0 1 [], origin := .mgu }
    let poll : Cmu := (polled (coupled 52 1 2 .loaded (some 100) 1)).cmu
    let lone := fun (c : Cmu) => { c with round := some { poll := ⟨1, 52, 4⟩, rest := [] }, answer := none }
    (after (.frameOffer .w) calm = calm ∧ after (.frameOffer .w) ready = ready ∧
      (after (.frameOffer .w) { ready with pcw := { idlePort with tx := #v[[], [e], [e], []] } }).pcw.sending = some 1) ∧
    (calm.pcw.sending = none ∧ after (.arbitrationLoss .w) calm = calm ∧ after (.bitError .w) calm = calm ∧
      after (.acknowledgeSlot .w true) calm = calm) ∧
    (let s := sendingOn (frame 8 5 1 []) .fsw calm.cmu
     s.pck.sending = some 1 ∧ s.pck.tx[1] = [{ frame := frame 8 5 1 [], origin := .fsw }] ∧
      (after (.arbitrationLoss .k) s).pck.arbitrationLoss = 1 ∧ (after (.arbitrationLoss .k) s).pck.tx = s.pck.tx ∧
      (after (.acknowledgeSlot .k true) s).pck.tx[1] = [] ∧ (after (.acknowledgeSlot .k false) s).pck.ackFailure = 1 ∧
      (after (.bitError .k) s).pck.line = .waitIdle) ∧
    (let s := sendingOn (pollFrame 52) (.cmuPoll 4) (lone poll)
     (after (.acknowledgeSlot .k true) s).pck.window = some 1004080 ∧
      (after (.acknowledgeSlot .k true) s).cmu.answer = some 1020000 ∧ (after (.acknowledgeSlot .k false) s).cmu.round = none ∧
      ((after (.acknowledgeSlot .k false) s).cmu.couplings.map (·.missed)) = [0, 2]) ∧
    (let s := sendingOn (pollFrame 52) (.cmuPoll 3) (lone poll)
     (after (.bitError .k) s).cmu = s.cmu) ∧
    (let s := sendingOn (frame 2 11 1 []) .piu calm.cmu
     (after (.acknowledgeSlot .k false) s).piu.unackedSetpoint = 1) ∧
    (let c := { poll with
                          round := none, answer := none, release := .releasing 0 1 52 1900000 8,
                          couplings := [coupled 51 0 1 .loaded (some 100) 0, coupled 52 1 2 .releasing (some 9) 0] }
     let s := sendingOn (releaseFrame 52) (.cmuRelease 8) c
     (after (.acknowledgeSlot .k false) s).cmu.release = .idle ∧
      isRaised .releaseFailed (.coupler 52) (after (.acknowledgeSlot .k false) s) = true) ∧
    (let s := sendingOn (frame 9 5 20 [0, 128]) .mguReset calm.cmu
     (after (.acknowledgeSlot .k true) s).power = .coreReset ∧ (after (.bitError .k) s).power = .coreReset) := by
  and_intros <;> decide +kernel

/-- R143, R145 to R149. -/
theorem witness_PortLineEvents :
    let isolated : State := { calm with pcp := { PortCtl.initial with state := .isolated, isolation := some 2000000 } }
    let e : TxEntry := { frame := frame 2 11 1 [], origin := .fsw }
    (isolated.pcp.state = .isolated ∧ after (.dominantRunNinthBit .p) isolated = isolated ∧
      after (.dominantRunEnd .p) isolated = isolated ∧ after (.stuckBus .p) isolated = isolated ∧
      (after (.isolationTimerExpiry .p) isolated).pcp.state = .restart ∧
      (after (.isolationTimerExpiry .p) isolated).now = 2000000 ∧ after (.isolationTimerExpiry .w) isolated = isolated ∧
      after (.portRestart .p) isolated = isolated ∧ after (.busIdle .p) isolated = isolated) ∧
    (ready.pcp.sending = none ∧ (after (.dominantRunNinthBit .p) ready).pcp.line = .waitIdle ∧
      (after (.dominantRunEnd .p) ready).pcp.busError = 1) ∧
    (let s := { ready with pcp := { idlePort with line := .busy, sending := some 1, tx := idlePort.tx.set 1 [e, e] } }
     (after (.dominantRunNinthBit .p) s).pcp.sending = none ∧ (after (.dominantRunNinthBit .p) s).pcp.tx[1] = [e] ∧
      (after (.stuckBus .p) s).pcp.state = .isolated ∧ (after (.stuckBus .p) s).pcp.flushDrop = 2 ∧
      (after (.stuckBus .p) s).pcp.isolation = some 2000000 ∧ isRaised .portIsolated (.port .p) (after (.stuckBus .p) s) = true) ∧
    (let s := { calm with
       pcp := { PortCtl.initial with state := .restart }, mgu := { calm.mgu with raised := [(.portIsolated, .port .p)] } }
     s.pcp.state = .restart ∧ (after (.portRestart .p) s).pcp.line = .idle ∧ (after (.portRestart .p) s).pcp.state = .run ∧
      isRaised .portIsolated (.port .p) (after (.portRestart .p) s) = false) ∧
    (let s := polled (coupled 52 1 2 .loaded (some 100) 1)
     let u := { s with pck := { s.pck with window := some 1004080 } }
     s.pck.window = none ∧ after .replyWindowExpiry s = s ∧ (after .replyWindowAnswered u).pck.window = none ∧
      u.pck.window = some 1004080 ∧ (after .replyWindowExpiry u).cmu.round = none ∧
      ((after .replyWindowExpiry u).cmu.couplings.map (·.missed)) = [0, 2] ∧
      (after .replyWindowExpiry { u with cmu := { u.cmu with round := none } }).pck.window = none) ∧
    (calm.pcw.state = .run ∧ calm.pcw.sending = none ∧ (after (.busIdle .w) calm).pcw.line = .idle) := by
  and_intros <;> decide +kernel

/-- R73, R93, R143, R149, R199: what a bit error ends for each originator, and the line after an answered window. -/
theorem witness_PortLineEvents_ends :
    let poll : Cmu := (polled (coupled 52 1 2 .loaded (some 100) 1)).cmu
    let lone : Cmu := { poll with round := some { poll := ⟨1, 52, 4⟩, rest := [] }, answer := none }
    let ninth := fun (f : Frame) (o : Origin) (c : Cmu) => after (.dominantRunNinthBit .k) (sendingOn f o c)
    let answered := fun (x : LineView) => after .replyWindowAnswered
      { calm with pck := { idlePort with line := x, window := some 1004080 } }
    (sendingOn (frame 2 11 1 []) .piu calm.cmu).pck.sending = some 1 ∧
    (ninth (frame 2 11 1 []) .piu calm.cmu).piu.unackedSetpoint = 1 ∧
    (ninth (pollFrame 52) (.cmuPoll 3) lone).cmu = lone ∧
    lone.startMarked = false ∧ (ninth (pollFrame 52) (.cmuPoll 4) lone).cmu.round = none ∧
    (ninth (pollFrame 52) (.cmuPoll 4) lone).cmu.couplings =
      poll.couplings.set 1 (coupled 52 1 2 .loaded (some 100) 2) ∧
    (let c := { poll with
       round := none, answer := none, release := .releasing 0 1 52 1900000 8,
       couplings := [coupled 51 0 1 .loaded (some 100) 0, coupled 52 1 2 .releasing (some 9) 0] }
     (ninth (releaseFrame 52) (.cmuRelease 8) c).cmu.release = .idle ∧
      isRaised .releaseFailed (.coupler 52) (ninth (releaseFrame 52) (.cmuRelease 8) c) = true) ∧
    (ninth (frame 9 5 20 [0, 128]) .mguReset calm.cmu).power = .coreReset ∧
    calm.pck.window = none ∧ after .replyWindowAnswered calm = calm ∧
    (answered .idle).pck = { idlePort with line := .busy } ∧ (answered .busy).pck = { idlePort with line := .busy } ∧
    (answered .waitIdle).pck = { idlePort with line := .waitIdle } ∧
    (let e : TxEntry := { frame := frame 4 52 1 [], origin := .fsw }
     after (.frameOffer .k) { answered .idle with pck := { (answered .idle).pck with tx := #v[[], [e], [], []] } } =
       { answered .idle with pck := { (answered .idle).pck with tx := #v[[], [e], [], []] } }) := by
  and_intros <;> decide +kernel

/-- Class `c` of ingress W, every node and kind. -/
def classWindow (c : Nat) (x : WindowAction) (offset : Nat) : Window :=
  { valid := true, ingress := ⟨true, false, false, true⟩, base := 4096 * c, limit := 4096 * c + 4095, action := x,
    egress := if x = .forward then ⟨false, true, false, false⟩ else ⟨false, false, false, false⟩, offset := offset }

def noWindow : Window :=
  { valid := false, ingress := ⟨false, false, false, false⟩, base := 0, limit := 65535, action := .drop,
    egress := ⟨false, false, false, false⟩, offset := 0 }

/-- Classes 8 and 4 delivered, 3 dropped, 2 forwarded to P three nodes up; node 5 alone may send requests. -/
def windows : WindowTable :=
  { windows := (((Vector.replicate 32 noWindow).set 0 (classWindow 8 .deliver 0)).set 1 (classWindow 4 .deliver 0)).set 2
      (classWindow 3 .drop 0) |>.set 3 (classWindow 2 .forward 3),
    defaults := #v[false, true, false, false], maps := Vector.replicate 4 (Vector.replicate 16 2),
    enables := Vector.replicate 4 true, nodes := [5] }

def inSwitch (f : Frame) (x : PortName) (t : Option WindowTable) : State :=
  { held with fsw := { Fsw.initial with table := t, inSwitch := some { frame := f, ingress := x, deadline := 1000200 } } }

/-- R154 to R165. -/
theorem witness_SwitchingEnds :
    let ends := fun (f : Frame) (port : PortName) => after .switchingEnd (inSwitch f port (some windows))
    let q := fun (n : Node) => frame 2 n 1 [0, 0, 0, 0, 0]
    (held.fsw.inSwitch = none ∧ after .switchingEnd held = held) ∧
    (after .switchingEnd (inSwitch (frame 1 5 2 []) .w none)).fsw.defaultDrop = #v[1, 0, 0, 0] ∧
    (ends (frame 1 5 2 []) .w).fsw.defaultDrop = #v[1, 0, 0, 0] ∧ (ends (frame 3 21 2 [0, 0]) .w).fsw.windowDrop = #v[1, 0, 0, 0] ∧
    ((ends (q 62) .w).pcp.tx[2].map fun e => (e.frame.node, e.origin)) = [(1, .fsw)] ∧
    (let s := inSwitch (q 1) .w (some windows)
     let full : State :=
       { s with pcp := { PortCtl.initial with
         tx := PortCtl.initial.tx.set 2 (List.replicate 16 { frame := q 1, origin := .fsw }) } }
     (after .switchingEnd full).fsw.egressDrop = #v[0, 1, 0, 0] ∧ (after .switchingEnd full).pcp.txDrop = #v[0, 0, 1, 0]) ∧
    (ends (frame 4 52 2 [0, 0, 0]) .w).fsw.undeliverable = #v[1, 0, 0, 0] ∧
    (ends (frame 1 6 2 []) .p).csu.request = some 1 ∧ (ends (frame 0 6 1 []) .p).csu.allStop = some (.station 1) ∧
    (ends (frame 3 27 2 [255, 236]) .p).piu.rudders[0].feedback = some { angle := -20, time := 1000200 } ∧
    (ends (frame 8 6 1 []) .w).fsw.refused = #v[1, 0, 0, 0] ∧
    ((ends (frame 8 5 1 []) .w).pcw.tx[2].map fun e => (e.frame.cls, e.frame.node, e.frame.kind)) = [(9, 5, 1)] := by
  and_intros <;> decide +kernel

/-- R158 to R162, R164: the ways of a frame by the action, the egress set and the ingress. -/
theorem witness_SwitchingEnds_ways :
    let win := fun (c : Nat) (a : WindowAction) (e : PortSet) => { classWindow c a 0 with egress := e, ingress := ⟨true, true, true, true⟩ }
    let table := fun w : Window => { windows with windows := (Vector.replicate 32 noWindow).set 31 w }
    let ends := fun (f : Frame) (x : PortName) (w : Window) => after .switchingEnd (inSwitch f x (some (table w)))
    let f := frame 1 6 2 []
    let every : PortSet := ⟨true, true, true, true⟩
    let lines := fun t : State => (t.pcw.tx[2].length, t.pcp.tx[2].length, t.pck.tx[2].length)
    let m := frame 8 5 1 []
    lines (ends f .p (win 1 .forward every)) = (1, 0, 1) ∧ (ends f .p (win 1 .forward every)).csu.request = none ∧
    (ends f .p (win 1 .forward every)).fsw.egressDrop = #v[0, 0, 0, 1] ∧ held.hlc.state = .down ∧
    (ends f .p (win 1 .forward every)).hlc.flushDrop = 1 ∧
    (let s := inSwitch f .p (some (table (win 1 .forward every)))
     let on := fun y : LinkQueue => after .switchingEnd { s with hlc := { linked with queues := Vector.replicate 4 y } }
     let y := LinkQueue.initial .opened
     let e : TxEntry := { frame := f, origin := .fsw }
     (on y).hlc.queues[2].tx = [e] ∧ (on y).fsw.egressDrop = #v[0, 0, 0, 0] ∧
     (on { y with tx := List.replicate 31 e }).hlc.queues[2].tx.length = 32 ∧
     (on { y with tx := List.replicate 32 e }).hlc.queues[2].txDrop = 1 ∧
     (on { y with tx := List.replicate 32 e }).fsw.egressDrop = #v[0, 0, 0, 1] ∧
     (on (LinkQueue.initial .disabled)).hlc.disabledDrop = 1 ∧
     (after .switchingEnd { s with pck := { s.pck with state := .isolated } }).pck.flushDrop = 1) ∧
    (ends f .p (win 1 .deliverAndForward every)).csu.request = some 1 ∧
    (ends f .p (win 1 .deliverAndForward ⟨false, true, true, false⟩)).pck.tx[2].map (·.frame) = [f] ∧
    (ends f .p (win 1 .forward ⟨false, true, false, false⟩)).fsw.windowDrop = #v[0, 1, 0, 0] ∧
    (ends f .p (win 1 .deliverAndForward ⟨false, true, false, false⟩)).fsw.windowDrop = #v[0, 0, 0, 0] ∧
    (ends (frame 9 5 1 []) .p (win 9 .deliverAndForward ⟨false, true, false, false⟩)).fsw.windowDrop = #v[0, 1, 0, 0] ∧
    (ends (frame 9 5 1 []) .p (win 9 .deliverAndForward ⟨false, true, false, false⟩)).fsw.undeliverable = #v[0, 1, 0, 0] ∧
    (ends m .w (win 8 .drop every)).pcw.tx[2].length = 1 ∧ (ends m .w (win 8 .drop every)).fsw.windowDrop = #v[1, 0, 0, 0] ∧
    (ends m .w (win 8 .forward ⟨false, true, false, false⟩)).pcw.tx[2].length = 1 ∧
    (ends m .w (win 8 .forward ⟨false, true, false, false⟩)).pcp.tx[2].length = 1 ∧
    (after .switchingEnd (inSwitch (frame 8 9 1 []) .w none)).pcw.tx[1].length = 1 ∧
    (after .switchingEnd (inSwitch (frame 8 9 1 []) .w none)).fsw.defaultDrop = #v[1, 0, 0, 0] ∧
    (ends (frame 8 5 1 []) .p (win 8 .deliver every)).fsw.refused = #v[0, 1, 0, 0] ∧
    (ends (frame 8 5 1 []) .p (win 8 .drop every)).fsw.refused = #v[0, 0, 0, 0] ∧
    (ends (frame 8 9 1 []) .w (win 8 .drop every)).fsw.refused = #v[1, 0, 0, 0] ∧
    (ends (frame 7 0 1 []) .p (win 7 .deliver every)).fsw.undeliverable = #v[0, 1, 0, 0] ∧
    (ends (frame 2 11 1 []) .h (win 2 .deliver every)).fsw.undeliverable = #v[0, 0, 0, 1] ∧
    (ends f .p noWindow).csu.request = some 1 ∧
    (let s := inSwitch (frame 2 11 1 []) .h (some (table (win 2 .deliver every)))
     let u := { s with role := .helper }
     (after .switchingEnd u).fsw.undeliverable = #v[0, 0, 0, 0] ∧ (after .switchingEnd u).piu.hDiscarded = 1) := by
  and_intros <;> decide +kernel

/-- A link in training, both lanes good, with the progress given. -/
def training (st : LinkState) (x : Training) : State :=
  let lane : LaneCtl := { LaneCtl.initial with good := true, loss := some 1015000 }
  { held with hlc := { linked with
      state := st, lane0 := lane, lane1 := { lane with good := false }, progress := x, training := some 1100000,
      goodFix := some 1002000, tsTimer := some 1000100, creditRefresh := none } }

def ts (role : Role) (good : Option LaneSet) (chosen : Option LaneSet) : Ts :=
  { role := role, fixed := good.isSome, good := good.getD ⟨false, false⟩, ready := chosen.isSome,
    chosen := chosen.getD ⟨false, false⟩ }

/-- R171 to R176. -/
theorem witness_LinkTrains :
    let h0 : LaneSet := ⟨true, false⟩
    let h1 : LaneSet := ⟨false, true⟩
    let x : Training := { Training.initial with roleSeen := true }
    (calm.hlc.retry = some 25000 ∧ held.hlc.tsTimer = none ∧ (after .retryTimerExpiry calm).hlc.state = .training ∧
      (after .retryTimerExpiry calm).hlc.training = some 1100000 ∧
      after .retryTimerExpiry { calm with hlc := linked } = { calm with hlc := linked }) ∧
    (let s := training .training { x with chosen := some h0, partnerReady := none }
     s.hlc.tsTimer = some 1000100 ∧ (after .tsSendTimer s).hlc.progress.readySent = true ∧
      (after .tsSendTimer s).hlc.lane0.out = .frame (.ts (ts .lead none (some h0)))) ∧
    (let s := training .retraining { x with chosen := some h0, partnerReady := some h0 }
     (after .tsSendTimer s).hlc.state = .up ∧ (after .tsSendTimer s).hlc.inUse = some h0 ∧
      isRaised .linkDegraded (.lane .h1) (after .tsSendTimer s) = true ∧ (after .tsSendTimer s).hlc.queues[0].epoch = 2 ∧
      (after .tsSendTimer s).hlc.lane0.out = .frame (.ts (ts .lead none (some h0))) ∧
      (after .tsSendTimer { s with hlc := { s.hlc with lane1 := { s.hlc.lane1 with bad := true } } }).hlc.lane1.out = .silent) ∧
    (let s := training .training x
     s.hlc.goodFix = some 1002000 ∧ (after .goodSetFix s).hlc.progress.good = some h0 ∧
      (after .goodSetFix (training .training { x with partnerGood := some h1 })).hlc.state = .down ∧
      (after .goodSetFix (training .training { x with partnerGood := some ⟨true, true⟩ })).hlc.progress.chosen = some h0) ∧
    (let s := training .retraining x
     s.hlc.training = some 1100000 ∧ (after .trainingTimerExpiry s).hlc.state = .down ∧
      isRaised .linkDown .linkH (after .trainingTimerExpiry s) = true ∧
      isRaised .linkDown .linkH (after .trainingTimerExpiry (training .training x)) = false) ∧
    (let s := training .roleMismatch x
     (after (.tsReceived .h0 (ts .helper none none)) s).hlc.lane0.loss = some 1020000) ∧
    (let s := { calm with hlc := { Hlc.initial with state := .down } }
     (after (.tsReceived .h0 (ts .helper none none)) s).hlc.state = .training ∧
      (after (.tsReceived .h0 (ts .helper none none)) s).hlc.lane0.tsRun = 1) ∧
    (let s := { held with hlc := linked }
     (after (.tsReceived .h0 (ts .helper none none)) s).hlc.state = .retraining ∧
      (after (.tsReceived .h0 (ts .helper none none)) s).hlc.queues[0].state = .pending) ∧
    (let s := training .training Training.initial
     s.hlc.progress.roleSeen = false ∧ (after (.tsReceived .h0 (ts .lead none none)) s).hlc.state = .roleMismatch ∧
      isRaised .linkRoleMismatch .linkH (after (.tsReceived .h0 (ts .lead none none)) s) = true ∧
      (after (.tsReceived .h1 (ts .helper (some h0) none)) s).hlc.progress.partnerGood = some h0) ∧
    (let s := training .training { x with good := some h0 }
     (after (.tsReceived .h0 (ts .helper (some ⟨true, true⟩) none)) s).hlc.progress.chosen = some h0 ∧
      (after (.tsReceived .h0 (ts .helper (some h1) none)) s).hlc.state = .down) ∧
    (let s := training .training { x with good := some h0, chosen := some h0, readySent := true }
     (after (.tsReceived .h0 (ts .helper (some h0) (some h0))) s).hlc.state = .up) := by
  and_intros <;> decide +kernel

/-- R172: a ready TS with another chosen set, and a good set fixed after a ready TS was sent. -/
theorem witness_LinkTrains_anew :
    let h0 : LaneSet := ⟨true, false⟩
    let both : LaneSet := ⟨true, true⟩
    let x : Training := { Training.initial with roleSeen := true }
    let hears := fun (y : Training) (t : Ts) => (after (.tsReceived .h0 t) (training .training y)).hlc
    let formed : Training := { x with good := some h0, partnerGood := some both, chosen := some h0, readySent := true }
    (let y := { formed with partnerGood := some both, good := some both, chosen := some both }
     (hears y (ts .helper (some h0) (some h0))).state = .up ∧ (hears y (ts .helper (some h0) (some h0))).inUse = some h0 ∧
      (hears { y with readySent := false } (ts .helper (some h0) (some h0))).progress.chosen = some h0 ∧
      (hears { y with readySent := false } (ts .helper (some h0) (some h0))).state = .training) ∧
    ((hears formed (ts .helper none (some both))).state = .training ∧
      (hears formed (ts .helper none (some both))).progress.chosen = some h0 ∧
      (hears formed (ts .helper none (some both))).progress.readySent = true) ∧
    (hears formed (ts .helper (some ⟨false, true⟩) (some both))).state = .down ∧
    (hears { formed with readySent := false } (ts .helper (some both) (some h0))).progress.partnerReady = some h0 ∧
    (hears { formed with readySent := false } (ts .helper (some both) (some h0))).state = .training ∧
    (hears formed (ts .helper (some both) (some h0))).state = .up ∧
    (let s := training .training { x with partnerGood := some both, readySent := true, partnerReady := some h0 }
     (after .goodSetFix s).hlc.state = .up ∧ (after .goodSetFix s).hlc.inUse = some h0) := by
  and_intros <;> decide +kernel

/-- R170, R174 to R176: the seventh and the eighth bad frame within a second. -/
theorem witness_LaneFaults :
    let up := fun (n : Nat) =>
      { held with hlc := { linked with lane0 := { linked.lane0 with errors := List.replicate n 999000 } } }
    ((after (.linkFrameCrcError .h0) calm).hlc.lane0.crcError = 1 ∧ calm.hlc.state = .down) ∧
    ((after (.linkFrameCrcError .h0) (training .training Training.initial)).hlc.lane0.errors = []) ∧
    ((after (.linkFrameCrcError .h0) (up 6)).hlc.lane0.errors.length = 7 ∧ (after (.linkFrameCrcError .h0) (up 6)).hlc.state = .up) ∧
    ((after (.linkFrameCrcError .h0) (up 7)).hlc.state = .retraining ∧ (after (.linkFrameCrcError .h0) (up 7)).hlc.lane0.bad = true) ∧
    (after (.laneErrorAgeOut .h0) (up 0) = up 0 ∧ (after (.laneErrorAgeOut .h0) (up 2)).hlc.lane0.errors = [999000] ∧
      (after (.laneErrorAgeOut .h0) (up 2)).now = 1999000) ∧
    ((up 0).hlc.lane0.loss = some 1015000 ∧ (after (.laneLossTimerExpiry .h0 true) (up 0)).hlc.state = .retraining ∧
      (after (.laneLossTimerExpiry .h0 false) (up 0)).hlc.state = .down ∧
      isRaised .linkDown .linkH (after (.laneLossTimerExpiry .h0 false) (up 0)) = true) ∧
    (let s := { training .roleMismatch Training.initial with
       mgu := { calm.mgu with raised := [(.linkRoleMismatch, .linkH)] } }
     (after (.laneLossTimerExpiry .h0 false) s).hlc.state = .down ∧
      isRaised .linkRoleMismatch .linkH (after (.laneLossTimerExpiry .h0 false) s) = false ∧
      (after (.laneLossTimerExpiry .h0 true) s).hlc.state = .roleMismatch) ∧
    (let s := { held with hlc := { linked with inUse := some ⟨false, true⟩ } }
     (after (.laneLossTimerExpiry .h0 false) s).hlc.state = .up ∧ (after (.laneLossTimerExpiry .h0 false) s).hlc.lane0.loss = none) ∧
    ((after (.laneLossTimerExpiry .h0 true) (training .training Training.initial)).hlc.state = .training) := by
  and_intros <;> decide +kernel

/-- R174 at width 1: the mark makes the retraining spent, its good set is empty though H1 is good and not marked, and the partner's
report takes the link DOWN. At width 2 the mark spends nothing, and the other lane carries the link on. -/
theorem witness_LaneFaults_width1 :
    let h0 : LaneSet := ⟨true, false⟩
    let both : LaneSet := ⟨true, true⟩
    let up := fun (x : LaneSet) =>
      { held with hlc := { linked with
          inUse := some x, lane0 := { linked.lane0 with errors := List.replicate 7 999000 } } }
    let marked := fun (x : LaneSet) => after (.linkFrameCrcError .h0) (up x)
    let trained := fun (x : LaneSet) => let s := marked x
      after .goodSetFix { s with hlc := { s.hlc with
        lane1 := { s.hlc.lane1 with good := true }, progress := { s.hlc.progress with roleSeen := true } } }
    let told := fun (x : LaneSet) => after (.tsReceived .h1 (ts .helper (some both) none)) (trained x)
    (marked h0).hlc.state = .retraining ∧ (marked h0).hlc.progress.spent = true ∧ (marked h0).hlc.progress.chosen = none ∧
    (marked h0).hlc.progress.good = none ∧ (marked both).hlc.progress.spent = false ∧
    (trained h0).hlc.progress.good = some ⟨false, false⟩ ∧ (trained h0).hlc.state = .retraining ∧
    (trained both).hlc.progress.good = some ⟨false, true⟩ ∧
    (told h0).hlc.state = .down ∧ (told both).hlc.progress.chosen = some ⟨false, true⟩ ∧
    (after .trainingTimerExpiry (trained h0)).hlc.state = .down ∧
    (after .tsSendTimer (marked h0)).hlc.lane1.out = .frame (.ts (ts .lead none none)) ∧
    (after (.tsReceived .h1 (ts .lead none none)) (marked h0)).hlc.state = .roleMismatch := by
  and_intros <;> decide +kernel

/-- R178 to R180, with a gap of 32 and of 33, and R177's class map. -/
theorem witness_LinkQueuesMove :
    let up := fun (y : LinkQueue) =>
      { held with
        hlc := { linked with queues := linked.queues.set 1 y },
        fsw := { Fsw.initial with inSwitch := some { frame := frame 1 5 2 [], ingress := .w, deadline := 1000100 } } }
    let y : LinkQueue := { (LinkQueue.initial .opened) with credit := 3, epoch := 1, partner := some 3, confirmed := true }
    let e : TxEntry := { frame := frame 7 0 1 [], origin := .csu }
    let f := frame 3 21 2 [0, 0]
    (let s := training .training Training.initial
     s.hlc.state ≠ .up ∧ (after (.creditAnnounce .h0 1 1 32) s).hlc.queues = s.hlc.queues ∧
      (after (.creditConfirm .h0 1 1) s).hlc.lane0.loss = some 1020000) ∧
    (up (LinkQueue.initial .disabled)).hlc.queues[1].state = .disabled ∧
    (after (.creditAnnounce .h0 1 1 32) (up (LinkQueue.initial .disabled))).hlc.queues[1] = LinkQueue.initial .disabled ∧
    (after (.creditAnnounce .h0 1 9 255) (up y)).hlc.queues[1].state = .pending ∧
    (after (.creditAnnounce .h0 1 9 255) (up y)).hlc.queues[1].epoch = 2 ∧
    (after (.creditAnnounce .h0 1 3 32) (up y)).hlc.queues[1] = y ∧
    (after (.creditAnnounce .h0 1 4 32) (up { y with state := .pending, partner := none })).hlc.queues[1].state = .opened ∧
    (after (.creditConfirm .h0 1 1) (up { y with state := .pending, confirmed := false })).hlc.queues[1].state = .opened ∧
    (after (.creditConfirm .h0 1 2) (up { y with state := .pending, confirmed := false })).hlc.queues[1].state = .pending ∧
    (after (.creditReturn .h0 1 3 1) (up { y with lastReturn := 254 })).hlc.queues[1].credit = 6 ∧
    (after (.creditReturn .h0 1 4 1) (up { y with lastReturn := 254 })).hlc.queues[1].credit = 3 ∧
    (after (.data .h0 1 0 f) (up (LinkQueue.initial .disabled))).hlc.disabledDrop = 1 ∧
    (after (.data .h0 1 33 f) (up y)).hlc.state = .retraining ∧ (after (.data .h0 1 33 f) (up y)).hlc.sequenceError = 1 ∧
    (after (.data .h0 1 32 f) (up y)).hlc.queues[1].rx = [f] ∧ (after (.data .h0 1 32 f) (up y)).hlc.queues[1].lostFrames = 32 ∧
    (after (.data .h0 1 0 f) (up y)).hlc.queues[1].rx = [f] ∧ (after (.data .h0 1 0 f) (up y)).hlc.queues[1].expected = 1 ∧
    (after (.data .h0 1 0 (frame 0 6 1 [])) (up y)).hlc.mapMismatch = 1 ∧
    (after (.data .h0 1 0 (frame 0 6 1 [])) (up y)).hlc.queues[1].freed = 1 ∧
    (up y).hlc.creditRefresh = some 1010000 ∧ (after .creditRefreshTimerExpiry (up y)).hlc.creditRefresh = some 1020000 ∧
    ((laneOfQueue (up y) 1).map fun k => (laneOf (after .creditRefreshTimerExpiry (up y)) k).control.contains (.ret 1)) =
      some true ∧
    (let s := up { y with tx := [e] }
     let l := (laneOfQueue s 1).getD .h0
     laneInUse s l = true ∧ (laneOf s l).sending = none ∧ (laneOf s l).control = [] ∧ 0 < s.hlc.queues[1].credit ∧
      (laneOf (after (.dataSend l) s) l).sending = some 1 ∧ (after (.dataSend l) s).hlc.queues[1].credit = 2 ∧
      (after (.dataSendEnd l) (after (.dataSend l) s)).hlc.queues[1].tx = [] ∧
      (let u := onLane l (fun x => { x with control := [.ret 1] }) s
       after (.dataSend l) u = u ∧ (laneOf (after (.linkControlSend l) u) l).out = .frame (.ret 1 1 0) ∧
        (laneOf (after (.linkControlSend l) u) l).control = [])) := by
  and_intros <;> decide +kernel

/-- R180: a full queue, and a gap before a frame of another class map. -/
theorem witness_LinkQueuesMove_full :
    let f := frame 3 21 2 [0, 0]
    let y : LinkQueue := { (LinkQueue.initial .opened) with credit := 3, epoch := 1, partner := some 3, confirmed := true }
    let up := fun (y : LinkQueue) =>
      { held with
        hlc := { linked with queues := linked.queues.set 1 y },
        fsw := { Fsw.initial with inSwitch := some { frame := frame 1 5 2 [], ingress := .w, deadline := 1000100 } } }
    let q := fun (n : Byte) (f : Frame) (y : LinkQueue) => (after (.data .h0 1 n f) (up y)).hlc.queues[1]
    let full := { y with rx := List.replicate 32 f }
    let counts := fun x : LinkQueue => (x.rx.length, x.expected, x.lostFrames, x.overrun, x.freed)
    counts (q 0 f full) = (32, 1, 0, 1, 1) ∧ counts (q 1 f full) = (32, 2, 1, 1, 2) ∧ counts (q 32 f full) = (32, 33, 32, 1, 33) ∧
    counts (q 0 f { y with rx := List.replicate 31 f }) = (32, 1, 0, 0, 0) ∧
    counts (q 1 f { y with rx := List.replicate 31 f }) = (32, 2, 1, 0, 1) ∧
    counts (q 2 (frame 0 6 1 []) y) = (0, 3, 2, 0, 3) ∧
    (after (.data .h0 1 2 (frame 0 6 1 [])) (up y)).hlc.mapMismatch = 1 ∧
    counts (q 255 f y) = (0, 0, 0, 0, 0) := by
  and_intros <;> decide +kernel

/-- The payloads that wait for W in Q1. -/
def sentW (s : State) : List (List Byte) := s.pcw.tx[1].map (·.frame.payload)

/-- R189, R196, R199. -/
theorem witness_ReadRequests :
    (let s := { calm with mgu := { calm.mgu with resetting := true } }
     s.mgu.resetting = true ∧ after (.identify 5) s = s ∧ after (.resetCore 5) s = s ∧ after (.bunker 5 2 1) s = s) ∧
    (let s := tow (coupled 52 1 2 .loaded (some 100) 0)
     s.mgu.resetting = false ∧ s.pcw.state ≠ .isolated ∧ s.pcw.tx[classQueue s .w 9].length + 2 ≤ 16 ∧
      sentW (after (.identify 5) s) = [[0, 128, 1, 154, 0, 0, 0, 0]] ∧
      sentW (after (.counterRead 5 5) s) = [[0, 0, 0, 0, 0, 0, 0, 0], [0, 129, 0, 0]] ∧
      sentW (after (.readRecord 5 5 8) s) = [[9, 128]] ∧ sentW (after (.readRecord 5 8 0) s) = [[9, 128]] ∧
      sentW (after (.readRecord 5 4 47) s) = [[8, 128]] ∧ sentW (after (.readRecord 5 4 2) s) = [[0, 128, 2, 0, 2, 2, 1]] ∧
      s.cmu.couplings.length = 2 ∧ sentW (after (.readRecord 5 3 2) s) = [[8, 128]] ∧
      sentW (after (.readRecord 5 3 61) s) = [[8, 128]] ∧ sentW (after (.readRecord 5 6 11) s) = [[8, 128]] ∧
      sentW (after (.readStatus 5 0) s) = [[0, 0, 1, 0, 0, 0, 0, 0], [0, 1, 0, 0, 0, 0, 1, 144], [0, 130, 0, 0, 0]] ∧
      sentW (after (.readStatus 5 11) s) = [[9, 128]] ∧ sentW (after (.counterRead 5 11) s) = [[9, 128]] ∧
      sentW (after (.counterClear 5 254) s) = [[9, 128]] ∧ sentW (after (.counterClear 5 5) s) = [[0, 128]] ∧
      sentW (after (.counterClear 5 9) s) = [[0, 128]] ∧
      sentW (after (.malformedRequest (frame 8 5 1 [0])) s) = [[9, 128]] ∧
      (after (.malformedRequest (frame 8 5 21 [])) s).mgu.malformedRequest = 1) := by
  and_intros <;> decide +kernel

/-- The data of the responses that wait for W in Q1, part after part. -/
def answerData (s : State) : List Byte := (sentW s).flatMap (·.drop 2)

/-- R197: records of each kind, of a window as stored, and the status areas. -/
theorem witness_ReadRequests_records :
    let s := tow (coupled 52 1 2 .loaded (some 100) 0)
    let table := { windows with maps := Vector.replicate 4 (Vector.replicate 16 1) }
    let f := { s with fsw := { Fsw.initial with table := some table, commit := 7 } }
    s.tau.alloc = some alloc ∧
    answerData (after (.readRecord 5 1 0) s) = [0, 1, 17, 27, 0, 0, 0, 0, 0, 0, 0, 0, 0, 0, 0, 0, 0] ∧
    answerData (after (.readRecord 5 2 0) s) =
      [1, 5, 0, 0, 2, 0, 1, 1, 144, 1, 0, 0, 1, 0, 9, 1, 0, 0, 0, 40] ∧
    (sentW (after (.readRecord 5 2 0) s)).map (·.take 2) = [[0, 0], [0, 1], [0, 2], [0, 131]] ∧
    (s.cmu.couplings[1]? ≠ none ∧ answerData (after (.readRecord 5 3 1) s) =
      [52, 1, 2, 0, 3, 232, 255, 255, 0, 2, 1, 0, 100, 0, 0, 0, 0, 0, 0, 0, 0, 0, 0, 50, 1, 244, 3, 32]) ∧
    f.fsw.table = some table ∧
    answerData (after (.readRecord 5 7 3) f) = [1, 9, 32, 0, 47, 255, 1, 2, 3] ∧
    answerData (after (.readRecord 5 7 31) f) = [0, 0, 0, 0, 255, 255, 3, 0, 0] ∧
    (answerData (after (.readStatus 5 4) f)).take 6 = [1, 1, 0, 0, 0, 7] ∧
    (answerData (after (.readStatus 5 6) s)).take 6 = [0, 0, 0, 0, 0, 0] ∧
    (answerData (after (.readStatus 5 8) s)).length = (answerData (after (.readStatus 5 7) s)).length + 1 ∧
    answerData (after (.counterRead 5 9) { s with nvs := { s.nvs with slotFailure := 258 } }) = [0, 0, 0, 0, 1, 2] := by
  and_intros <;> decide +kernel

/-- R189, R196: responses that the port drops, one part of two, and COUNTER-CLEAR of every counter. -/
theorem witness_ReadRequests_dropped :
    let e : TxEntry := { frame := frame 12 0 1 [], origin := .mgu }
    let s := fun (n : Nat) => { calm with pcw := { PortCtl.initial with tx := PortCtl.initial.tx.set 1 (List.replicate n e) } }
    let shut := { calm with pcw := { PortCtl.initial with state := .isolated } }
    classQueue calm .w 9 = 1 ∧
    (after (.identify 5) shut).pcw.flushDrop = 1 ∧ (after (.identify 5) shut).mgu.responseDrop = 1 ∧
    (after (.identify 5) (s 16)).pcw.txDrop = #v[0, 1, 0, 0] ∧ (after (.identify 5) (s 16)).mgu.responseDrop = 1 ∧
    (after (.identify 5) (s 15)).mgu.responseDrop = 0 ∧
    ((after (.counterRead 5 5) (s 15)).pcw.tx[1].length = 16 ∧ (after (.counterRead 5 5) (s 15)).mgu.responseDrop = 1 ∧
      (after (.counterRead 5 5) (s 15)).pcw.txDrop = #v[0, 1, 0, 0]) ∧
    (let u := { s 16 with csu := { calm.csu with helmClamp := 7 }, pck := { calm.pck with overrun := #v[1, 2, 3, 4] } }
     (after (.counterClear 5 255) u).csu.helmClamp = 0 ∧ (after (.counterClear 5 255) u).pck.overrun = #v[0, 0, 0, 0] ∧
      (after (.counterClear 5 255) u).mgu.responseDrop = 1 ∧ (after (.counterClear 5 255) u).pcw.txDrop = #v[0, 1, 0, 0]) := by
  and_intros <;> decide +kernel

/-- R81, R139, R199 to R202. -/
theorem witness_PartRequests :
    (let s := { calm with
       pcw := { PortCtl.initial with overrunFlag := PortCtl.initial.overrunFlag.set 1 true },
       mgu := { calm.mgu with
         raised := [(.queueOverrun, .portQueue .w 1), (.linkDown, .linkH)],
         sticky := ((Mgu.initial.sticky.set 22 true).set 24 true).set 0 true } }
     s.mgu.resetting = false ∧ (after (.clearSticky 5) s).pcw.overrunFlag = Vector.replicate 4 false ∧
      (after (.clearSticky 5) s).mgu.raised = [(.linkDown, .linkH)] ∧
      (after (.clearSticky 5) s).mgu.sticky = Mgu.initial.sticky.set 24 true) ∧
    (let s := { calm with cmu := { calm.cmu with causes := ⟨false, false, true⟩ } }
     after (.makeupConfirm 5) calm = respond 5 19 .refusedState [] calm ∧
      (after (.makeupConfirm 5) s).cmu.causes = ⟨false, false, false⟩) ∧
    (calm.pcw.state ≠ .isolated ∧ calm.pcw.tx[classQueue calm .w 9].length < 16 ∧
      (after (.resetCore 5) calm).mgu.resetting = true ∧ sentW (after (.resetCore 5) calm) = [[0, 128]] ∧
      (let s := { calm with pcw := { PortCtl.initial with state := .isolated } }
       (after (.resetCore 5) s).power = .coreReset)) ∧
    (let s := { cruise 600 200 600 (-2) .available with mgu := calm.mgu }
     s.mgu.summary = some 1500000 ∧ sentW (after .summaryTimerExpiry s) = [[2, 88, 255, 254, 1, 144, 12, 0]] ∧
      (after .summaryTimerExpiry { s with pcw := { PortCtl.initial with state := .isolated } }).mgu.statusDrop = 1) ∧
    (let s := steered (some 100) (some 2000000)
     s.piu.rudders[0].deviation = some 2000000 ∧ isRaised .rudderFault (.rudder 0) s = false ∧
      sentW (after (.deviationTimerExpiry 0) s) = [[8, 1, 3, 0, 1]] ∧
      (after (.deviationTimerExpiry 0) s).mgu.sticky[(7 : Fin 27)] = true) := by
  and_intros <;> decide +kernel

/-- R199: RESET-CORE while the slot of the long requests is busy. -/
theorem witness_PartRequests_busy :
    let full := bankWith .makeup ownBoat 0 none
    let s := longOp (.bankErase boatA) (.erase boatA) full
    let r := after (.resetCore 5)
    let w : WaitingCheckpoint := ⟨snapshotOf calm.fau false, false⟩
    (s.mgu.slot ≠ none ∧ s.pcw.state ≠ .isolated ∧ s.pcw.tx[classQueue s .w 9].length < 16 ∧
      (r s).mgu.slot = none ∧ (r s).mgu.resetting = true ∧ (r s).nvs.current = none ∧ (r s).nvs.banks[4].torn = true ∧
      sentW (r s) = [[0, 128]] ∧ (after (.bankEraseEnd true) (r s)).pcw = (r s).pcw) ∧
    (let u := { s with nvs := { s.nvs with waiting := some w } }
     u.nvs.newest.elim 0 (·.seq) < 4294967294 ∧ (r u).nvs.current = some ⟨.slotErase, 1060000⟩ ∧
      (r u).nvs.waiting = none ∧ (r u).power = .run) ∧
    (let u := { s with nvs := { s.nvs with
       current := some ⟨.slotErase, 1000500⟩, suspended := some ⟨boatA, 250000⟩,
       checkpoint := some ⟨snapshotOf calm.fau false, false, 3, 10, 0⟩ } }
     (r u).nvs.current = u.nvs.current ∧ (r u).nvs.checkpoint = u.nvs.checkpoint ∧ (r u).nvs.suspended = none ∧
      (r u).nvs.banks[4].torn = true) ∧
    (markGood (r (longOp (.markWord boatA 9) (.commit .makeup) full)).nvs.banks[4] = false) ∧
    ((r (longOp (.lockErase boatA) (.unlock boatA) full)).nvs.flags[4] = .partly ∧
      (r (longOp (.lockErase boatA) (.unlock boatA) full)).nvs.locked[(4 : Fin 10)] = true) ∧
    (r (longOp (.loadProgram boatA 0 [1]) (.loadData [1]) full)).nvs.banks[4].torn = true ∧
    (let u := { s with pcw := { s.pcw with state := .isolated } }
     (r u).power = .coreReset ∧ (r u).nvs.current = none) := by
  and_intros <;> decide +kernel

theorem witness_StepRunsFrontCommand :
    ∃ s : State, s.pending = .busIdle .w :: [.take 5] ∧ (∃ t, step s = .next t ∧ t.pcw.line = .idle ∧ t.pending = [.take 5]) ∧
      calm.pending = [] ∧ step calm = .next { calm with now := 1000001 } :=
  ⟨{ calm with pending := [.busIdle .w, .take 5] }, rfl, ⟨_, rfl, by decide +kernel, by decide +kernel⟩, rfl, rfl⟩

/-- Every default DELIVER and no window. -/
def delivering : WindowTable :=
  { windows with windows := Vector.replicate 32 noWindow, defaults := Vector.replicate 4 true, nodes := [] }

/-- What a delivery shows: what waits for W, the counters of discarded frames and the store's operation. -/
def shown (t : State) : List (List Byte) × Nat × Option RunningOp :=
  (t.pcw.tx.toList.flatten.map (·.frame.payload),
   t.csu.unknownNode + t.piu.malformedFeedback + t.cmu.malformedReport + t.fau.malformedMeter, t.nvs.current)

/-- The state a delivery finds, and the end of the switching of a frame that is delivered. -/
def switchFree : State := { held with now := 1000200, fsw := { Fsw.initial with table := some delivering } }
def deliver (f : Frame) (x : PortName) : State := after .switchingEnd (inSwitch f x (some delivering))

/-- R158: a delivery is the unit's command on the state with the switch free. -/
theorem witness_SwitchingEnds_deliveries :
    ∀ x ∈ ([(frame 0 6 1 [], .p, .allStop 6), (frame 1 6 3 [], .p, .give 6), (frame 1 6 4 [], .k, .takeForce 6),
        (frame 1 5 5 [], .p, .takeBack 5), (frame 1 5 6 [], .w, .joinGive 5), (frame 1 5 7 [], .h, .allStopClear 5),
        (frame 1 5 8 [], .w, .unknownNodeFrame (frame 1 5 8 [])), (frame 0 5 2 [], .w, .unknownNodeFrame (frame 0 5 2 [])),
        (frame 3 21 1 [0], .p, .malformedFeedback (frame 3 21 1 [0])),
        (frame 4 52 2 [0], .k, .malformedReport (frame 4 52 2 [0])), (frame 5 31 1 [], .p, .malformedMeter (frame 5 31 1 [])),
        (frame 6 5 3 [], .w, .releaseFrameUnknownKind (frame 6 5 3 [])), (frame 7 0 2 [], .h, .joinAccept),
        (frame 7 0 3 [1], .h, .unjoin 1)] : List (Frame × PortName × Instr)),
      shown (deliver x.1 x.2.1) = shown (after x.2.2 switchFree) := by decide +kernel

/-- R159: the same of each request. -/
theorem witness_SwitchingEnds_requests :
    ∀ x ∈ ([(2, [5, 0], .readRecord 7 5 0), (3, [4], .readStatus 7 4), (6, [], .clearSticky 7), (7, [3, 0], .bankErase 7 3 0),
        (8, [3, 0], .bankBlankCheck 7 3 0), (9, [3, 0, 0, 5], .loadBegin 7 3 0 5),
        (10, [0, 0, 1, 2, 3, 4, 5, 6], .loadData 7 0 [1, 2, 3, 4, 5, 6]), (11, [1, 2, 3, 4], .loadEnd 7 0x01020304#32),
        (12, [3], .bankCommit 7 3), (13, [3, 0], .bankLock 7 3 0), (14, [3, 0], .bankUnlock 7 3 0),
        (15, [0, 1, 2], .voyageOpen 7 0 0x0102#32), (15, [1, 1, 2, 3, 4], .voyageOpen 7 1 0x01020304#32),
        (16, [], .voyageClose 7), (17, [2, 1, 2, 3, 4], .bunker 7 2 0x01020304#32), (18, [1, 2], .setLineup 7 1 2),
        (19, [], .makeupConfirm 7), (20, [], .resetCore 7), (21, [], .malformedRequest (frame 8 7 21 []))] :
        List (BitVec 6 × List Byte × Instr)),
      shown (deliver (frame 8 7 x.1 x.2.1) .w) = shown (after x.2.2 switchFree) := by decide +kernel

/-- R155, R199: a class 7 frame of another kind, and a RESET-CORE whose response is dropped at once. -/
theorem witness_SwitchingEnds_odd :
    (deliver (frame 7 0 9 []) .h).csu.class7Ignored = 1 ∧
    (let s := inSwitch (frame 8 7 20 []) .w (some delivering)
     (after .switchingEnd { s with pcw := { s.pcw with state := .isolated } }).power = .coreReset) := by
  and_intros <;> decide +kernel

/-- A switching that ends with frames at W (Q0), K (Q2: `g`, then `f`) and H (Q3: the queue given), P last served. -/
def turning (y : LinkQueue) : State :=
  let s := inSwitch (frame 9 6 2 []) .p none
  { s with
    fsw := { s.fsw with lastServed := .p }, pcw := { s.pcw with rx := s.pcw.rx.set 0 [frame 9 6 2 []] },
    pck := { s.pck with rx := s.pck.rx.set 2 [frame 3 21 2 [0, 0], frame 9 6 2 []] },
    hlc := { linked with queues := linked.queues.set 3 y } }

/-- An OPEN queue with one frame in each direction. -/
def busyQueue : LinkQueue :=
  { (LinkQueue.initial .opened) with
    rx := [frame 3 21 2 [0, 0]], tx := [{ frame := frame 9 6 2 [], origin := .fsw }], credit := 3, epoch := 255 }

/-- R153: the turn after the last served port, a freed entry of the link, and a DISABLED queue passed over. -/
theorem witness_SwitchingEnds_turns :
    let t := after .switchingEnd (turning busyQueue)
    let s := { turning busyQueue with pck := PortCtl.initial }
    let u := after .switchingEnd s
    let v := after .switchingEnd { s with hlc := { s.hlc with queues := s.hlc.queues.set 3 { busyQueue with state := .disabled } } }
    t.fsw.inSwitch = some { frame := frame 3 21 2 [0, 0], ingress := .k, deadline := 1000400 } ∧
    t.pck.rx[2] = [frame 9 6 2 []] ∧ t.fsw.lastServed = .k ∧
    u.fsw.inSwitch.map (·.ingress) = some .h ∧ u.hlc.queues[3].rx = [] ∧ u.hlc.queues[3].freed = 1 ∧
    u.hlc.lane1.control = [.ret 3] ∧ v.fsw.inSwitch.map (·.ingress) = some .w := by
  and_intros <;> decide +kernel

/-- R165, R182: a swap that unloads WINDOW disables Q1 to Q3. -/
theorem witness_SwitchingEnds_swap :
    let s := turning busyQueue
    let u := { s with fsw := { s.fsw with swapWaiting := true }, hlc := { s.hlc with lane1 := { s.hlc.lane1 with sending := some 3 } } }
    let t := after .switchingEnd u
    t.hlc.queues[3].state = .disabled ∧ t.hlc.queues[3].credit = 0 ∧ t.hlc.flushDrop = 1 ∧ t.hlc.disabledDrop = 1 ∧
    t.hlc.lane1.control = [.announce 1 2 255, .announce 3 0 255] ∧ t.hlc.lane1.sending = none ∧
    t.hlc.queues[0] = u.hlc.queues[0] ∧ t.fsw.swapWaiting = false := by
  and_intros <;> decide +kernel

/-- A WINDOW bank that enables Q3 alone beside Q0. -/
def enablesQ3 : Bank := bankWith .window (List.replicate 356 255 ++ [8]) 0 (some 5)

/-- A swap to that table, which the commit awaits. -/
def enabling : State :=
  let s := turning (LinkQueue.initial .disabled)
  after .switchingEnd { s with
    fsw := { s.fsw with swapWaiting := true },
    nvs := { Nvs.initial with banks := Nvs.initial.banks.set 2 enablesQ3, active := Nvs.initial.active.set 1 (some false) },
    mgu := { calm.mgu with slot := some ⟨7, .commit .window⟩ } }

/-- R166, R182: the queue enabled is PENDING and announced, and the commit is answered with its number. -/
theorem witness_SwitchingEnds_enables :
    (enabling.hlc.queues.map (·.state)) = #v[.opened, .disabled, .disabled, .pending] ∧
    enabling.hlc.queues[3].announced = 32 ∧ enabling.fsw.commit = 5 ∧
    enabling.hlc.lane1.control = [.announce 1 2 255, .announce 3 1 32] ∧ enabling.mgu.slot = none ∧
    enabling.fsw.table.isSome = true := by
  and_intros <;> decide +kernel

/-- R111, R112, R114, R124: the checkpoint that a BUNKER and a voyage that opens ask for, by the store's state. -/
theorem witness_AccountRequests_checkpoints :
    let store := fun (f : Nvs → Nvs) => { pair with nvs := f pair.nvs }
    let asks := fun (s : State) => (after (.bunker 5 2 10) s).nvs
    let w : WaitingCheckpoint := ⟨snapshotOf pair.fau true, true⟩
    let erasing := fun (n : Nvs) => { n with current := some ⟨.bankErase boatA, 1000500⟩ }
    let last := fun (n : Nvs) => { n with newest := some ⟨7, 4294967294⟩ }
    ((asks pair).current = some ⟨.slotErase, 1060000⟩ ∧
      (asks pair).checkpoint.map (fun c => (c.slot, c.seq, c.snapshot.bunkered, c.snapshot.balances[2])) =
        some (0, 1, 10, 30000010)) ∧
    (asks (store erasing)).suspended = some ⟨boatA, 500⟩ ∧ (asks (store erasing)).eraseSuspend = 1 ∧
    (asks (store last)).current = none ∧ isRaised .storeFail (.slot 0) (after (.bunker 5 2 10) (store last)) = true ∧
    (asks (store (erasing ∘ last))).current = some ⟨.bankErase boatA, 1000500⟩ ∧
    (asks (store ({ · with waiting := some w }))).replacedSnapshot = 1 ∧
    (asks (store ({ · with waiting := some w }))).waiting.map (fun x => (x.owed, x.snapshot.closing, x.snapshot.bunkered)) =
      some (true, false, 10) ∧
    (asks (store ({ · with current := some ⟨.blankCheck boatA, 1000500⟩ }))).waiting.map (·.snapshot.bunkered) = some 10 ∧
    (let s := { pair with
       fau := { pair.fau with voyage := { pair.fau.voyage with isOpen := false } },
       mgu := { pair.mgu with assembly := some { number := 9, soundings := [1, 2, 3, 4, 5, 6, 7] } } }
     (after (.voyageOpen 5 8 8) s).nvs.checkpoint.map (fun c => (c.snapshot.number, c.snapshot.opening, c.snapshot.closing)) =
       some (9, 36, false)) := by
  and_intros <;> decide +kernel

/-- R115: a BUNKER that meets the upper limit of a balance, and one that just reaches it. -/
theorem witness_AccountRequests_limit :
    let s := fun v : Int => { pair with fau := { pair.fau with tanks := pair.fau.tanks.set 2 ⟨v, .normal, true⟩ } }
    let t := fun v : Int => after (.bunker 5 2 10) (s v)
    (t 140737488355318).fau.tanks[2].balance = 140737488355327 ∧ (t 140737488355318).fau.sat = true ∧
    isRaised .fuelSat .none (t 140737488355318) = true ∧ (t 140737488355318).fau.voyage.bunkered = 10 ∧
    (t 140737488355317).fau.tanks[2].balance = 140737488355327 ∧ (t 140737488355317).fau.sat = false ∧
    (let u := { pair with fau := { pair.fau with table := none } }
     tankEntry u 5 = none ∧ (after (.bunker 5 5 10) u).fau.tanks[5] = ⟨10, .normal, false⟩) := by
  and_intros <;> decide +kernel

/-- R145, R199: the flush counts of each segment, and the response to RESET-CORE among the flushed frames. -/
theorem witness_PortLineEvents_flush :
    let e := fun o : Origin => ({ frame := frame 2 11 1 [], origin := o } : TxEntry)
    let full := fun o : Origin => { idlePort with tx := idlePort.tx.set 1 [e o, e .piu], flushDrop := 5 }
    let w := { ready with pcw := full .mgu }
    let raised := { w with mgu := { w.mgu with raised := [(.portIsolated, .port .w)] } }
    let k := { polled (coupled 52 1 2 .loaded (some 100) 1) with pck := full (.cmuPoll 4) }
    let lone := { k with cmu := { k.cmu with round := some { poll := ⟨1, 52, 4⟩, rest := [] }, answer := none } }
    (w.pcw.window = none ∧ (after (.stuckBus .w) w).pcw.flushDrop = 8 ∧ (after (.stuckBus .w) raised).pcw.flushDrop = 7) ∧
    (lone.cmu.startMarked = false ∧ (after (.stuckBus .k) lone).pck.flushDrop = 7 ∧
      (after (.stuckBus .k) lone).cmu.round = none) ∧
    (after (.stuckBus .p) { ready with pcp := full .fsw }).pcp.flushDrop = 7 ∧
    (after (.stuckBus .w) { ready with pcw := full .mguReset }).power = .coreReset := by
  and_intros <;> decide +kernel

/-- R170, R174, R179: a DATA frame outside UP, one that is too long, and one that the free switch takes. -/
theorem witness_LinkQueuesMove_outside :
    let f := frame 3 21 2 [0, 0]
    let long := frame 3 21 2 [0, 1, 2, 3, 4, 5, 6, 7, 8]
    let t := training .training Training.initial
    let up := { held with hlc := linked }
    let errors := fun (l : List Nat) => { up with hlc := { linked with lane0 := { linked.lane0 with errors := l } } }
    (t.hlc.state ≠ .up ∧ f.payload.length ≤ 8 ∧ (after (.data .h0 1 0 f) t).hlc.queues = t.hlc.queues ∧
      (after (.data .h0 1 0 f) t).hlc.lane0.loss = some 1020000 ∧
      (after (.data .h0 1 0 f) calm).hlc.lane0.loss = none ∧ calm.hlc.state = .down) ∧
    (8 < long.payload.length ∧ (after (.data .h0 1 0 long) t).hlc.lane0.crcError = 1 ∧
      (after (.data .h0 1 0 long) up).hlc.lane0.errors = [1000000] ∧ laneInUse up .h0 = true ∧
      (after (.data .h0 1 0 long) (errors (List.replicate 7 999000))).hlc.state = .retraining ∧
      (after (.data .h0 1 0 long) (errors (List.replicate 6 999000))).hlc.state = .up) ∧
    (up.fsw.inSwitch = none ∧ (after (.data .h0 1 0 f) up).fsw.inSwitch = some ⟨f, .h, 1000200⟩ ∧
      (after (.data .h0 1 0 f) up).hlc.queues[1].rx = [] ∧ (after (.data .h0 1 0 f) up).hlc.queues[1].freed = 1 ∧
      (after (.data .h0 1 0 f) up).hlc.lane1.control = [.ret 1]) := by
  and_intros <;> decide +kernel

/-- R197: the alarms and the management area. -/
theorem witness_ReadRequests_areas :
    let s := { calm with mgu := { calm.mgu with
      raised := [(.accountGap, .none), (.queueOverrun, .portQueue .k 2), (.linkDegraded, .lane .h1)],
      sticky := calm.mgu.sticky.set 21 true, slot := some ⟨6, .voyageClose⟩,
      load := some ⟨boatA, 6, 374, 62, 372, 0x01020304#32⟩, assembly := some { number := 258, soundings := [9] } } }
    answerData (after (.readStatus 5 9) s) = List.replicate 21 0 ++ [1, 0, 0, 0, 0, 0] ++
      [3, 21, 0, 0, 0, 0, 22, 9, 1, 0, 10, 25, 10, 1, 0, 1] ∧
    answerData (after (.readStatus 5 10) s) = [1, 15] ++ [1, 2, 0, 0, 6, 1, 118, 0, 62, 1, 116, 1, 2, 3, 4] ++
      [1, 1, 2, 0, 2, 1, 0, 0, 0, 9] ∧
    answerData (after (.readStatus 5 10) calm) = List.replicate 23 0 := by
  and_intros <;> decide +kernel

/-- A FUELMAP body: J_max, c_r 600, lineup tank 1, all tanks alike, the meters as given (section 11.1). -/
def fuelBytes (meters : List (List Byte)) : List Byte :=
  beBytes 4 20000 ++ beBytes 2 600 ++ [1, 1, 1, 1] ++
    (List.replicate 8 ([1] ++ beBytes 6 9000000 ++ beBytes 6 5000000 ++ beBytes 6 1000000)).flatten ++
    [byteOf meters.length] ++ meters.flatten

/-- Meters 31 (supply of E1), 33 (return of E2), 33 again, and a second supply of E1. -/
def newMeters : List (List Byte) := [[31, 0, 0, 0], [33, 1, 1, 0], [33, 0, 2, 0], [34, 0, 0, 0]]

/-- `pair` with METER-FAULT raised at its meter 32, and the mark word of a FUELMAP commit that ends. -/
def refuelling : State :=
  { pair with
    nvs := { Nvs.initial with
      banks := Nvs.initial.banks.set 8 (bankWith .fuelmap (fuelBytes newMeters) 0 none),
      current := some ⟨.markWord ⟨.fuelmap, false⟩ 1, 1000500⟩ },
    mgu := { pair.mgu with slot := some ⟨5, .commit .fuelmap⟩, raised := [(.meterFault, .meter 32)] } }

def refuelled : State := after (.markWordProgramEnd true) refuelling

/-- R117: a kept, a new and two ignored meters, a dropped one, and the tanks, lineups and caps. -/
theorem witness_StoreOperationsEnd_refuels :
    refuelling.power = .run ∧ refuelling.nvs.suspended = none ∧ refuelling.nvs.waitingOp = none ∧
    refuelling.nvs.waiting = none ∧ (∀ b : Fin 10, refuelling.nvs.banks[b].cells.wf = true) ∧
    (∀ i : Fin 8, refuelling.nvs.slots[i].cells.wf = true) ∧ markErased refuelling.nvs.banks[8] = true ∧
    (refuelled.fau.meters.map fun m => (m.entry.node, m.state, m.unused, m.silence)) =
      [(31, .running, false, some 5000000), (33, .unseen, false, some 6000500), (33, .unseen, true, none),
       (34, .unseen, true, none)] ∧
    isRaised .meterFault (.meter 32) refuelled = false ∧ isMetered pair.fau.meters 0 = true ∧
    isMetered refuelled.fau.meters 0 = true ∧
    refuelled.fau.tanks[2] = ⟨30000000, .normal, true⟩ ∧ refuelled.fau.tanks[1] = ⟨0, .empty, false⟩ ∧
    isRaised .tankOverfull (.tank 2) refuelled = true ∧ isRaised .tankEmpty (.tank 1) refuelled = true ∧
    refuelled.fau.lineup = #v[1, 1, 1, 1] ∧ refuelled.piu.engines[0].lineup = 1 ∧
    refuelled.piu.engines[3].cap = some 600 ∧ refuelled.mgu.slot = none := by
  decide +kernel

/-- R188: for each kind a body that passes, and bodies that fail one check each. -/
theorem witness_StoreOperationsEnd_checks :
    let coupling := couplingBytes [{ node := 62, unitA := 0, unitB := 0, kind := .face, limit := 9, threshold := none, locked := false }]
    let units := decodeMakeup ownBoat
    (fieldsOk .makeup none ownBoat = true ∧ fieldsOk .makeup none [1, 0, 0, 0, 1] = false ∧ fieldsOk .makeup none [2, 0, 0, 0, 0] = false ∧
      fieldsOk .makeup none [2, 0, 0, 0, 0, 0, 1, 0, 2] = false ∧ fieldsOk .makeup none [2, 0, 0, 0, 0, 1, 0, 0, 2] = false ∧
      fieldsOk .makeup none [2, 0, 0, 0, 0, 1, 0, 1, 4] = false ∧ fieldsOk .makeup none [2, 0, 0, 0, 0, 1, 0, 1, 3] = true) ∧
    (fieldsOk .coupling none coupling = true ∧ fieldsOk .coupling (some units) coupling = true ∧
      fieldsOk .coupling none (coupling.set 12 1) = false ∧ fieldsOk .coupling (some units) (coupling.set 13 1) = false ∧
      fieldsOk .coupling none (coupling.set 11 63) = false ∧ fieldsOk .coupling none (coupling.set 19 2) = false) := by
  decide +kernel

/-- R188: a FUELMAP body, and ones with a supply of a fifth engine, a tank flag of 2 and a transfer to a ninth tank. -/
theorem witness_StoreOperationsEnd_checks_fuelmap :
    fieldsOk .fuelmap none (fuelBytes newMeters) = true ∧ fieldsOk .fuelmap none ((fuelBytes newMeters).set 165 4) = false ∧
    fieldsOk .fuelmap none ((fuelBytes newMeters).set 10 2) = false ∧ fieldsOk .fuelmap none (fuelBytes [[31, 2, 7, 8]]) = false ∧
    fieldsOk .fuelmap none (fuelBytes [[31, 2, 7, 7]]) = true := by decide +kernel

/-- R188: an ALLOC body with two stations of one node, and with an idle speed at the ahead limit. -/
theorem witness_StoreOperationsEnd_checks_alloc :
    fieldsOk .alloc none (allocBytes alloc) = true ∧
    fieldsOk .alloc none (allocBytes { alloc with stations := alloc.stations.set 1 (alloc.stations[0]) }) = false ∧
    fieldsOk .alloc none (allocBytes { alloc with engines := updAt alloc.engines 0 fun e => { e with idle := e.maxAhead } }) = false := by
  decide +kernel

/-- R188: a WINDOW body of zeros, one with a valid window whose base lies above its limit, and one with a class map entry of 4. -/
theorem witness_StoreOperationsEnd_checks_window :
    let body : List Byte := List.replicate 374 0
    fieldsOk .window none body = true ∧ fieldsOk .window none ((body.set 0 1).set 3 1) = false ∧
    fieldsOk .window none (body.set 355 4) = false := by
  decide +kernel

/-- R2, R21, R45, R67, R152, R167, R171, R204: the state at reset is what a scan of a blank store leaves. -/
theorem reset_unitsStart : UnitsStart (Vector.replicate 27 false) (some .none) State.reset where
  runs := by decide
  csu := by decide
  tau := by decide
  piu := by decide
  engines := by decide
  lineups := by decide
  capless := by decide
  rudders := by decide
  cmu := by decide
  ports := ⟨rfl, rfl, rfl⟩
  fsw := by decide
  hlc := by decide
  queues := by decide
  mgu := by decide
  fau := by decide
  tanks := by decide
  raised a j := by
    have h : ∀ i : Fin 8, State.reset.fau.tanks[i] = ⟨0, .normal, false⟩ := by decide
    have g : State.reset.fau.sat = false := rfl
    have e : State.reset.mgu.raised = [(.accountGap, .none)] := rfl
    simp [isRaised, e, h, g]
    exact fun _ => ⟨Eq.symm, Eq.symm⟩
  once := by decide
  sticky a := by
    have h : (∃ j, isRaised a j State.reset = true) ↔ a = .accountGap := by simp [isRaised, State.reset]
    rw [h]; cases a <;> decide
  told := by
    refine ⟨by decide, by decide, by decide, fun k a j hk h => ?_⟩
    cases k with
    | zero =>
      have e : State.reset.mgu.raised = [(.accountGap, .none)] := rfl
      rw [e] at h ⊢
      obtain ⟨rfl, rfl⟩ := by simpa using h
      rfl
    | succ k => simp [State.reset] at h

/-- R73, R92, R94: a round polls index 0 with index 1 still to come; the go takes index 1 from the list, and the release that fails
does not bring it back. -/
theorem test_failed_release_is_skipped :
    let s := tow (coupled 52 1 2 .slack (some 0) 0)
    let r := { s with tau := { s.tau with dEff := 0 }, cmu := { s.cmu with
      release := .armed 0 1 52 9000000, round := some { poll := ⟨0, 51, 4⟩, rest := [1] }, answer := some 1015000 } }
    let go := after (.releaseGo 5 1 254) r
    let failed := after (.releaseDone 52 2) go
    go.cmu.round = some { poll := ⟨0, 51, 4⟩, rest := [] } ∧ failed.cmu.round = go.cmu.round ∧
    isHolding ((failed.cmu.couplings[1]?.map (·.state)).getD .released) = true ∧
    (after (.report 51 100 0) failed).cmu.round = none ∧ (after (.report 51 100 0) failed).pck.tx = failed.pck.tx ∧
    ((after (.report 51 100 0) r).cmu.round.map (·.poll.index)) = some 1 ∧
    (let late := { r with cmu := { r.cmu with couplings := r.cmu.couplings.modify 1 ({ · with failed := true }) } }
     (after (.releaseDone 52 1) late).cmu.round = some { poll := ⟨0, 51, 4⟩, rest := [] }) := by
  and_intros <;> decide +kernel

/-- R118, R130 to R132, R67, R171: a scan that finds a make-up bank and a closing checkpoint; a pin asserted; a part that runs. -/
theorem witness_ScanTakesStore_units :
    let s := scanning (stored 3) Bank.erased Nvs.initial.slots .erased
    let t := after .startUpScanEnd s
    t.cmu.units = [⟨⟨0, 0, 0, .ownBoat⟩, true⟩] ∧ t.cmu.nAtt = 0 ∧ t.power = .run ∧ t.hlc.retry = some 25000 ∧
    isRaised .accountGap .none t = true ∧
    { s with resetPin := true }.power = .scan ∧ (after .startUpScanEnd { s with resetPin := true }).power = .coreReset ∧
    calm.power ≠ .scan ∧ after .startUpScanEnd calm = calm ∧ calm.power ≠ .coreReset ∧ after .coreResetEnd calm = calm := by
  and_intros <;> decide +kernel

/-- R81, R201: the OK answers. -/
theorem witness_PartRequests_answers :
    let faulty := { held with cmu := { held.cmu with causes := ⟨true, false, false⟩ } }
    let sent := fun (s : State) => s.pcw.tx.toList.flatten.map fun e => (e.frame.cls, e.frame.kind, e.frame.payload)
    (9, 6, [0, 128]) ∈ sent (after (.clearSticky 7) held) ∧ (9, 19, [0, 128]) ∈ sent (after (.makeupConfirm 7) faulty) := by
  and_intros <;> decide +kernel

/-! ## Witnesses: the frames of one event, the course of a round, and the caps -/

/-- `held` in HOLD with COMMAND-STALE raised, an arm pending, and S1 matching. -/
def stale : State :=
  let s := heldWith fun c => { c with phase := .hold, stations := updAt c.stations 1 (helmed 450 100) }
  { s with
    cmu := { s.cmu with release := .armed 0 3 52 9000000 },
    mgu := { s.mgu with raised := [(.commandStale, .station 0)] } }

/-- R9 to R11, R90: the clear of COMMAND-STALE, GRANTED (4), the old holder's PRESENT-ON (1) or GIVEN (5), ARM-CANCELLED (27); and
SUPERSEDED (13) before them. -/
theorem witness_grant_frames :
    (Sends stale 6 1 ∧ OneHolds stale ∧ stale.csu.stations[1].state = .present ∧ stale.csu.request = none ∧
      handleMatch stale 1 = true ∧ stale.csu.phase ≠ .fresh ∧
      sentW (after (.take 6) stale) = [[1, 0, 1, 0, 0], [1, 2, 0, 1, 0, 4, 255], [0, 1, 0, 1, 0, 1, 255], [0, 1, 0, 1, 0, 27, 3]]) ∧
    (let s := { stale with csu := { stale.csu with
       phase := .fresh, request := some 1, stations := updAt stale.csu.stations 1 fun r => helmed 430 0 { r with state := .requesting } } }
     Sends s 5 0 ∧ s.csu.inCommand = some 0 ∧ s.csu.request = some 1 ∧ handleMatch s 1 = true ∧
      (sentW (after (.give 5) s)).drop 1 = [[1, 2, 0, 1, 0, 4, 255], [0, 1, 0, 1, 0, 5, 255], [0, 1, 0, 1, 0, 27, 3]]) ∧
    (let s := { stale with csu := { stale.csu with
       request := some 2, stations := updAt stale.csu.stations 2 ({ · with state := .requesting }) } }
     Sends s 6 1 ∧ s.csu.inCommand ≠ some 1 ∧ (stationOf s 1).force = true ∧ (stationOf s 1).kind = .manual ∧
      s.csu.request = some 2 ∧
      sentW (after (.takeForce 6) s) = [[2, 1, 0, 0, 0, 13, 255], [1, 0, 1, 0, 0], [1, 2, 0, 1, 0, 4, 255], [0, 1, 0, 1, 0, 1, 255],
        [0, 1, 0, 1, 0, 27, 3]]) := by
  and_intros <;> decide +kernel

/-- R12, R19: ARM-CANCELLED, ALL-STOP-ON (16), HELPER-UNJOINED and UNJOINED (20, reason 7). -/
theorem witness_AllStopRaised_frames :
    let armed := fun s : State => { s with cmu := { s.cmu with release := .armed 0 3 52 9000000 } }
    let h := fun s => (sentW (after (.allStop 6) (armed s))).map (·.drop 5)
    h held = [[27, 3], [16, 255]] ∧ h (helper .offering) = [[27, 3], [16, 255], [20, 7]] ∧
    h (helper .joined) = [[27, 3], [16, 255], [], [20, 7]] ∧
    (sentW (after (.allStop 6) (helper .holding))).map (·.take 3) = [[1, 1, 0], [2, 1, 0], [0, 2, 0]] ∧
    sentW (after (.busBreak .w) (armed held)) = [[0, 2, 0, 0, 0, 27, 3], [255, 255, 0, 0, 0, 16, 255]] := by
  and_intros <;> decide +kernel

/-- R3, R6, R9: an expiry of a stopped timer, of the holder's freshness in HOLD, and of a transfer with no request. -/
theorem witness_StationTimersExpire_stopped :
    held.csu.stations[2].freshness = none ∧ after (.freshnessTimerExpiry 2) held = held ∧
    held.csu.staleHold = none ∧ after .staleHoldTimerExpiry held = held ∧
    held.csu.transfer = none ∧ after .transferTimerExpiry held = held ∧
    (let s := heldWith fun c => { c with phase := .zero, transfer := some 2000000 }
     s.csu.stations[0].freshness = some 1260000 ∧ s.csu.inCommand = some 0 ∧ s.csu.phase ≠ .fresh ∧
      after (.freshnessTimerExpiry 0) s = { s with now := 1260000, csu := { s.csu with
        stations := updAt s.csu.stations 0 ({ · with freshness := none }) } } ∧
      s.csu.request = none ∧ after .transferTimerExpiry s = { s with now := 2000000, csu := { s.csu with transfer := none } }) := by
  and_intros <;> decide +kernel

/-- R133, R199: the RESET pin cuts a lock operation, and a program beside a waiting checkpoint, short. -/
theorem witness_InterruptedOperations_pin :
    let cut := fun op : StoreOp => after .resetPinAssert { running op with
      mgu := { (running op).mgu with sticky := Mgu.initial.sticky.set 4 true },
      nvs := { (running op).nvs with active := Nvs.initial.active.set 2 (some true), waitingOp := some (.blankCheck boatA) } }
    (cut (.lockErase boatA)).nvs.locked = Nvs.initial.locked.set 4 true ∧
    (cut (.lockProgram boatA)).nvs.locked = Nvs.initial.locked.set 4 true ∧
    (cut (.blankCheck boatA)).nvs.locked = Nvs.initial.locked ∧
    (cut (.blankCheck boatA)).nvs.active = Nvs.initial.active.set 2 (some true) ∧
    (cut (.blankCheck boatA)).nvs.waitingOp = none ∧ (cut (.blankCheck boatA)).power = .coreReset ∧
    (cut (.blankCheck boatA)).mgu = { Mgu.initial with sticky := Mgu.initial.sticky.set 4 true } ∧
    (cut (.blankCheck boatA)).fau = { pair.fau with windowTimer := none, checkpointTimer := none } ∧
    (after .supplyLoss (running (.lockErase boatA))).nvs.locked = Nvs.initial.locked := by
  and_intros <;> decide +kernel

/-- R193: the RESET pin aborts an open load context, whose bank is then not blank; a loss of supply leaves it as its bytes stand. -/
theorem witness_InterruptedOperations_load :
    let s := { calm with mgu := { calm.mgu with load := some ⟨boatA, 5, 7, 0, 0, 0⟩ } }
    s.mgu.load.map (·.bank) = some boatA ∧ s.nvs.current = none ∧ bankBlank s.nvs.banks[4] = true ∧
    (after .resetPinAssert s).nvs.banks[4] = { Bank.erased with torn := true } ∧
    bankBlank (after .resetPinAssert s).nvs.banks[4] = false ∧ bankBlank (after .resetPinAssert s).nvs.banks[5] = true ∧
    (after .supplyLoss s).nvs.banks = s.nvs.banks := by
  and_intros <;> decide +kernel

/-- R131: slot 3 holds the one valid record. -/
theorem witness_ScanTakesStore_newest :
    ∃ n, newestSlot (Nvs.initial.slots.set 3 closedSlot) = some n ∧ slotValid (Nvs.initial.slots.set 3 closedSlot)[n.slot] = true ∧
      n.seq = slotSeq (Nvs.initial.slots.set 3 closedSlot)[n.slot] := by
  refine ⟨⟨3, 9⟩, witness_ScanTakesStore_recovered.2.1, test_closed_slot_valid, by decide +kernel⟩

/-- The round, the mark, the serial and the frames of K are as given. -/
abbrev Polls (t : State) (r : Option Round) (marked : Bool) (serial : Nat) (l : List (BitVec 4 × BitVec 6 × Nat × Origin)) : Prop :=
  t.cmu.round = r ∧ t.cmu.startMarked = marked ∧ t.cmu.serial = serial ∧ outline t.pck.tx[1] = l

/-- R73, R75, R90: the next POLL of a round, the start marked while it ran, and an arm that a report or the third missed poll cancels. -/
theorem witness_ReportMovesCoupling_round :
    (let c := coupled 52 1 2 .loaded (some 100) 0
     let s := tow c
     let r := fun (rest : List Nat) (marked : Bool) (x : Coupling) => { s with cmu := { s.cmu with
       couplings := [coupled 51 0 1 .loaded (some 100) 0, x, c],
       round := some { poll := ⟨0, 51, 4⟩, rest := rest }, serial := 5, startMarked := marked, answer := some 1015000 } }
     let gone := coupled 52 1 2 .released none 0
     s.pck.state = .run ∧ s.pck.tx[classQueue s .k 4].length < 16 ∧ classQueue s .k 4 = 1 ∧ s.cmu.firstRound = false ∧
     Polls (after (.report 51 90 0) (r [1, 2] false gone)) (some ⟨⟨2, 52, 5⟩, []⟩) false 6 [(4, 1, 0, .cmuPoll 5)] ∧
     Polls (after .pollAnswerTimerExpiry (r [1, 2] true c)) (some ⟨⟨1, 52, 5⟩, [2]⟩) true 6 [(4, 1, 0, .cmuPoll 5)] ∧
     Polls (after (.report 51 90 0) (r [1] false gone)) (none) false 5 [] ∧
     Polls (after (.report 51 90 0) (r [1] true gone)) (some ⟨⟨0, 51, 5⟩, [2]⟩) false 6 [(4, 1, 0, .cmuPoll 5)] ∧
     (after (.report 51 90 0) (r [1] true gone)).cmu.headroom = 900) ∧
    (let armed := fun x : Coupling => { polled x with cmu := { (polled x).cmu with release := .armed 0 1 52 9000000 } }
     let high := after (.report 52 801 0) (armed (coupled 52 1 2 .loaded (some 100) 0))
     let silent := after .pollAnswerTimerExpiry (armed (coupled 52 1 2 .slack (some 10) 2))
     high.cmu.release = .idle ∧ sentW high = [[9, 1, 4, 52, 1], [0, 2, 0, 0, 0, 27, 1]] ∧
      silent.cmu.release = .idle ∧ sentW silent = [[11, 1, 4, 52, 1], [0, 2, 0, 0, 0, 27, 1]] ∧
      (after (.report 52 10 0) (armed (coupled 52 1 2 .loaded (some 100) 0))).cmu.release = .armed 0 1 52 9000000) := by
  and_intros <;> decide +kernel

/-- R62: the deviation at 50 and 51 as a cycle and a frame from H write the rudder slot. -/
theorem witness_RudderWrites_deviation :
    (let s := fun (fb : Int) (dev : Timer) =>
       let u := steered (some 0) dev
       { u with
         csu := { u.csu with tStar := 200 },
         tau := { u.tau with tEff := 200 },
         piu := { u.piu with
           rudders := updAt u.piu.rudders 0 ({ · with feedback := some { angle := fb, time := 1000000 } }) },
         mgu := { u.mgu with raised := [(.rudderFault, .rudder 0)] } }
     (cycled (s 0 none)).piu.rudders[0].angle = some 15 ∧ (cycled (s (-36) none)).piu.rudders[0].deviation = some 3010000 ∧
      (cycled (s (-36) (some 7))).piu.rudders[0].deviation = some 7 ∧
      isRaised .rudderFault (.rudder 0) (cycled (s (-36) none)) = true ∧
      (cycled (s (-35) (some 7))).piu.rudders[0].deviation = none ∧
      isRaised .rudderFault (.rudder 0) (cycled (s (-35) none)) = false) ∧
    (let s := fun fb : Int =>
       let u := driven .joined .available .ahead none
       { u with piu := { u.piu with rudders := updAt u.piu.rudders 0 fun r =>
           { r with avail := .available, feedback := some { angle := fb, time := 1000000 } } } }
     (after (setpoint 45 2 [0, 100, 0, 2]) (s 49)).piu.rudders[0].deviation = some 4000000 ∧
      (after (setpoint 45 2 [0, 100, 0, 2]) (s 50)).piu.rudders[0].deviation = none) := by
  and_intros <;> decide +kernel

/-- `pair` with E1 in gear at 1800 rpm on tank 2, which holds `b`, and tank 7 EMPTY. -/
def geared (b : Int) (table : FuelMap) (meters : List Meter) : State :=
  let r : EngineRec := { EngineRec.initial with
    avail := .available, gear := .ahead, rpm := 1800, filled := true, run := 3,
    feedback := some (feedback 990000 .ahead false), timer := some 1590000 }
  { pair with
    piu := { pair.piu with engines := pair.piu.engines.set 0 r },
    fau := { pair.fau with
      table := some table, meters := meters,
      accounts := updAt pair.fau.accounts 0 ({ · with lastFeedback := some 800000, residue := 35999 }),
      tanks := (pair.fau.tanks.set 2 { balance := b, state := .normal, overfull := false }).set 7 ⟨0, .empty, false⟩ } }

/-- R36, R109, with idle 300, max ahead 1800 and c_r 700: a cap lowers E1 to 1350 at once, at a report, an estimate, SET-LINEUP and
BUNKER, and a tank that is NORMAL lifts it. -/
theorem witness_caps_follow :
    let e := fun t : State => (t.piu.engines[0].rpm, t.piu.engines[0].cap, t.piu.engines[0].fresh)
    let lifted := fun s : State => { s with piu := { s.piu with engines := updAt s.piu.engines 0 ({ · with cap := some 700 }) } }
    (let s := geared 5000700 (fuel []) pair.fau.meters
     isMetered s.fau.meters 0 = true ∧ e (after (.meter 31 1704 400 0) s) = (1350, some 700, true)) ∧
    (let s := geared 5000011 (fuel []) []
     isMetered s.fau.meters 0 = false ∧ s.fau.table ≠ none ∧ e (after (.engineFb 21 700 1 1850 0) s) = (1350, some 700, true) ∧
      e (after (.engineFb 21 700 1 1849 0) (geared 5000012 (fuel []) [])) = (1800, none, false)) ∧
    (let s := geared 30000000 (fuel []) pair.fau.meters
     e (after (.setLineup 5 1 7) s) = (1350, some 700, true) ∧ e (after (.setLineup 5 1 2) (lifted s)) = (1800, none, false) ∧
      e (after (.setLineup 5 1 7) (lifted s)) = (1800, some 700, false)) ∧
    (let s := lifted (geared 5000000 (fuel []) [])
     e (after (.bunker 5 2 1000001) s) = (1800, none, false)) := by
  and_intros <;> decide +kernel

/-- R198: the OK answers of the account requests, and R113's at the end of the closing checkpoint. -/
theorem witness_AccountRequests_answers :
    (let s := geared 30000000 (fuel []) pair.fau.meters
     (sentW (after (.setLineup 5 1 2) s)) = [[0, 128]] ∧ (sentW (after (.bunker 5 2 1) s)) = [[0, 128]]) ∧
    (let s := { pair with
       fau := { pair.fau with voyage := { pair.fau.voyage with isOpen := false } },
       mgu := { pair.mgu with assembly := some { number := 9, soundings := [1, 2, 3, 4, 5, 6, 7] } } }
     (sentW (after (.voyageOpen 5 8 8) s)).getLast? = some [0, 128]) ∧
    (let s := fun (op : StoreOp) (failures : Nat) =>
       { calm with
         mgu := { calm.mgu with slot := some ⟨5, .voyageClose⟩ },
         nvs := { Nvs.initial with
           current := some ⟨op, 1000500⟩, newest := some ⟨2, 1041⟩,
           checkpoint := some ⟨snapshotOf calm.fau true, true, 3, 1042, failures⟩ } }
     (s .slotProgram 0).mgu.slot = some { node := 5, op := .voyageClose } ∧
      (sentW (after (.slotProgramEnd true) (s .slotProgram 0))) = [[0, 128]] ∧
      (sentW (after (.slotProgramEnd false) (s .slotProgram 6))).map (·.length) = [5, 2]) := by
  and_intros <;> decide +kernel

/-- R200: a raise and a clear of RELEASE-FAILED, code 15, with two subjects of its code; a full queue and an ISOLATED port. -/
theorem witness_alarm_frames :
    let j : Subject := .coupler 52
    let s := { held with mgu := { held.mgu with raised := [(.releaseFailed, .coupler 53)] } }
    let u := raiseAlarm .releaseFailed j s
    let full := { s with pcw := { s.pcw with tx := updAt s.pcw.tx 1 fun _ => List.replicate 16 ⟨frameOfClass 12, .mgu⟩ } }
    let off := { s with pcw := { s.pcw with state := .isolated } }
    isRaised .releaseFailed j s = false ∧ sentW u = [[15, 1, 4, 52, 2]] ∧ u.mgu.sticky = s.mgu.sticky.set 13 true ∧
    isRaised .releaseFailed j u = true ∧ sentW (clearAlarm .releaseFailed j u) = [[15, 1, 4, 52, 2], [15, 0, 4, 52, 1]] ∧
    (raiseAlarm .releaseFailed j full).pcw.txDrop[1] = 1 ∧ (raiseAlarm .releaseFailed j full).mgu.statusDrop = 1 ∧
    (raiseAlarm .releaseFailed j off).pcw.flushDrop = 1 ∧ (raiseAlarm .releaseFailed j off).mgu.statusDrop = 1 ∧
    sentW (raiseAlarm .breakaway (.unit 9) held) = [[13, 1, 5, 9, 1]] ∧
    sentW (raiseAlarm .queueOverrun (.portQueue .k 3) held) = [[24, 1, 9, 11, 1]] ∧
    sentW (raiseAlarm .linkDown .linkH held) = [[26, 1, 8, 3, 1]] ∧
    sentW (raiseAlarm .linkRoleMismatch .linkH held) = [[28, 1, 8, 3, 1]] := by
  and_intros <;> decide +kernel

/-- R12, R144: a BREAK on W ends an offer and a join of a helper. -/
theorem witness_AllStopRaised_break :
    let s := fun j => { helper j with cmu := { held.cmu with release := .armed 0 3 52 9000000 } }
    let stopped : Csu := { held.csu with allStop := some .busBreak, dStar := 0, tStar := 0, dAp := 0, join := .localMode }
    let told := fun j => reportStatus none .allStopOn 255 (armEnded { s j with
      pcw := { (s j).pcw with breaks := 1 }, csu := { (s j).csu with allStop := some .busBreak, dStar := 0, tStar := 0, dAp := 0 } })
    let link := fun j => (handLink (unjoinFrame .allStop) .csu (s j)).1.hlc
    after (.busBreak .w) (s .offering) =
      reportStatus (some 0) .unjoined 7 { told .offering with csu := stopped, hlc := link .offering } ∧
    after (.busBreak .w) (s .joined) = reportStatus (some 0) .unjoined 7 (raiseAlarm .helperUnjoined .none
      { told .joined with csu := stopped, hlc := link .joined }) ∧
    after (.busBreak .w) (s .holding) = reportStatus (some 0) .unjoined 7 (raiseAlarm .helperUnjoined .none
      { told .holding with csu := stopped, hlc := link .holding }) :=
  ⟨rfl, rfl, rfl⟩

end Sys2Proof.Tests
end

/-! # Every command answers a next state and keeps the invariant (R11, R138, R177, R200, R201) -/

namespace Sys2Proof.Machine

/-- An outcome is a next state, reached from `s` by effects that keep what `Keeps` says. -/
def Answers (s : State) (o : Host.Outcome State Fault Refusal) : Prop := ∃ t, o = .next t ∧ Keeps s t

section Answering
variable {s : State}

theorem Answers.of_keeps {t : State} (h : Keeps s t) : Answers s (.next t) := ⟨t, rfl, h⟩

/-- An effect of a running part. -/
theorem Answers.running {k : State → State} (h : Keeps s (k s)) : Answers s (.next (whenRunning s k)) :=
  .of_keeps ((Keeps.refl s).whenRunning h)

/-- An expiry on a running part. -/
theorem Answers.expiry {timer : State → Timer} {k : State → State → State} (h : ∀ u, Keeps s u → Keeps s (k s u)) :
    Answers s (.next (whenRunning s fun s => onExpiry (timer s) s (k s))) :=
  .running ((Keeps.refl s).onExpiry _ fun d => h _ ((Keeps.refl s).upTo d))

/-- A request that a running part serves. -/
theorem Answers.serving {k : State → State} (h : ∀ u, Keeps s u → Keeps s (k u)) : Answers s (.next (whenServing s k)) :=
  .of_keeps ((Keeps.refl s).whenServing k h)

/-- A class 1 frame. -/
theorem Answers.station {node : Node} {k : Fin 4 → State → State} (h : ∀ i u, Keeps s u → Keeps s (k i u)) :
    Answers s (.next (whenRunning s (stationFrame node k))) :=
  .running ((Keeps.refl s).stationFrame node k h)

end Answering

section Meanings
variable (s : State)

/-! ## The resets -/

theorem startUpScanEnd_answers : Answers s (execStartUpScanEnd s) := by
  refine .of_keeps ?_
  split
  · rename_i hp
    have h := (Keeps.refl s).endScan hp
    exact Keeps.ite h.startCoreReset h
  all_goals exact .refl s

theorem supplyLoss_answers : Answers s (execSupplyLoss s) := by
  refine .of_keeps ?_
  split
  · exact .refl s
  all_goals exact (Keeps.refl s).loseSupply

theorem coreResetEnd_answers : Answers s (execCoreResetEnd s) := by
  refine .of_keeps ?_
  split
  · exact Keeps.ite (.refl s) (Keeps.refl s).endCoreReset
  all_goals exact .refl s

/-! ## Command stations -/

theorem unknownNodeFrame_answers (f : Frame) : Answers s (execUnknownNodeFrame f s) :=
  .running (Keeps.ite ((Keeps.refl s).classZero f) ((Keeps.refl s).classOne f))

theorem freshnessTimerExpiry_answers (i : Fin 4) : Answers s (execFreshnessTimerExpiry i s) := by
  refine .expiry fun u hu => ?_
  have h1 : Keeps s (onStation i ({ · with freshness := none }) u) := hu.onStation i _ fun _ => rfl
  refine Keeps.ite (Keeps.raiseAlarm ?_ _ _) h1
  exact h1.onCsu _ fun _ hc => hc

theorem staleHoldTimerExpiry_answers : Answers s (execStaleHoldTimerExpiry s) :=
  .expiry fun _ hu => hu.onCsu _ fun _ hc => hc

theorem transferTimerExpiry_answers : Answers s (execTransferTimerExpiry s) := by
  refine .expiry fun u hu => ?_
  split
  · exact hu.onCsu _ fun _ hc => hc
  · rename_i r hr
    exact (hu.endRequest r .present (fun _ => hr) (.inr rfl)).report _ _

theorem joinAnswerTimerExpiry_answers : Answers s (execJoinAnswerTimerExpiry s) :=
  .expiry fun _ hu => (hu.endOffer.sendJoin _).reportStatus _ _ _

theorem setpointLossTimerExpiry_answers : Answers s (execSetpointLossTimerExpiry s) :=
  .expiry fun _ hu => hu.onCsu _ fun _ hc => hc

theorem holdTimerExpiry_answers : Answers s (execHoldTimerExpiry s) :=
  .expiry fun _ hu => (hu.sendJoin _).leaveJoined _

/-! ## Allocation and propulsion -/

theorem allocationCycle_answers : Answers s (execAllocationCycle s) :=
  .expiry fun _ hu => (Keeps.ite (hu.onTau _).allocSwap (hu.onTau _)).runCycle

theorem deviationTimerExpiry_answers (i : Fin 3) : Answers s (execDeviationTimerExpiry i s) :=
  .expiry fun _ hu => (hu.onRudder i _).raiseAlarm _ _

theorem refreshTimerExpiry_answers : Answers s (execRefreshTimerExpiry s) :=
  .expiry fun _ hu => ((hu.onPiu _).foldl (fun _ i h => h.sendEngine i) _).foldl (fun _ i h => h.sendRudder i) _

/-! ## Couplings and the release -/

theorem pollRoundTimerExpiry_answers : Answers s (execPollRoundTimerExpiry s) := by
  refine .expiry fun u hu => ?_
  extract_lets s1
  have h1 : Keeps s s1 := hu.onCmu _
  split
  · exact h1.beginRound.settleRound
  · exact h1.onCmu _

theorem armTimerExpiry_answers : Answers s (execArmTimerExpiry s) := by
  refine .running ?_
  split
  · exact (Keeps.refl s).onExpiry _ fun d => ((Keeps.refl s).upTo d).endArm _
  all_goals exact .refl s

theorem releaseAnswerTimerExpiry_answers : Answers s (execReleaseAnswerTimerExpiry s) := by
  refine .running ?_
  split
  · exact (Keeps.refl s).onExpiry _ fun d => ((Keeps.refl s).upTo d).releaseFails
  all_goals exact .refl s

/-! ## Fuel accounting -/

theorem meterSilenceTimerExpiry_answers (i : Fin 12) : Answers s (execMeterSilenceTimerExpiry i s) := by
  refine .running ?_
  split
  · exact .refl s
  · exact (Keeps.refl s).onExpiry _ fun d => ((Keeps.refl s).upTo d).meterSilent _ _

theorem jumpListAgeOut_answers (i : Fin 12) : Answers s (execJumpListAgeOut i s) := by
  refine .running ?_
  split
  · exact .refl s
  · split
    · exact .refl s
    · exact ((Keeps.refl s).upTo _).onMeter _ _

theorem fuelWindowTimerExpiry_answers : Answers s (execFuelWindowTimerExpiry s) := by
  refine .expiry fun u hu => Keeps.foldl ?_ (fun _ e h => h.endWindow e) _
  exact hu.onFau _ fun _ hb => hb

theorem checkpointTimerExpiry_answers : Answers s (execCheckpointTimerExpiry s) := by
  refine .expiry fun u hu => Keeps.requestCheckpoint ?_ _ _
  exact hu.onFau _ fun _ hb => hb

/-! ## The ends of the store's operations -/

theorem slotEraseEnd_answers (ok : Bool) : Answers s (execSlotEraseEnd ok s) := by
  refine .running ?_
  split
  · rename_i d c _ _
    have h := (Keeps.refl s).upTo d
    exact Keeps.ite ((h.onSlot _ _ fun _ _ => rfl).runOp _) ((h.tearSlotErase c).slotFails c)
  · exact .refl s

theorem slotProgramEnd_answers (ok : Bool) : Answers s (execSlotProgramEnd ok s) := by
  refine .running ?_
  split
  · rename_i d c _ _
    have h := (Keeps.refl s).upTo d
    exact Keeps.ite (h.slotWrittenEnd c) ((h.tearSlotProgram c).slotFails c)
  · exact .refl s

theorem bankEraseEnd_answers (ok : Bool) : Answers s (execBankEraseEnd ok s) := by
  refine .running ?_
  split
  · exact ((Keeps.refl s).upTo _).eraseEnds _ _
  · exact .refl s

theorem blankCheckEnd_answers : Answers s (execBlankCheckEnd s) := by
  refine .running ?_
  split
  · exact ((Keeps.refl s).upTo _).blankEnds _
  · exact .refl s

theorem loadProgramEnd_answers (ok : Bool) : Answers s (execLoadProgramEnd ok s) := by
  refine .running ?_
  split
  · exact ((Keeps.refl s).upTo _).loadEnds _ _ _ _
  · exact .refl s

theorem headerFieldsProgramEnd_answers (ok : Bool) : Answers s (execHeaderFieldsProgramEnd ok s) := by
  refine .running ?_
  split
  · exact ((Keeps.refl s).upTo _).headerEnds _ _ _ _
  · exact .refl s

theorem markWordProgramEnd_answers (ok : Bool) : Answers s (execMarkWordProgramEnd ok s) := by
  refine .running ?_
  split
  · exact ((Keeps.refl s).upTo _).markEnds _ _ _
  · exact .refl s

theorem commitCheckEnd_answers : Answers s (execCommitCheckEnd s) := by
  refine .running ?_
  split
  · exact ((Keeps.refl s).upTo _).checkEnds _
  · exact .refl s

theorem lockProgramEnd_answers (ok : Bool) : Answers s (execLockProgramEnd ok s) := by
  refine .running ?_
  split
  · exact ((((Keeps.refl s).upTo _).setLock _ _ _).endOp).finishLong _ _
  · exact .refl s

theorem lockEraseEnd_answers (ok : Bool) : Answers s (execLockEraseEnd ok s) := by
  refine .running ?_
  split
  · exact ((((Keeps.refl s).upTo _).setLock _ _ _).endOp).finishLong _ _
  · exact .refl s

/-! ## Segment ports -/

theorem receiveFrame_answers (port : Segment) (header : BitVec 16) (length : BitVec 4) (payload : List Byte)
    (crc : BitVec 16) (delimiter : Bool) : Answers s (execReceiveFrame port header length payload crc delimiter s) :=
  .running (Keeps.ite ((Keeps.refl s).followFrame ..) (.refl s))

theorem frameOffer_answers (port : Segment) : Answers s (execFrameOffer port s) := by
  refine .running (Keeps.ite ?_ (.refl s))
  split
  · exact .refl s
  · exact (Keeps.refl s).onPort _ _ fun _ hc => hc

theorem arbitrationLoss_answers (port : Segment) : Answers s (execArbitrationLoss port s) := by
  refine .running ?_
  split
  · exact .refl s
  · exact (Keeps.refl s).onPort _ _ fun _ hc => hc

theorem acknowledgeSlot_answers (port : Segment) (dominant : Bool) : Answers s (execAcknowledgeSlot port dominant s) :=
  .running (Keeps.ite ((Keeps.refl s).endSending _ _ _ (fun _ hc => hc) fun e _ h => h.frameAcked port e)
    ((Keeps.refl s).failSending _ _ fun _ hc => hc))

theorem bitError_answers (port : Segment) : Answers s (execBitError port s) :=
  .running ((Keeps.refl s).failSending _ _ fun _ hc => hc)

theorem dominantRunNinthBit_answers (port : Segment) : Answers s (execDominantRunNinthBit port s) := by
  refine .running (Keeps.ite (Keeps.failSending ?_ _ _ fun _ hc => hc) (.refl s))
  exact (Keeps.refl s).onPort _ _ fun _ hc => hc

theorem dominantRunEnd_answers (port : Segment) : Answers s (execDominantRunEnd port s) :=
  .running (Keeps.ite ((Keeps.refl s).onPort _ _ fun _ hc => hc) (.refl s))

theorem busBreak_answers (port : Segment) : Answers s (execBusBreak port s) := by
  refine .running (Keeps.ite ?_ (.refl s))
  cases port with
  | w =>
    refine Keeps.raiseAllStop ?_ _
    exact (Keeps.refl s).onPort _ _ fun _ hc => hc
  | p | k => exact (Keeps.refl s).onPort _ _ fun _ hc => hc

theorem stuckBus_answers (port : Segment) : Answers s (execStuckBus port s) :=
  .running (Keeps.ite ((Keeps.refl s).isolatePort port) (.refl s))

theorem isolationTimerExpiry_answers (port : Segment) : Answers s (execIsolationTimerExpiry port s) :=
  .expiry fun _ hu => hu.onPort _ _ fun _ hc => hc

theorem portRestart_answers (port : Segment) : Answers s (execPortRestart port s) := by
  refine .running ?_
  split
  · refine Keeps.clearAlarm ?_ _ _
    exact (Keeps.refl s).onPort _ _ fun _ hc => hc
  all_goals exact .refl s

theorem replyWindowAnswered_answers : Answers s (execReplyWindowAnswered s) :=
  .running (Keeps.ite ((Keeps.refl s).onPort _ _ fun _ hc => hc) (.refl s))

theorem busIdle_answers (port : Segment) : Answers s (execBusIdle port s) :=
  .running (Keeps.ite ((Keeps.refl s).onPort _ _ fun _ hc => hc) (.refl s))

/-! ## Switch and link -/

theorem switchingEnd_answers : Answers s (execSwitchingEnd s) := by
  refine .running ?_
  split
  · exact .refl s
  · rename_i x _
    have h := (((Keeps.refl s).upTo x.deadline).onFsw ({ · with inSwitch := none })).applyOutcome x
    exact h.whenRunning (Keeps.ite h.windowSwap h).arbiterTake

theorem tsSendTimer_answers : Answers s (execTsSendTimer s) := by
  refine .expiry fun u hu => Keeps.onLanes (Keeps.upIfAgreed ?_) _
  exact hu.onHlc _ fun _ hc => hc

theorem goodSetFix_answers : Answers s (execGoodSetFix s) := by
  refine .expiry fun u hu => Keeps.formChosen ?_
  exact hu.onHlc _ fun _ hc => hc

theorem laneLossTimerExpiry_answers (lane : Lane) (other : Bool) : Answers s (execLaneLossTimerExpiry lane other s) := by
  refine .expiry fun u hu => ?_
  extract_lets s1 both
  have h1 : Keeps s s1 := hu.onLane lane _
  split
  · exact Keeps.ite (Keeps.ite (h1.markBad lane) h1.enterDown) h1
  · exact Keeps.ite h1.enterDown h1
  · exact Keeps.ite h1 h1.enterDown
  all_goals exact h1

theorem laneErrorAgeOut_answers (lane : Lane) : Answers s (execLaneErrorAgeOut lane s) := by
  refine .running ?_
  split
  · exact .refl s
  · exact ((Keeps.refl s).upTo _).onLane lane _

theorem creditRefreshTimerExpiry_answers : Answers s (execCreditRefreshTimerExpiry s) := by
  refine .expiry fun u hu => Keeps.foldl ?_ (fun u q hu => ?_) _
  · exact hu.onHlc _ fun _ hc => hc
  extract_lets x
  split
  · exact hu
  · exact Keeps.ite hu (hu.placeControl q _)
  · exact (Keeps.ite hu (hu.placeControl q _)).placeReturn q

theorem data_answers (lane : Lane) (q : Fin 4) (seq : Byte) (f : Frame) : Answers s (execData lane q seq f s) := by
  have h := (Keeps.refl s).otherFrame lane
  exact .running (Keeps.ite ((Keeps.refl s).badLinkFrame lane) (h.whenUp (h.takeData q _ f)).arbiterTake)

/-! ## Management -/

theorem summaryTimerExpiry_answers : Answers s (execSummaryTimerExpiry s) := by
  refine .expiry fun u hu => Keeps.handStatus ?_ _
  exact hu.onMgu _ fun _ hm => hm

theorem loadData_answers (node : Node) (seq : BitVec 16) (bytes : List Byte) :
    Answers s (execLoadData node seq bytes s) :=
  .serving fun _ hu => Keeps.ite (hu.serveLoadData node _ bytes) (hu.serveMalformed _)

end Meanings

/-- The commands that sample the strap or move the RESET pin (R130, R199). -/
def movesPinOrRole (c : Instr) : Bool :=
  match c with
  | .supplyOn _ | .resetPinAssert | .resetPinRelease => true
  | _ => false

/-- Every other command answers a next state, and keeps what `Keeps` says, on every state. -/
theorem exec_answers (c : Instr) (s : State) (hc : movesPinOrRole c = false) : Answers s (exec c s) := by
  have h0 := Keeps.refl s
  cases c with
  | supplyOn | resetPinAssert | resetPinRelease => cases hc
  | startUpScanEnd => exact startUpScanEnd_answers s
  | supplyLoss => exact supplyLoss_answers s
  | coreResetEnd => exact coreResetEnd_answers s
  | allStop node => exact .running (h0.allStopFrame node)
  | helm node d t q => exact .running (h0.helmFrame node _ _ _)
  | take => exact .station fun i _ h => h.stationTake i
  | give => exact .station fun i _ h => h.stationGive i
  | takeForce => exact .station fun i _ h => h.stationForce i
  | takeBack => exact .station fun i _ h => h.stationTakeBack i
  | joinGive => exact .station fun i _ h => h.stationJoinGive i
  | allStopClear => exact .station fun i _ h => h.stationClear i
  | unknownNodeFrame f => exact unknownNodeFrame_answers s f
  | joinOffer => exact .running h0.takeOffer
  | joinAccept => exact .running h0.takeAccept
  | unjoin r => exact .running (h0.takeUnjoin r)
  | presenceTimerExpiry i => exact .expiry fun _ h => h.presenceLost i
  | freshnessTimerExpiry i => exact freshnessTimerExpiry_answers s i
  | staleHoldTimerExpiry => exact staleHoldTimerExpiry_answers s
  | transferTimerExpiry => exact transferTimerExpiry_answers s
  | joinAnswerTimerExpiry => exact joinAnswerTimerExpiry_answers s
  | setpointLossTimerExpiry => exact setpointLossTimerExpiry_answers s
  | holdTimerExpiry => exact holdTimerExpiry_answers s
  | allocationCycle => exact allocationCycle_answers s
  | engineFb node rpm gear rate flags => exact .running (h0.engineFbFrame node _ gear _ flags)
  | rudderFb node angle => exact .running (h0.rudderFbFrame node _)
  | malformedFeedback f => exact .running (h0.classThree f)
  | hSetpointFrame f => exact .running (h0.classTwo f)
  | engineFeedbackTimerExpiry i => exact .expiry fun _ h => h.engineSilent i
  | rudderFeedbackTimerExpiry i => exact .expiry fun _ h => h.rudderSilent i
  | deviationTimerExpiry i => exact deviationTimerExpiry_answers s i
  | refreshTimerExpiry => exact refreshTimerExpiry_answers s
  | pollRoundTimerExpiry => exact pollRoundTimerExpiry_answers s
  | report node tension flags => exact .running (h0.reportFrame node _ flags)
  | malformedReport f => exact .running (h0.classFour f)
  | pollAnswerTimerExpiry => exact .expiry fun _ h => h.pollMissed
  | recomputeCompletion => exact .running h0.completeRecompute
  | releaseArm | releaseGo | releaseFrameUnknownKind => exact .running (h0.classSix _)
  | releaseDone node result => exact .running (h0.releaseDoneFrame node result)
  | armTimerExpiry => exact armTimerExpiry_answers s
  | releaseAnswerTimerExpiry => exact releaseAnswerTimerExpiry_answers s
  | meter node total temperature flags => exact .running (h0.meterFrame node _ _ flags)
  | malformedMeter f => exact .running (h0.classFive f)
  | meterSilenceTimerExpiry i => exact meterSilenceTimerExpiry_answers s i
  | jumpListAgeOut i => exact jumpListAgeOut_answers s i
  | fuelWindowTimerExpiry => exact fuelWindowTimerExpiry_answers s
  | checkpointTimerExpiry => exact checkpointTimerExpiry_answers s
  | bankEraseEnd ok => exact bankEraseEnd_answers s ok
  | blankCheckEnd => exact blankCheckEnd_answers s
  | loadProgramEnd ok => exact loadProgramEnd_answers s ok
  | headerFieldsProgramEnd ok => exact headerFieldsProgramEnd_answers s ok
  | markWordProgramEnd ok => exact markWordProgramEnd_answers s ok
  | commitCheckEnd => exact commitCheckEnd_answers s
  | lockProgramEnd ok => exact lockProgramEnd_answers s ok
  | lockEraseEnd ok => exact lockEraseEnd_answers s ok
  | slotEraseEnd ok => exact slotEraseEnd_answers s ok
  | slotProgramEnd ok => exact slotProgramEnd_answers s ok
  | receiveFrame => exact receiveFrame_answers s ..
  | frameOffer seg => exact frameOffer_answers s seg
  | arbitrationLoss seg => exact arbitrationLoss_answers s seg
  | acknowledgeSlot seg dominant => exact acknowledgeSlot_answers s seg dominant
  | bitError seg => exact bitError_answers s seg
  | dominantRunNinthBit seg => exact dominantRunNinthBit_answers s seg
  | dominantRunEnd seg => exact dominantRunEnd_answers s seg
  | busBreak seg => exact busBreak_answers s seg
  | stuckBus seg => exact stuckBus_answers s seg
  | isolationTimerExpiry seg => exact isolationTimerExpiry_answers s seg
  | portRestart seg => exact portRestart_answers s seg
  | replyWindowAnswered => exact replyWindowAnswered_answers s
  | replyWindowExpiry => exact .expiry fun _ h => h.closeWindow .k
  | switchingEnd => exact switchingEnd_answers s
  | retryTimerExpiry => exact .expiry fun _ h => h.enterTraining
  | tsReceived lane ts => exact .running (h0.takeTs lane ts)
  | tsSendTimer => exact tsSendTimer_answers s
  | goodSetFix => exact goodSetFix_answers s
  | trainingTimerExpiry => exact .expiry fun _ h => h.enterDown
  | laneLossTimerExpiry lane other => exact laneLossTimerExpiry_answers s lane other
  | linkFrameCrcError lane => exact .running (h0.badLinkFrame lane)
  | laneErrorAgeOut lane => exact laneErrorAgeOut_answers s lane
  | data lane q seq f => exact data_answers s lane q seq f
  | creditAnnounce lane q => exact .running ((h0.otherFrame lane).whenUp ((h0.otherFrame lane).takeAnnounce q _ _))
  | creditConfirm lane q => exact .running ((h0.otherFrame lane).whenUp ((h0.otherFrame lane).takeConfirm q _))
  | creditReturn lane q => exact .running ((h0.otherFrame lane).whenUp ((h0.otherFrame lane).takeReturn q _ _))
  | creditRefreshTimerExpiry => exact creditRefreshTimerExpiry_answers s
  | linkControlSend lane => exact .running (h0.whenUp (h0.sendControl lane))
  | dataSend lane => exact .running (h0.whenUp (h0.sendData lane))
  | dataSendEnd lane => exact .running (h0.whenUp (h0.endData lane))
  | summaryTimerExpiry => exact summaryTimerExpiry_answers s
  | loadIdleTimerExpiry => exact .expiry fun _ h => h.abortLoad
  | malformedRequest f => exact .serving fun _ h => h.classEight f
  | identify node => exact .serving fun _ h => h.serveIdentify node
  | readRecord node type index => exact .serving fun _ h => h.serveRecord node type index
  | readStatus node area => exact .serving fun _ h => h.serveStatus node area
  | counterRead node block => exact .serving fun _ h => h.serveCounters node block
  | counterClear node block => exact .serving fun _ h => h.serveClear node block
  | clearSticky node => exact .serving fun _ h => h.serveSticky node
  | bankErase node kind bank => exact .serving fun _ h => h.serveErase node kind bank
  | bankBlankCheck node kind bank => exact .serving fun _ h => h.serveBlank node kind bank
  | loadBegin node kind bank count => exact .serving fun _ h => h.serveLoadBegin node kind bank _
  | loadData node seq bytes => exact loadData_answers s node seq bytes
  | loadEnd node crc => exact .serving fun _ h => h.serveLoadEnd node crc
  | bankCommit node kind => exact .serving fun _ h => h.serveCommit node kind
  | bankLock node kind bank => exact .serving fun _ h => h.serveLock node kind bank
  | bankUnlock node kind bank => exact .serving fun _ h => h.serveUnlock node kind bank
  | voyageOpen node part value => exact .serving fun _ h => h.serveOpen node _ _
  | voyageClose node => exact .serving fun _ h => h.serveClose node
  | bunker node tank volume => exact .serving fun _ h => h.serveBunker node tank _
  | setLineup node engine tank => exact .serving fun _ h => h.serveLineup node engine tank
  | makeupConfirm node => exact .serving fun _ h => h.serveConfirm node
  | resetCore node => exact .serving fun _ h => h.serveReset node
  | busIdle seg => exact busIdle_answers s seg

/-! ## The invariant along a step -/

/-- The invariant speaks of the units alone: the power state, the strap, the pin, the clock and the queue of commands are free. -/
theorem Sound.of_units {s t : State} (h : Sound s) (csu : t.csu = s.csu) (pcw : t.pcw = s.pcw) (pcp : t.pcp = s.pcp)
    (pck : t.pck = s.pck) (hlc : t.hlc = s.hlc) (nvs : t.nvs = s.nvs) (mgu : t.mgu = s.mgu) : Sound t :=
  ⟨csu ▸ h.csu, pcw ▸ h.pcw, pcp ▸ h.pcp, pck ▸ h.pck, hlc ▸ h.hlc, nvs ▸ h.nvs, mgu ▸ h.mgu⟩

theorem supplyOn_sound {strap : Role} {s : State} (h : Sound s) : ∃ t, exec (.supplyOn strap) s = .next t ∧ Sound t := by
  refine ⟨_, rfl, ?_⟩
  split
  · exact h.of_units rfl rfl rfl rfl rfl rfl rfl
  all_goals exact h

theorem resetPinAssert_sound {s : State} (h : Sound s) : ∃ t, exec .resetPinAssert s = .next t ∧ Sound t := by
  refine ⟨_, rfl, ?_⟩
  split
  · exact ((Keeps.refl s).startCoreReset.reaches.sound h).of_units rfl rfl rfl rfl rfl rfl rfl
  all_goals exact h.of_units rfl rfl rfl rfl rfl rfl rfl

theorem resetPinRelease_sound {s : State} (h : Sound s) : ∃ t, exec .resetPinRelease s = .next t ∧ Sound t :=
  ⟨_, rfl, h.of_units rfl rfl rfl rfl rfl rfl rfl⟩

/-- Every command answers a next state and keeps the invariant. -/
theorem exec_sound (c : Instr) {s : State} (h : Sound s) : ∃ t, exec c s = .next t ∧ Sound t := by
  by_cases hc : movesPinOrRole c = false
  · obtain ⟨t, e, k⟩ := exec_answers c s hc
    exact ⟨t, e, k.reaches.sound h⟩
  · cases c with
    | supplyOn => exact supplyOn_sound h
    | resetPinAssert => exact resetPinAssert_sound h
    | resetPinRelease => exact resetPinRelease_sound h
    | _ => exact absurd rfl hc

theorem step_sound {s : State} (h : Sound s) : ∃ t, step s = .next t ∧ Sound t := by
  unfold step
  split
  · exact ⟨_, rfl, h.of_units rfl rfl rfl rfl rfl rfl rfl⟩
  · exact exec_sound _ (h.of_units rfl rfl rfl rfl rfl rfl rfl)

/-- Settles O4: a step is a tick of the clock or the front command, and every command keeps the invariant. -/
theorem soundKeptByStep : Obligations.SoundKeptByStep := by
  unfold Obligations.SoundKeptByStep
  intro s t h e
  obtain ⟨u, hu, hs⟩ := step_sound h
  rw [hu] at e
  cases e
  exact hs

/-- The part right after reset has no station in command, empty queues but for one ALARM frame, a blank store and one
raised alarm. -/
theorem reset_sound : Sound State.reset where
  csu := initial_oneHolder
  pcw := by unfold PortCtl.WithinDepth; decide
  pcp := initial_withinDepth
  pck := initial_withinDepth
  hlc := link_initial
  nvs := by unfold Nvs.Canonical; decide
  mgu := by unfold Mgu.AlarmsKept; decide

/-- Settles O3. -/
theorem soundAtReset : Obligations.SoundAtReset := reset_sound

end Sys2Proof.Machine

/-! # What a status frame, an alarm and a join frame read and write -/

namespace Sys2Proof.Machine

/-! ## One element of a fixed row -/

section Rows
variable {α : Type} {n : Nat} (v : Vector α n)

theorem updAt_getFin (i j : Fin n) (f : α → α) : (updAt v i f)[j] = if i = j then f v[j] else v[j] := by
  by_cases h : i = j
  · subst h; simp
  · rw [if_neg h, Fin.getElem_fin, updAt_other v h]; rfl

theorem updAt_getFin_same (i : Fin n) (f : α → α) : (updAt v i f)[i] = f v[i] := by rw [updAt_getFin, if_pos rfl]

theorem updAt_getFin_other {i j : Fin n} (h : i ≠ j) (f : α → α) : (updAt v i f)[j] = v[j] := by
  rw [updAt_getFin, if_neg h]

/-- Two rows are equal when they agree at each index. -/
theorem row_ext {v w : Vector α n} (h : ∀ i : Fin n, v[i] = w[i]) : v = w :=
  Vector.ext fun i hi => h ⟨i, hi⟩

theorem updAt_congr {i : Fin n} {f g : α → α} (h : f v[i] = g v[i]) : updAt v i f = updAt v i g := by
  unfold updAt; rw [h]

theorem updAt_eq_self {i : Fin n} {f : α → α} (h : f v[i] = v[i]) : updAt v i f = v := by
  refine row_ext fun j => ?_
  rw [updAt_getFin]
  split
  · rename_i e; subst e; exact h
  · rfl

theorem updAt_updAt (i : Fin n) (f g : α → α) : updAt (updAt v i f) i g = updAt v i (g ∘ f) := by
  refine row_ext fun j => ?_
  simp only [updAt_getFin]
  split <;> rfl

end Rows

/-! ## What a report reads -/

/-- Two states with the same PCW, management unit and switch: a frame for the PCW goes the same way from both. -/
structure SameDesk (s t : State) : Prop where
  pcw : t.pcw = s.pcw
  mgu : t.mgu = s.mgu
  fsw : t.fsw = s.fsw

theorem SameDesk.classQueue {s t : State} (h : SameDesk s t) (n : PortName) (x : BitVec 4) :
    classQueue t n x = classQueue s n x := by unfold Machine.classQueue; rw [h.fsw]

/-- `t` with the PCW and the management unit of `u`. -/
def State.withDesk (t u : State) : State := { t with pcw := u.pcw, mgu := u.mgu }

section Desk
variable {s t : State} (h : SameDesk s t)
include h

theorem handPort_w_desk (f : Frame) (o : Origin) :
    (handPort .w f o t).1 = t.withDesk (handPort .w f o s).1 ∧ (handPort .w f o t).2 = (handPort .w f o s).2 := by
  have hq : ∀ x, classQueue t (segPort .w) x = classQueue s (segPort .w) x := h.classQueue _
  unfold handPort
  simp only [State.port_w, h.pcw, hq, State.onPort_w]
  cases s.pcw.state with
  | isolated => exact ⟨by simp [State.withDesk, h.mgu], rfl⟩
  | run | restart =>
    by_cases hl : s.pcw.tx[classQueue s (segPort .w) f.cls].length < Config.segmentDepth
    · simp only [hl, if_true]; exact ⟨by simp [State.withDesk, h.mgu], trivial⟩
    · simp only [hl, if_false]; exact ⟨by simp [State.withDesk, h.mgu], trivial⟩

theorem handStatus_desk (f : Frame) : handStatus f t = t.withDesk (handStatus f s) := by
  obtain ⟨h1, h2⟩ := handPort_w_desk h f .mgu
  unfold handStatus
  revert h1 h2
  generalize handPort .w f .mgu t = x
  generalize handPort .w f .mgu s = y
  obtain ⟨x1, x2⟩ := x
  obtain ⟨y1, y2⟩ := y
  intro h1 h2
  dsimp only at h1 h2
  subst h1 h2
  cases x2 <;> rfl

theorem alarmFrame_desk (a : Alarm) (j : Subject) (b : Bool) : alarmFrame a j b t = alarmFrame a j b s := by
  simp only [alarmFrame, raisedCount, h.mgu]

theorem raiseAlarm_desk (a : Alarm) (j : Subject) : raiseAlarm a j t = t.withDesk (raiseAlarm a j s) := by
  unfold raiseAlarm isRaised
  rw [h.mgu]
  split
  · simp only [State.withDesk, ← h.pcw, ← h.mgu]
  · have h1 : ∀ f, SameDesk (s.onMgu f) (t.onMgu f) := fun f => ⟨h.pcw, congrArg f h.mgu, h.fsw⟩
    simp only [handStatus_desk (h1 _), alarmFrame_desk (h1 _)]
    rfl

theorem clearAlarm_desk (a : Alarm) (j : Subject) : clearAlarm a j t = t.withDesk (clearAlarm a j s) := by
  unfold clearAlarm isRaised
  rw [h.mgu]
  split
  · have h1 : ∀ f, SameDesk (s.onMgu f) (t.onMgu f) := fun f => ⟨h.pcw, congrArg f h.mgu, h.fsw⟩
    simp only [handStatus_desk (h1 _), alarmFrame_desk (h1 _)]
    rfl
  · simp only [State.withDesk, ← h.pcw, ← h.mgu]

/-- A STATION-STATUS frame also shows the stations. -/
theorem reportStatus_desk (hc : t.csu = s.csu) (st : Option (Fin 4)) (o : StatusOutcome) (d : Byte) :
    reportStatus st o d t = t.withDesk (reportStatus st o d s) := by
  have e : statusFrame st o d t = statusFrame st o d s := by unfold statusFrame; rw [hc]
  unfold reportStatus
  rw [handStatus_desk h, e]

end Desk

/-! ## Reports beside other changes -/

section Beside
variable (s : State)

theorem clearAlarm_onPiu (a : Alarm) (j : Subject) (f : Piu → Piu) :
    clearAlarm a j (s.onPiu f) = (clearAlarm a j s).onPiu f := by
  rw [clearAlarm_desk (s := s) (t := s.onPiu f) ⟨rfl, rfl, rfl⟩]
  exact (congrArg (·.onPiu f) (clearAlarm_same s a j)).symm

theorem clearAlarm_onHlc (a : Alarm) (j : Subject) (f : Hlc → Hlc) :
    clearAlarm a j (s.onHlc f) = (clearAlarm a j s).onHlc f := by
  rw [clearAlarm_desk (s := s) (t := s.onHlc f) ⟨rfl, rfl, rfl⟩]
  exact (congrArg (·.onHlc f) (clearAlarm_same s a j)).symm

theorem raiseAlarm_onHlc (a : Alarm) (j : Subject) (f : Hlc → Hlc) :
    raiseAlarm a j (s.onHlc f) = (raiseAlarm a j s).onHlc f := by
  rw [raiseAlarm_desk (s := s) (t := s.onHlc f) ⟨rfl, rfl, rfl⟩]
  exact (congrArg (·.onHlc f) (raiseAlarm_same s a j)).symm

theorem reportStatus_onHlc (st : Option (Fin 4)) (o : StatusOutcome) (d : Byte) (f : Hlc → Hlc) :
    reportStatus st o d (s.onHlc f) = (reportStatus st o d s).onHlc f := by
  rw [reportStatus_desk (s := s) (t := s.onHlc f) ⟨rfl, rfl, rfl⟩ rfl]
  exact (congrArg (·.onHlc f) (reportStatus_same s st o d)).symm

end Beside

/-! ## The raised set after a report (R200) -/

section Raised
variable (s : State)

@[simp] theorem handStatus_raised (f : Frame) : (handStatus f s).mgu.raised = s.mgu.raised := by
  obtain ⟨g, hg⟩ := handPort_port s .w f .mgu
  have h : (handPort .w f .mgu s).1.mgu = s.mgu := by rw [hg]; rfl
  unfold handStatus
  revert h
  generalize handPort .w f .mgu s = x
  obtain ⟨x1, x2⟩ := x
  intro h
  cases x2 <;> exact (congrArg Mgu.raised h : x1.mgu.raised = s.mgu.raised)

@[simp] theorem reportStatus_raised (st : Option (Fin 4)) (o : StatusOutcome) (d : Byte) :
    (reportStatus st o d s).mgu.raised = s.mgu.raised := handStatus_raised s _

theorem clearAlarm_raised (a : Alarm) (j : Subject) :
    (clearAlarm a j s).mgu.raised = s.mgu.raised.filter (· != (a, j)) := by
  unfold clearAlarm
  split
  · rw [handStatus_raised]; rfl
  · rename_i h
    symm
    rw [List.filter_eq_self]
    intro x hx
    simp only [bne_iff_ne]
    rintro rfl
    exact h (List.contains_iff_mem.2 hx)

theorem raiseAlarm_raised (a : Alarm) (j : Subject) :
    (raiseAlarm a j s).mgu.raised = if isRaised a j s then s.mgu.raised else s.mgu.raised ++ [(a, j)] := by
  unfold raiseAlarm
  split
  · rfl
  · rw [handStatus_raised]; rfl

theorem isRaised_iff (a : Alarm) (j : Subject) : isRaised a j s = true ↔ (a, j) ∈ s.mgu.raised := List.contains_iff_mem

theorem isRaised_congr {s t : State} (h : t.mgu.raised = s.mgu.raised) (a : Alarm) (j : Subject) :
    isRaised a j t = isRaised a j s := by unfold isRaised; rw [h]

theorem isRaised_raiseAlarm (a b : Alarm) (j k : Subject) :
    isRaised b k (raiseAlarm a j s) = true ↔ isRaised b k s = true ∨ (b = a ∧ k = j) := by
  simp only [isRaised_iff, raiseAlarm_raised]
  split
  · rename_i h
    constructor
    · exact .inl
    · rintro (h' | ⟨rfl, rfl⟩)
      · exact h'
      · exact h
  · simp

theorem isRaised_clearAlarm (a b : Alarm) (j k : Subject) :
    isRaised b k (clearAlarm a j s) = true ↔ isRaised b k s = true ∧ ¬(b = a ∧ k = j) := by
  simp [isRaised_iff, clearAlarm_raised, List.mem_filter]

theorem isRaised_clearAllOf (a b : Alarm) (k : Subject) :
    isRaised b k (clearAllOf a s) = true ↔ isRaised b k s = true ∧ b ≠ a := by
  have key : ∀ (l : List Subject) (s : State), isRaised b k (l.foldl (fun s j => clearAlarm a j s) s) = true ↔
      isRaised b k s = true ∧ ¬(b = a ∧ k ∈ l) := by
    intro l
    induction l with
    | nil => simp
    | cons j l ih =>
      intro s
      rw [List.foldl_cons, ih, isRaised_clearAlarm, List.mem_cons]
      tauto
  have hm : k ∈ raisedSubjects a s ↔ isRaised a k s = true := by
    simp [raisedSubjects, isRaised_iff]
  unfold clearAllOf
  rw [key, hm]
  constructor
  · rintro ⟨h, h'⟩
    refine ⟨h, ?_⟩
    rintro rfl
    exact h' ⟨rfl, h⟩
  · rintro ⟨h, h'⟩
    exact ⟨h, fun x => h' x.1⟩

theorem not_isRaised_clearAllOf (a : Alarm) (k : Subject) : isRaised a k (clearAllOf a s) = false := by
  rw [Bool.eq_false_iff, ne_eq, isRaised_clearAllOf]
  exact fun h => h.2 rfl

theorem isRaised_raised (a : Alarm) (j : Subject) : isRaised a j (raiseAlarm a j s) = true :=
  (isRaised_raiseAlarm s a a j j).2 (.inr ⟨rfl, rfl⟩)

theorem not_isRaised_cleared (a : Alarm) (j : Subject) : isRaised a j (clearAlarm a j s) = false := by
  rw [Bool.eq_false_iff, ne_eq, isRaised_clearAlarm]
  exact fun h => h.2 ⟨rfl, rfl⟩

theorem isRaised_reportStatus (st : Option (Fin 4)) (o : StatusOutcome) (d : Byte) (a : Alarm) (j : Subject) :
    isRaised a j (reportStatus st o d s) = isRaised a j s := isRaised_congr (reportStatus_raised s st o d) a j

theorem isRaised_report (st : Fin 4) (o : StatusOutcome) (a : Alarm) (j : Subject) :
    isRaised a j (report st o s) = isRaised a j s := isRaised_reportStatus s _ _ _ a j

theorem isRaised_armEnded (a : Alarm) (j : Subject) : isRaised a j (armEnded s) = isRaised a j s := by
  unfold armEnded
  split
  · exact isRaised_reportStatus _ _ _ _ a j
  · rfl
  · rfl

end Raised

/-! ## Frames handed to the link (R177) -/

theorem handLink_of_same {s t : State} (hh : t.hlc = s.hlc) (hf : t.fsw = s.fsw) (f : Frame) (o : Origin) :
    (handLink f o t).1 = { t with hlc := (handLink f o s).1.hlc } := by
  have hq : classQueue t .h f.cls = classQueue s .h f.cls := by unfold classQueue; rw [hf]
  unfold handLink State.onHlc
  simp only [hh, hq]
  split
  · rfl
  · split
    · rfl
    · split <;> rfl

theorem sendJoin_of_same {s t : State} (hh : t.hlc = s.hlc) (hf : t.fsw = s.fsw) (f : Frame) :
    sendJoin f t = { t with hlc := (handLink f .csu s).1.hlc } := handLink_of_same hh hf f .csu

/-! ## What was told beside a change of a unit -/

/-- A change of the units that no report touches, made after the telling instead of before it. -/
theorem Told.beside {s t : State} (h : Told s t) (f : State → State)
    (hf : ∀ (u : State) (p : PortCtl) (m : Mgu), f { u with pcw := p, mgu := m } = { f u with pcw := p, mgu := m })
    (hp : ∀ u, (f u).pcw = u.pcw) (hm : ∀ u, (f u).mgu = u.mgu) : Told (f s) (f t) := by
  refine ⟨?_, ?_, ?_, ?_⟩
  · conv_lhs => rw [h.rest]
    rw [hf, hp, hm]
  · rw [hp, hp]; exact h.port
  · rw [hp, hp]; exact h.queues
  · rw [hm, hm]; exact h.unit

theorem Told.onCsu {s t : State} (h : Told s t) (f : Csu → Csu) : Told (s.onCsu f) (t.onCsu f) :=
  h.beside (·.onCsu f) (fun _ _ _ => rfl) (fun _ => rfl) (fun _ => rfl)

/-- A pending arm ended: the release state, and what was told. -/
theorem armEnded_told (s : State) : Told { s with cmu := { s.cmu with release := s.cmu.release.disarmed } } (armEnded s) := by
  unfold armEnded
  split
  · rename_i h
    rw [h]
    exact reportStatus_told _ _ _ _
  · rename_i h
    rw [h, Release.disarmed, ← h]
    exact Told.refl s
  · rename_i h
    rw [h, Release.disarmed, ← h]
    exact Told.refl s

theorem armEnded_hlc (s : State) : (armEnded s).hlc = s.hlc := by rw [armEnded_same]
theorem armEnded_fsw (s : State) : (armEnded s).fsw = s.fsw := by rw [armEnded_same]
theorem armEnded_role (s : State) : (armEnded s).role = s.role := by rw [armEnded_same]

end Sys2Proof.Machine

/-! # Class 0 and class 1 frames: arrival, HELM, the handle match, ALL-STOP-CLEAR and the station timers (R3 to R9, R13) -/

namespace Sys2Proof.Machine

/-! ## The record of a station whose presence is renewed -/

section Heard
variable (i : Fin 4) (s : State)

theorem heardFrom_get (j : Fin 4) : (heardFrom i s).csu.stations[j] =
    if i = j then { s.csu.stations[j] with presence := some (s.now + 1000 * Config.usPerMs) } else s.csu.stations[j] :=
  updAt_getFin ..

theorem heardFrom_state (j : Fin 4) : (heardFrom i s).csu.stations[j].state = s.csu.stations[j].state := by
  rw [heardFrom_get]; split <;> rfl

theorem heardFrom_silent (j : Fin 4) : (heardFrom i s).csu.stations[j].silent = s.csu.stations[j].silent := by
  rw [heardFrom_get]; split <;> rfl

theorem heardFrom_last (j : Fin 4) : (heardFrom i s).csu.stations[j].last = s.csu.stations[j].last := by
  rw [heardFrom_get]; split <;> rfl

theorem heardFrom_presence : (heardFrom i s).csu.stations[i].presence = some (s.now + 1000 * Config.usPerMs) := by
  rw [heardFrom_get, if_pos rfl]

theorem helmFresh_heardFrom (j : Fin 4) : helmFresh (heardFrom i s) j = helmFresh s j := by
  unfold helmFresh; rw [heardFrom_last]; rfl

theorem handleMatch_heardFrom (j : Fin 4) : handleMatch (heardFrom i s) j = handleMatch s j := by
  unfold handleMatch; rw [heardFrom_last, helmFresh_heardFrom]; rfl

/-- A station already heard at this moment is heard again to no effect. -/
theorem heardFrom_of_heard {i : Fin 4} {s : State}
    (h : s.csu.stations[i].presence = some (s.now + 1000 * Config.usPerMs)) : heardFrom i s = s := by
  have e : updAt s.csu.stations i ({ · with presence := some (s.now + 1000 * Config.usPerMs) }) = s.csu.stations :=
    updAt_eq_self _ (by rw [← h])
  unfold heardFrom
  rw [e]

end Heard

/-! ## Arrival (R3) -/

section Arrival
variable {s : State} {n : Node} {i : Fin 4}

theorem whenRunning_run (h : s.power = .run) (k : State → State) : whenRunning s k = k s := by
  unfold whenRunning; rw [h]

theorem renewPresence_here (here : s.csu.stations[i].state ≠ .absent) (heard : s.csu.stations[i].silent = false) :
    renewPresence i s = heardFrom i s := by
  have h1 := heardFrom_state i s i
  have h2 := heardFrom_silent i s i
  show (if (heardFrom i s).csu.stations[i].state = .absent then _ else
    if (heardFrom i s).csu.stations[i].silent = true then _ else heardFrom i s) = _
  rw [if_neg (by rw [h1]; exact here), if_neg (by rw [h2, heard]; exact Bool.false_ne_true)]

theorem renewPresence_absent (h : s.csu.stations[i].state = .absent) :
    renewPresence i s = report i .presentOn (onStation i ({ · with state := .present }) (heardFrom i s)) :=
  if_pos ((heardFrom_state i s i).trans h)

theorem renewPresence_silent (h : s.csu.stations[i].state ≠ .absent) (hs : s.csu.stations[i].silent = true) :
    renewPresence i s = report i .presentOn (onStation i ({ · with silent := false }) (heardFrom i s)) :=
  (if_neg fun e => h ((heardFrom_state i s i).symm.trans e)).trans (if_pos ((heardFrom_silent i s i).trans hs))

/-- A frame of a station that is here acts once its presence is renewed. -/
theorem Sender.frame (h : Sender s n i) (k : Fin 4 → State → State) :
    whenRunning s (stationFrame n k) = k i (heardFrom i s) := by
  rw [whenRunning_run h.running, stationFrame, h.found]
  exact congrArg (k i) (renewPresence_here h.here h.heard)

/-- From a state in which the station is already heard, present and not silent, the frame acts at once. -/
theorem stationFrame_heard (hf : findStation s n = some i) (here : s.csu.stations[i].state ≠ .absent)
    (heard : s.csu.stations[i].silent = false)
    (hp : s.csu.stations[i].presence = some (s.now + 1000 * Config.usPerMs)) (k : Fin 4 → State → State) :
    stationFrame n k s = k i s := by
  rw [stationFrame, hf]
  show k i (renewPresence i s) = _
  rw [renewPresence_here here heard, heardFrom_of_heard hp]

theorem stationFrame_unknown (h : findStation s n = none) (k : Fin 4 → State → State) :
    stationFrame n k s = countUnknown s := by rw [stationFrame, h]

theorem allStopFrame_unknown (h : findStation s n = none) : allStopFrame n s = countUnknown s := by
  rw [allStopFrame, h]

theorem classZero_unknown {f : Frame} (h : findStation s f.node = none) : classZero f s = countUnknown s := by
  unfold classZero
  split
  · exact allStopFrame_unknown h
  · rfl

theorem classOne_unknown {f : Frame} (h : findStation s f.node = none) : classOne f s = countUnknown s := by
  unfold classOne
  split
  case h_8 => rfl
  case h_1 =>
    split
    · exact stationFrame_unknown h _
    · rfl
  all_goals exact stationFrame_unknown h _

theorem classOne_otherKind {f : Frame} (h : f.kind = 0 ∨ 7 < f.kind) : classOne f s = countUnknown s := by
  have h' : f.kind.toNat = 0 ∨ 7 < f.kind.toNat := h.imp (fun e => by rw [e]; rfl) id
  unfold classOne
  split
  case h_8 => rfl
  all_goals omega

theorem classOne_badHelm {f : Frame} (h : f.kind = 1) (hl : f.payload.length ≠ 5) : classOne f s = countUnknown s := by
  unfold classOne
  rw [h]
  show (match f.payload with | [a, b, c, d, x] => _ | _ => countUnknown s) = _
  split
  · rename_i e
    exact absurd (by rw [e]; rfl) hl
  · rfl

/-- The commands of class 1. -/
def isStationCommand (n : Node) (c : Instr) : Prop :=
  (∃ d t q, c = .helm n d t q) ∨ c = .take n ∨ c = .give n ∨ c = .takeForce n ∨ c = .takeBack n ∨ c = .joinGive n ∨
    c = .allStopClear n

/-- Every command of class 1 is an effect that its station's frame has. -/
theorem exec_stationCommand {c : Instr} (h : isStationCommand n c) :
    ∃ k, ∀ s, exec c s = .next (whenRunning s (stationFrame n k)) := by
  rcases h with ⟨d, t, q, rfl⟩ | rfl | rfl | rfl | rfl | rfl | rfl
  all_goals exact ⟨_, fun _ => rfl⟩

/-- A command of class 1 acts from the state that the renewed presence leaves as it does from the state before. -/
theorem exec_after_renewal {c : Instr} (hc : isStationCommand n c) (hr : s.power = .run)
    (hf : findStation s n = some i) {f : Station → Station}
    (hrec : ∀ r : Station, (f r).presence = r.presence) (here : (f (heardFrom i s).csu.stations[i]).state ≠ .absent)
    (heard : (f (heardFrom i s).csu.stations[i]).silent = false)
    (h : renewPresence i s = report i .presentOn (onStation i f (heardFrom i s))) :
    exec c s = exec c (report i .presentOn (onStation i f (heardFrom i s))) := by
  obtain ⟨k, hk⟩ := exec_stationCommand hc
  have hr' : (report i .presentOn (onStation i f (heardFrom i s))).power = .run := by
    rw [report_power]; exact hr
  have hrec' : (report i .presentOn (onStation i f (heardFrom i s))).csu.stations[i] = f (heardFrom i s).csu.stations[i] := by
    rw [report_csu]; exact updAt_getFin_same ..
  have hfind : findStation (report i .presentOn (onStation i f (heardFrom i s))) n = some i := by
    rw [report_same]; exact hf
  rw [hk, hk, whenRunning_run hr, whenRunning_run hr', stationFrame_heard hfind, stationFrame, hf]
  · exact congrArg (fun u => Host.Outcome.next (k i u)) h
  · rw [hrec']; exact here
  · rw [hrec']; exact heard
  · rw [hrec', hrec, heardFrom_presence, report_now]; rfl

end Arrival

/-- Settles O11. -/
theorem classOneArrives : Obligations.ClassOneArrives := by
  unfold Obligations.ClassOneArrives
  refine ⟨fun s hr => ⟨fun n hn c hc => ?_, fun n i hn ha => ?_, fun f hf => ?_⟩, fun s n i c hr hf hc => ⟨?_, ?_⟩⟩
  · rcases hc with rfl | ⟨d, t, q, rfl⟩ | rfl | rfl | rfl | rfl | rfl | rfl | ⟨f, rfl, hcls, rfl⟩
    · exact congrArg Host.Outcome.next ((whenRunning_run hr _).trans (allStopFrame_unknown hn))
    case inr.inr.inr.inr.inr.inr.inr.inr =>
      refine congrArg Host.Outcome.next ((whenRunning_run hr _).trans ?_)
      rw [classZero_unknown hn, classOne_unknown hn, ite_self]
      rfl
    all_goals exact congrArg Host.Outcome.next ((whenRunning_run hr _).trans (stationFrame_unknown hn _))
  · refine congrArg Host.Outcome.next ((whenRunning_run hr _).trans ?_)
    rw [allStopFrame, hn]
    exact if_pos ha
  · refine congrArg Host.Outcome.next ((whenRunning_run hr _).trans ?_)
    rcases hf with ⟨hc, hk⟩ | ⟨hc, hk⟩ | ⟨hc, hk, hl⟩
    · rw [if_pos hc]; exact if_neg hk
    · rw [if_neg (by rw [hc]; decide)]; exact classOne_otherKind hk
    · rw [if_neg (by rw [hc]; decide)]; exact classOne_badHelm hk hl
  · intro ha hs
    exact exec_after_renewal hc hr hf (fun _ => rfl) (by simp) ((heardFrom_silent i s i).trans hs) (renewPresence_absent ha)
  · intro ha hs
    refine exec_after_renewal hc hr hf (fun _ => rfl) ?_ rfl (renewPresence_silent ha hs)
    exact fun e => ha ((heardFrom_state i s i).symm.trans e)

end Sys2Proof.Machine

/-! # HELM, the handle match, ALL-STOP-CLEAR and the station timers (R4 to R7, R9, R13) -/

namespace Sys2Proof.Machine

/-! ## Clamped demands -/

theorem clampSym_eq (x m : Int) : clampSym x m = max (-m) (min x m) := rfl

theorem clampSym_eq_self_iff (x : Int) : clampSym x 1000 = x ↔ ¬1000 < x.natAbs := by
  rw [clampSym_eq]; omega

theorem natAbs_clampSym_le (x : Int) (m : Nat) : (clampSym x m).natAbs ≤ m := by
  rw [clampSym_eq]; omega

/-- A HELM with a demand beyond ±1000 is counted once (R4). -/
def helmCounted (d t : Int) (s : State) : State :=
  if decide (1000 < d.natAbs) || decide (1000 < t.natAbs) then
    { s with csu := { s.csu with helmClamp := min 65535 (s.csu.helmClamp + 1) } }
  else s

theorem helmCounted_eq (d t : Int) (s : State) : helmCounted d t s = { s with csu := { s.csu with
    helmClamp := if decide (1000 < d.natAbs) || decide (1000 < t.natAbs) then min 65535 (s.csu.helmClamp + 1)
      else s.csu.helmClamp } } := by
  unfold helmCounted; split <;> rfl

/-- HELM in one equation: counted, then a repeat or accepted (R4). -/
theorem stationHelm_eq (i : Fin 4) (d t : Int) (seq : Nat) (s : State) :
    stationHelm i d t seq s =
      if s.csu.stations[i].last.elim false (·.seq == seq) then
        (helmCounted d t s).onCsu fun c => { c with helmRepeat := satInc c.helmRepeat }
      else acceptHelm i (clampSym d 1000) (clampSym t 1000) seq (helmCounted d t s) := by
  have e : (if clampSym d demandMax = d ∧ clampSym t demandMax = t then s
      else s.onCsu fun c => { c with helmClamp := satInc c.helmClamp }) = helmCounted d t s := by
    unfold helmCounted
    simp only [demandMax, clampSym_eq_self_iff, Bool.or_eq_true, decide_eq_true_eq]
    by_cases h1 : 1000 < d.natAbs <;> by_cases h2 : 1000 < t.natAbs <;> simp only [h1, h2, not_true, not_false_iff, and_true,
      and_false, and_self, or_true, or_false, or_self, if_true, if_false] <;> rfl
  unfold stationHelm
  dsimp only
  rw [e]
  exact if_congr (by rw [helmCounted_eq]) rfl rfl

/-- The sequence of the last accepted HELM of a station is that of the new one. -/
theorem repeats_iff (r : Station) (q : Nat) :
    r.last.elim false (·.seq == q) = true ↔ ∃ h, r.last = some h ∧ h.seq = q := by
  cases r.last <;> simp

/-- The record of a station whose HELM is accepted at a time (R4). -/
def helmTaken (d t : Int) (seq now : Nat) (r : Station) : Station :=
  { r with last := some { d := d, t := t, seq := seq, time := now }, freshness := some (now + 300 * Config.usPerMs) }

theorem acceptHelm_other {i : Fin 4} {s : State} (h : s.csu.inCommand ≠ some i) (d t : Int) (seq : Nat) :
    acceptHelm i d t seq s = onStation i (helmTaken d t seq s.now) s := if_neg h

theorem acceptHelm_holder {i : Fin 4} {s : State} (h : s.csu.inCommand = some i) (d t : Int) (seq : Nat) :
    acceptHelm i d t seq s = formTargets (endStale (onStation i (helmTaken d t seq s.now) s)) := if_pos h

/-! ## Targets (R5, R6) -/

/-- The targets that the station in command gives with a HELM (R5). -/
def targetsOf (s : State) (i : Fin 4) (h : HelmRec) : Int × Int :=
  if s.csu.allStop.isSome then (0, 0)
  else match (stationOf s i).kind with
    | .manual => (h.d, h.t)
    | .autopilot => (s.csu.dAp, clampSym h.t (turnLimitOf s))

theorem formTargets_helm {s : State} {i : Fin 4} {h : HelmRec} (hi : s.csu.inCommand = some i)
    (hl : s.csu.stations[i].last = some h) :
    formTargets s = s.onCsu fun c => { c with dStar := (targetsOf s i h).1, tStar := (targetsOf s i h).2 } := by
  unfold formTargets targetsOf
  rw [hi]
  dsimp only
  rw [hl]
  split
  · rfl
  · cases (stationOf s i).kind <;> rfl

/-- The end of staleness (R6), and what was told. -/
theorem endStale_csu (s : State) : (endStale s).csu = { s.csu with phase := .fresh, staleHold := none } := clearAllOf_csu ..

theorem endStale_told (s : State) :
    Told (s.onCsu fun c => { c with phase := .fresh, staleHold := none }) (endStale s) := clearAllOf_told _ _

theorem endStale_same (s : State) :
    SameButStatus (s.onCsu fun c => { c with phase := .fresh, staleHold := none }) (endStale s) := clearAllOf_same _ _

theorem not_stale_endStale (s : State) (j : Subject) : isRaised .commandStale j (endStale s) = false :=
  not_isRaised_clearAllOf _ _ j

/-- An accepted HELM of the station in command: recorded, staleness ended, the targets formed (R4 to R6). -/
theorem acceptHelm_holder_told {i : Fin 4} {s : State} (hi : s.csu.inCommand = some i) (d t : Int) (seq : Nat) :
    (∀ j, isRaised .commandStale j (acceptHelm i d t seq s) = false) ∧
      Told (s.onCsu fun c => { c with
        stations := updAt c.stations i (helmTaken d t seq s.now), phase := .fresh, staleHold := none,
        dStar := (targetsOf s i ⟨d, t, seq, s.now⟩).1, tStar := (targetsOf s i ⟨d, t, seq, s.now⟩).2 })
        (acceptHelm i d t seq s) := by
  rw [acceptHelm_holder hi]
  generalize hb : onStation i (helmTaken d t seq s.now) s = b
  have hlast : (endStale b).csu.stations[i].last = some ⟨d, t, seq, s.now⟩ := by
    rw [endStale_csu, ← hb]
    exact congrArg Station.last (updAt_getFin_same ..)
  have hin : (endStale b).csu.inCommand = some i := by rw [endStale_csu, ← hb]; exact hi
  have htargets : targetsOf (endStale b) i ⟨d, t, seq, s.now⟩ = targetsOf s i ⟨d, t, seq, s.now⟩ := by
    rw [endStale_same b, ← hb]; rfl
  rw [formTargets_helm hin hlast, htargets]
  refine ⟨fun j => not_stale_endStale b j, ?_⟩
  have htold := (endStale_told b).onCsu fun c => { c with
    dStar := (targetsOf s i ⟨d, t, seq, s.now⟩).1, tStar := (targetsOf s i ⟨d, t, seq, s.now⟩).2 }
  rw [← hb] at htold ⊢
  exact htold

/-- Settles O12. -/
theorem helmRows : Obligations.HelmRows := by
  unfold Obligations.HelmRows
  have hexec : ∀ {s : State} {n : Node} {i : Fin 4} (d t : BitVec 16) (q : Byte), Sender s n i →
      exec (.helm n d t q) s = .next (stationHelm i d.toInt t.toInt q.toNat (heardFrom i s)) :=
    fun d t q h => congrArg Host.Outcome.next (h.frame _)
  have hnew : ∀ {s : State} {i : Fin 4} {q : Byte}, (∀ h, s.csu.stations[i].last = some h → h.seq ≠ q.toNat) →
      ¬(heardFrom i s).csu.stations[i].last.elim false (·.seq == q.toNat) = true := by
    intro s i q hq
    rw [repeats_iff, heardFrom_last]
    rintro ⟨y, e, e'⟩
    exact hq y e e'
  refine ⟨fun s n i d t q h => ?_, fun s n i d t q h hi hq => ?_⟩
  · intro beyond u v
    have hv : v = helmCounted d.toInt t.toInt u := rfl
    rw [hexec d t q h, stationHelm_eq, ← hv]
    refine ⟨fun hr => ?_, fun hq hi => ?_⟩
    · have hrep : v.csu.helmRepeat = s.csu.helmRepeat := by rw [hv, helmCounted_eq]; rfl
      rw [if_pos ((repeats_iff _ _).2 (by rw [heardFrom_last]; exact hr)), ← hrep]
      rfl
    · have hnow : ∀ d t, helmTaken d t q.toNat v.now = helmTaken d t q.toNat s.now := by
        intro d t; rw [hv, helmCounted_eq]; rfl
      rw [if_neg (hnew hq), acceptHelm_other (by rw [hv, helmCounted_eq]; exact hi), hnow]
      rfl
  · intro beyond d1 t1 ap
    generalize hv : helmCounted d.toInt t.toInt (heardFrom i s) = v
    have hin : v.csu.inCommand = some i := by rw [← hv, helmCounted_eq]; exact hi
    obtain ⟨hstale, htold⟩ := acceptHelm_holder_told hin d1 t1 q.toNat
    refine ⟨_, hexec d t q h, ?_⟩
    rw [stationHelm_eq, if_neg (hnew hq), hv]
    refine ⟨hstale, ?_⟩
    have hstations : updAt s.csu.stations i (fun r =>
        { r with presence := some (s.now + 1000 * Config.usPerMs),
                 last := some { d := d1, t := t1, seq := q.toNat, time := s.now },
                 freshness := some (s.now + 300 * Config.usPerMs) }) =
        updAt (heardFrom i s).csu.stations i (helmTaken d1 t1 q.toNat s.now) :=
      (updAt_updAt s.csu.stations i ({ · with presence := some (s.now + 1000 * Config.usPerMs) })
        (helmTaken d1 t1 q.toNat s.now)).symm
    have htargets : targetsOf v i ⟨d1, t1, q.toNat, v.now⟩ = targetsOf s i ⟨d1, t1, q.toNat, s.now⟩ := by
      rw [← hv, helmCounted_eq]; rfl
    rw [htargets] at htold
    have key : ∀ a b : Int, a = (targetsOf s i ⟨d1, t1, q.toNat, s.now⟩).1 → b = (targetsOf s i ⟨d1, t1, q.toNat, s.now⟩).2 →
        Told { s with csu := { s.csu with
          helmClamp := if beyond then min 65535 (s.csu.helmClamp + 1) else s.csu.helmClamp,
          stations := updAt (heardFrom i s).csu.stations i (helmTaken d1 t1 q.toNat s.now), phase := .fresh, staleHold := none,
          dStar := a, tStar := b } } (acceptHelm i d1 t1 q.toNat v) := by
      rintro _ _ rfl rfl
      have := htold
      conv at this => arg 1; rw [← hv, helmCounted_eq]
      exact this
    rw [hstations]
    refine key _ _ ?_ ?_ <;> unfold targetsOf <;> cases s.csu.allStop <;> cases (stationOf s i).kind <;> rfl

/-! ## The handle match (R7) -/

theorem helmFresh_iff (s : State) (i : Fin 4) :
    helmFresh s i = true ↔ ∃ h, s.csu.stations[i].last = some h ∧ s.now < h.time + 300 * Config.usPerMs := by
  unfold helmFresh under
  cases s.csu.stations[i].last with
  | none => simp
  | some h =>
    simp only [Option.some.injEq, exists_eq_left']
    exact decide_eq_true_iff

/-- Settles O13. -/
theorem handleMatchHolds : Obligations.HandleMatchHolds := by
  unfold Obligations.HandleMatchHolds
  intro s i
  unfold handleMatch
  cases hl : s.csu.stations[i].last with
  | none => simp
  | some h =>
    have hf := helmFresh_iff s i
    simp only [hl, Option.some.injEq, exists_eq_left'] at hf
    simp only [Bool.and_eq_true, hf, Option.some.injEq, exists_eq_left']
    refine and_congr_right fun _ => ?_
    cases (stationOf s i).kind with
    | manual => exact (Bool.and_eq_true _ _ ▸ and_congr decide_eq_true_iff decide_eq_true_iff)
    | autopilot => exact decide_eq_true_iff

/-! ## ALL-STOP-CLEAR (R13) -/

theorem stationClear_forms {s : State} {i : Fin 4} (hi : s.csu.inCommand = some i) (ha : s.csu.allStop ≠ none)
    (hp : clearPasses s i = true) (hz : s.csu.phase ≠ .zero) :
    stationClear i s = report i .allStopOff (formTargets (s.onCsu ({ · with allStop := none }))) := by
  unfold stationClear
  rw [if_pos hi, if_neg ha, if_pos hp]
  exact congrArg (report i .allStopOff) (if_neg hz)

theorem stationClear_zero {s : State} {i : Fin 4} (hi : s.csu.inCommand = some i) (ha : s.csu.allStop ≠ none)
    (hp : clearPasses s i = true) (hz : s.csu.phase = .zero) :
    stationClear i s = report i .allStopOff (s.onCsu ({ · with allStop := none })) := by
  unfold stationClear
  rw [if_pos hi, if_neg ha, if_pos hp]
  exact congrArg (report i .allStopOff) (if_pos hz)

theorem clearPasses_manual {s : State} {i : Fin 4} (hk : (stationOf s i).kind = .manual) :
    clearPasses s i = true ↔ ∃ h, s.csu.stations[i].last = some h ∧ s.now < h.time + 300 * Config.usPerMs ∧ h.d.natAbs ≤ 50 := by
  unfold clearPasses
  rw [hk]
  dsimp only
  rw [Bool.and_eq_true, helmFresh_iff]
  cases s.csu.stations[i].last with
  | none => simp
  | some h =>
    simp only [Option.some.injEq, exists_eq_left']
    exact and_congr_right fun _ => decide_eq_true_iff

theorem clearPasses_autopilot {s : State} {i : Fin 4} (hk : (stationOf s i).kind = .autopilot) : clearPasses s i = true := by
  unfold clearPasses; rw [hk]

/-- Settles O18. -/
theorem allStopClearRows : Obligations.AllStopClearRows := by
  unfold Obligations.AllStopClearRows
  intro s n i h u ap
  have hexec : exec (.allStopClear n) s = .next (stationClear i u) := congrArg Host.Outcome.next (h.frame _)
  have hlast : u.csu.stations[i].last = s.csu.stations[i].last := heardFrom_last i s i
  have hform : ∀ x, s.csu.inCommand = some i → s.csu.stations[i].last = some x →
      formTargets (u.onCsu ({ · with allStop := none })) = { u with csu := { u.csu with
        allStop := none, dStar := (targetsOf (u.onCsu ({ · with allStop := none })) i x).1,
        tStar := (targetsOf (u.onCsu ({ · with allStop := none })) i x).2 } } := fun x hi hx =>
    formTargets_helm hi (hlast.trans hx)
  rw [hexec]
  refine ⟨fun hi => ?_, fun hi ha => ?_, fun hi ha hk hx => ?_, fun x hi ha hk hx ht hd hz => ?_,
    fun x hi ha hk hx hz => ?_, fun hi ha hk hx hz => ?_, fun hi ha hk hz => ?_⟩
  · exact congrArg Host.Outcome.next (if_neg hi)
  · exact congrArg Host.Outcome.next ((if_pos hi).trans (if_pos ha))
  · refine congrArg Host.Outcome.next ((if_pos hi).trans ((if_neg ha).trans (if_neg ?_)))
    rw [clearPasses_manual (s := u) hk, hlast]
    rintro ⟨y, e, ht, hd⟩
    rcases hx y e with hx | hx
    · exact absurd ht (Nat.not_lt.2 hx)
    · exact absurd hd (Nat.not_le.2 hx)
  · rw [stationClear_forms (s := u) hi ha ((clearPasses_manual (s := u) hk).2 ⟨x, hlast.trans hx, ht, hd⟩) hz, hform x hi hx]
    have : targetsOf (u.onCsu ({ · with allStop := none })) i x = (x.d, x.t) := by
      show (match (stationOf s i).kind with | .manual => _ | .autopilot => _) = _
      rw [hk]
    rw [this]
  · rw [stationClear_forms (s := u) hi ha (clearPasses_autopilot (s := u) hk) hz, hform x hi hx]
    have : targetsOf (u.onCsu ({ · with allStop := none })) i x = (s.csu.dAp, max (-ap) (min x.t ap)) := by
      show (match (stationOf s i).kind with | .manual => _ | .autopilot => _) = _
      rw [hk]
      rfl
    rw [this]
  · rw [stationClear_forms (s := u) hi ha (clearPasses_autopilot (s := u) hk) hz]
    refine ⟨clampSym (Config.freeTurn s.freeCount).toInt (turnLimitOf s), natAbs_clampSym_le _ _, ?_⟩
    have : formTargets (u.onCsu ({ · with allStop := none })) = { u with
        csu := { u.csu with allStop := none, dStar := s.csu.dAp,
                            tStar := clampSym (Config.freeTurn s.freeCount).toInt (turnLimitOf s) },
        freeCount := s.freeCount + 1 } := by
      have hk' : (stationOf (u.onCsu ({ · with allStop := none })) i).kind = .autopilot := hk
      have hx' : (u.onCsu ({ · with allStop := none })).csu.stations[i].last = none := hlast.trans hx
      have hi' : (u.onCsu ({ · with allStop := none })).csu.inCommand = some i := hi
      unfold formTargets
      rw [hi']
      dsimp only
      rw [hk', hx']
      rfl
    rw [this]
  · rw [stationClear_zero (s := u) hi ha (clearPasses_autopilot (s := u) hk) hz]
    rfl

/-! ## The station timers (R3, R6, R9) -/

section Expiry
variable {s : State} {timer : State → Timer} {k : State → State → State}

/-- An expiry of a stopped timer. -/
theorem expiry_stopped (h : timer s = none) : whenRunning s (fun s => onExpiry (timer s) s (k s)) = s := by
  unfold whenRunning
  split
  · show onExpiry (timer s) s (k s) = s
    rw [h]; rfl
  · rfl

/-- An expiry of a timer that runs on a running part. -/
theorem expiry_runs {d : Nat} (hr : s.power = .run) (h : timer s = some d) :
    whenRunning s (fun s => onExpiry (timer s) s (k s)) = k s (s.upTo d) := by
  rw [whenRunning_run hr, h]; rfl

end Expiry

section PresenceLost
variable {s : State} {i : Fin 4}

theorem presenceLost_absent (h : s.csu.stations[i].state = .absent) :
    presenceLost i s = onStation i ({ · with presence := none }) s := by
  unfold presenceLost; rw [h]

/-- The record of a station that goes ABSENT (R3). -/
def goneAbsent (r : Station) : Station := { r with presence := none, state := .absent, last := none, freshness := none }

theorem presenceLost_present (h : s.csu.stations[i].state = .present) :
    presenceLost i s = report i .absentOn (onStation i goneAbsent s) := by
  unfold presenceLost onStation State.onCsu
  rw [h]
  dsimp only
  rw [updAt_updAt]
  rfl

theorem presenceLost_requesting (h : s.csu.stations[i].state = .requesting) :
    presenceLost i s = report i .cancelled (onStation i goneAbsent
      (s.onCsu fun c => { c with request := none, transfer := none })) := by
  unfold presenceLost endRequest onStation State.onCsu
  rw [h]
  dsimp only
  rw [updAt_updAt, updAt_updAt]
  rfl

theorem presenceLost_holder (h : s.csu.stations[i].state = .inCommand) :
    presenceLost i s = report i .silent (onStation i ({ · with presence := none, silent := true }) s) := by
  unfold presenceLost onStation State.onCsu
  rw [h]
  dsimp only
  rw [updAt_updAt]
  rfl

end PresenceLost

/-- Settles O19. -/
theorem stationTimersExpire : Obligations.StationTimersExpire := by
  unfold Obligations.StationTimersExpire
  intro s i d hr later
  have at' : ∀ {a b : State}, a = b → Host.Outcome.next (φ := Fault) (ρ := Refusal) a = .next b := congrArg _
  refine ⟨fun h => ?_, fun h => ⟨fun hs => ?_, fun hs => ?_, fun hs => ?_, fun hs => ?_⟩, fun h hi hp => ?_, fun h hi => ?_,
    fun h hi hp => ?_, fun h => ?_, fun h => ?_, fun h => ?_, fun h hq => ?_, fun h => ?_, fun h hq => ?_⟩
  · exact at' (expiry_stopped h)
  · exact at' ((expiry_runs hr h).trans (presenceLost_absent hs))
  · exact at' ((expiry_runs hr h).trans (presenceLost_present hs))
  · exact at' ((expiry_runs hr h).trans (presenceLost_requesting hs))
  · exact at' ((expiry_runs hr h).trans (presenceLost_holder hs))
  · exact at' ((expiry_runs hr h).trans (if_pos ⟨hi, hp⟩))
  · exact at' ((expiry_runs hr h).trans (if_neg fun e => hi e.1))
  · exact at' ((expiry_runs hr h).trans (if_neg fun e => hp e.2))
  · exact at' (expiry_stopped h)
  · exact at' (expiry_stopped h)
  · exact at' (expiry_stopped h)
  · refine at' ((expiry_runs hr h).trans ?_)
    split
    · rfl
    · rename_i e
      cases hq.symm.trans e
  · exact at' (expiry_runs hr h)
  · refine at' ((expiry_runs hr h).trans ?_)
    split
    · rename_i e
      cases hq.symm.trans e
    · rename_i r e
      obtain rfl : i = r := Option.some.inj (hq.symm.trans e)
      rfl

end Sys2Proof.Machine

/-! # Transfers of command: TAKE, GIVE and TAKE-FORCE (R8 to R11) -/

namespace Sys2Proof.Machine

/-! ## What a grant makes of the station records (R11) -/

/-- The record of a station that leaves command. -/
def leftCommand (r : Station) : Station :=
  match r.presence with
  | none => forgetHelm { r with state := .absent, silent := false }
  | some _ => { r with state := .present, silent := false }

/-- The record of a station that a grant puts in command. -/
def tookCommand (i : Fin 4) (s : State) (r : Station) : Station :=
  { r with state := .inCommand, silent := false,
           freshness := if helmFresh s i then r.freshness else some (s.now + 300 * Config.usPerMs) }

/-- The station records once the station in command has left. -/
def holderLeft (s : State) : Vector Station 4 :=
  match s.csu.inCommand with
  | none => s.csu.stations
  | some o => updAt s.csu.stations o leftCommand

theorem leftCommand_eq (r : Station) : leftCommand r =
    if r.presence = none then { r with state := .absent, silent := false, last := none, freshness := none }
    else { r with state := .present, silent := false } := by
  unfold leftCommand
  cases r.presence <;> rfl

theorem holderLeft_holder {s : State} {j : Fin 4} (h : s.csu.inCommand = some j) :
    (holderLeft s)[j] = leftCommand s.csu.stations[j] := by
  unfold holderLeft
  rw [h]
  exact updAt_getFin_same ..

theorem holderLeft_other {s : State} {j : Fin 4} (h : s.csu.inCommand ≠ some j) :
    (holderLeft s)[j] = s.csu.stations[j] := by
  unfold holderLeft
  cases e : s.csu.inCommand with
  | none => rfl
  | some o => exact updAt_getFin_other _ (fun x => h (by rw [e, x])) _

section Grant
variable (i : Fin 4) (given : Bool) (s : State)

/-- The CSU after a grant. -/
theorem grant_csu : (grant i given s).csu = { s.csu with
    stations := updAt (holderLeft s) i (tookCommand i s), inCommand := some i, request := none, transfer := none,
    phase := .fresh, staleHold := none,
    dAp := if (stationOf s i).kind = .autopilot then s.csu.dStar else s.csu.dAp } := by
  unfold grant holderLeft
  cases s.csu.inCommand with
  | none =>
    simp only [cancelArm_eq, armEnded_csu, report_csu, endStale_csu, beq_iff_eq]
    rfl
  | some o =>
    simp only [cancelArm_eq, armEnded_csu, report_csu, endStale_csu, beq_iff_eq]
    rfl

/-- A grant reaches its state by telling and by ending a pending arm. -/
theorem grant_ends_arm : ∃ x, Told { s with csu := (grant i given s).csu } x ∧
    (∀ j, isRaised .commandStale j x = false) ∧ grant i given s = armEnded x := by
  have h := grant_handed i given s
  have cleared := clearAllOf_told { s with csu := (grant i given s).csu } .commandStale
  have none_left := not_isRaised_clearAllOf { s with csu := (grant i given s).csu } .commandStale
  cases e : s.csu.inCommand with
  | none =>
    exact ⟨_, cleared.trans (report_told _ _ _), fun j => (isRaised_report ..).trans (none_left j), h.alone e⟩
  | some o =>
    exact ⟨_, (cleared.trans (report_told _ _ _)).trans (report_told _ _ _),
      fun j => ((isRaised_report ..).trans (isRaised_report ..)).trans (none_left j), h.taken o e⟩

end Grant

/-- What was told, followed by the end of a pending arm. -/
theorem Told.armEnded {s t : State} (h : Told s t) :
    Told { s with cmu := { s.cmu with release := s.cmu.release.disarmed } } (armEnded t) :=
  (h.beside (·.onCmu fun c => { c with release := c.release.disarmed }) (fun _ _ _ => rfl) (fun _ => rfl)
    (fun _ => rfl)).trans (armEnded_told t)

/-- A grant to a station that asks, or while none does, on a part where that station does not hold the command already without its
presence (R11). -/
theorem grant_granted {i : Fin 4} {s : State} (given : Bool) (hr : s.csu.request = none ∨ s.csu.request = some i)
    (hi : s.csu.inCommand = some i → s.csu.stations[i].presence ≠ none) : GrantedTo i s (grant i given s) := by
  have hcsu := grant_csu i given s
  have hst : (grant i given s).csu.stations = updAt (holderLeft s) i (tookCommand i s) := by rw [hcsu]
  have hother : ∀ j : Fin 4, j ≠ i → (grant i given s).csu.stations[j] = (holderLeft s)[j] := fun j hj => by
    rw [hst]; exact updAt_getFin_other _ (Ne.symm hj) _
  obtain ⟨x, htold, hstale, hx⟩ := grant_ends_arm i given s
  refine ⟨?_, ?_, ?_, fun o ho hoi => ?_, fun j hj hh => ?_, fun j => ?_⟩
  · have := htold.armEnded
    rw [← hx] at this
    exact this
  · rw [hcsu]
  · have hself : (grant i given s).csu.stations[i] = tookCommand i s (holderLeft s)[i] := by
      rw [hst]; exact updAt_getFin_same ..
    rw [hself]
    by_cases h : s.csu.inCommand = some i
    · rw [holderLeft_holder h, leftCommand_eq, if_neg (hi h)]; rfl
    · rw [holderLeft_other h]; rfl
  · rw [hother o hoi, holderLeft_holder ho, leftCommand_eq]
  · rw [hother j hj, holderLeft_other hh, if_neg]
    rcases hr with e | e <;> rw [e]
    · exact fun x => nomatch x
    · exact fun x => hj (Option.some.inj x).symm
  · rw [hx, isRaised_armEnded]
    exact hstale j

/-! ## TAKE (R8) -/

section Take
variable {s : State} {i : Fin 4}

theorem stationTake_inCommand (h : s.csu.stations[i].state = .inCommand) : stationTake i s = report i .state s := by
  unfold stationTake; rw [h]

theorem stationTake_requesting (h : s.csu.stations[i].state = .requesting) : stationTake i s =
    if (stationOf s i).kind = .manual ∧ s.csu.phase ≠ .fresh then
      (if handleMatch s i then grant i false s else report i .mismatch (endRequest i .present s))
    else report i .requesting s := by
  unfold stationTake isStale
  rw [h]
  exact if_congr (by simp) rfl rfl

theorem stationTake_present (h : s.csu.stations[i].state = .present) : stationTake i s =
    if s.csu.request ≠ none then report i .busy s
    else if (stationOf s i).kind = .manual ∧ (s.csu.inCommand = none ∨ s.csu.phase ≠ .fresh) then
      (if handleMatch s i then grant i false s else report i .mismatch s)
    else if s.csu.inCommand = none then report i .notPermitted s
    else report i .requesting (onStation i ({ · with state := .requesting })
      (s.onCsu fun c => { c with request := some i, transfer := timerFor s Config.transferTime })) := by
  unfold stationTake isStale
  rw [h]
  exact if_congr (by simp [Option.isSome_iff_ne_none]) rfl (if_congr (by simp) rfl (if_congr (by simp) rfl rfl))

end Take

/-- Settles O14. -/
theorem takeRows : Obligations.TakeRows := by
  unfold Obligations.TakeRows
  intro s n i h hone u manual free
  have hexec : exec (.take n) s = .next (stationTake i u) := congrArg Host.Outcome.next (h.frame _)
  have hstate : u.csu.stations[i].state = s.csu.stations[i].state := heardFrom_state i s i
  have hmatch : handleMatch u i = handleMatch s i := handleMatch_heardFrom i s i
  have notHolder : s.csu.stations[i].state ≠ .inCommand → u.csu.inCommand = some i → u.csu.stations[i].presence ≠ none :=
    fun hs hi => absurd ((hone.1 i).2 hi) hs
  have at' : ∀ {a b : State}, a = b → Host.Outcome.next (φ := Fault) (ρ := Refusal) a = .next b := congrArg _
  have idle : s.csu.request = none → ¬ u.csu.request ≠ none := not_not.2
  have mayTake : manual → free → (stationOf u i).kind = .manual ∧ (u.csu.inCommand = none ∨ u.csu.phase ≠ .fresh) := And.intro
  have mayRetake : manual → s.csu.phase ≠ .fresh → (stationOf u i).kind = .manual ∧ u.csu.phase ≠ .fresh := And.intro
  rw [hexec]
  refine ⟨fun hs => ?_, fun hs hq => ?_, fun hs hq hm hf hh => ?_, fun hs hq hm hf hh => ?_, fun hs hq hm hf => ?_,
    fun hs hq hc hm => ?_, fun hs hm hp hh => ?_, fun hs hm hp hh => ?_, fun hs hm => ?_⟩
  · exact at' (stationTake_inCommand (hstate.trans hs))
  · rw [stationTake_present (hstate.trans hs), if_pos (show u.csu.request ≠ none from hq)]
  · refine ⟨_, rfl, ?_⟩
    rw [stationTake_present (hstate.trans hs), if_neg (idle hq), if_pos (mayTake hm hf), if_pos (hmatch.trans hh)]
    exact ⟨grant_granted false (.inl hq) (notHolder (by rw [hs]; decide)), grant_handed i false u⟩
  · rw [stationTake_present (hstate.trans hs), if_neg (idle hq), if_pos (mayTake hm hf),
      if_neg (by rw [hmatch, hh]; exact Bool.false_ne_true)]
  · rw [stationTake_present (hstate.trans hs), if_neg (idle hq), if_neg (fun x => hm x.1), if_pos (show u.csu.inCommand = none from hf)]
  · rw [stationTake_present (hstate.trans hs), if_neg (idle hq), if_neg ?_, if_neg (show ¬ u.csu.inCommand = none from hc)]
    · rfl
    · rintro ⟨h1, h2 | h2⟩
      · exact hc h2
      · exact h2 (hm h1)
  · refine ⟨_, rfl, ?_⟩
    rw [stationTake_requesting (hstate.trans hs), if_pos (mayRetake hm hp), if_pos (hmatch.trans hh)]
    exact ⟨grant_granted false (.inr ((hone.2 i).1 hs)) (notHolder (by rw [hs]; decide)), grant_handed i false u⟩
  · rw [stationTake_requesting (hstate.trans hs), if_pos (mayRetake hm hp), if_neg (by rw [hmatch, hh]; exact Bool.false_ne_true)]
    rfl
  · rw [stationTake_requesting (hstate.trans hs), if_neg]
    exact fun x => x.2 (hm x.1)

/-! ## GIVE (R9) -/

theorem stationGive_none {s : State} {i : Fin 4} (hi : s.csu.inCommand = some i) (hq : s.csu.request = none) :
    stationGive i s = report i .state s := by
  unfold stationGive; rw [if_pos hi, hq]

theorem stationGive_some {s : State} {i r : Fin 4} (hi : s.csu.inCommand = some i) (hq : s.csu.request = some r) :
    stationGive i s = if handleMatch s r then grant r true s else report r .mismatch (endRequest r .present s) := by
  unfold stationGive; rw [if_pos hi, hq]

/-- Settles O15. -/
theorem giveRows : Obligations.GiveRows := by
  unfold Obligations.GiveRows
  intro s n i h u
  have hexec : exec (.give n) s = .next (stationGive i u) := congrArg Host.Outcome.next (h.frame _)
  have hmatch : ∀ r, handleMatch u r = handleMatch s r := handleMatch_heardFrom i s
  rw [hexec]
  refine ⟨fun hi => ?_, fun hi hq => ?_, fun r hi hq hh => ?_, fun r hi hq hh => ?_⟩
  · exact congrArg Host.Outcome.next (if_neg hi)
  · exact congrArg Host.Outcome.next (stationGive_none (s := u) hi hq)
  · refine ⟨_, rfl, ?_⟩
    rw [stationGive_some (s := u) hi hq, if_pos ((hmatch r).trans hh)]
    refine ⟨grant_granted true (.inr hq) fun hr => ?_, grant_handed r true u⟩
    obtain rfl : i = r := Option.some.inj (hi.symm.trans hr)
    rw [show u.csu.stations[i].presence = _ from heardFrom_presence i s]
    exact Option.some_ne_none _
  · rw [stationGive_some (s := u) hi hq, if_neg (by rw [hmatch, hh]; exact Bool.false_ne_true)]
    rfl

/-! ## TAKE-FORCE (R10) -/

theorem stationForce_refused {s : State} {i : Fin 4} (hi : s.csu.inCommand ≠ some i)
    (h : (stationOf s i).force = false ∨ (stationOf s i).kind = .autopilot) :
    stationForce i s = report i .notPermitted s := by
  unfold stationForce
  rw [if_neg hi]
  refine if_neg ?_
  rcases h with e | e <;> rw [e] <;> simp

theorem stationForce_grants {s : State} {i : Fin 4} (hi : s.csu.inCommand ≠ some i)
    (hf : (stationOf s i).force = true) (hk : (stationOf s i).kind = .manual)
    (hq : s.csu.request = none ∨ s.csu.request = some i) : stationForce i s = grant i false s := by
  unfold stationForce
  rw [if_neg hi]
  refine (if_pos (by rw [hf, hk]; rfl)).trans ?_
  rcases hq with e | e <;> rw [e]
  exact if_pos rfl

theorem stationForce_supersedes {s : State} {i r : Fin 4} (hi : s.csu.inCommand ≠ some i)
    (hf : (stationOf s i).force = true) (hk : (stationOf s i).kind = .manual) (hq : s.csu.request = some r) (hr : r ≠ i) :
    stationForce i s = grant i false (report r .superseded (endRequest r .present s)) := by
  unfold stationForce
  rw [if_neg hi]
  refine (if_pos (by rw [hf, hk]; rfl)).trans ?_
  rw [hq]
  exact if_neg hr

/-- The end of another station's request before a grant is part of what the grant does (R10, R11). -/
theorem GrantedTo.after_superseded {i r : Fin 4} {s t : State} (hq : s.csu.request = some r) (hr : r ≠ i)
    (h : GrantedTo i (report r .superseded (endRequest r .present s)) t) : GrantedTo i s t := by
  have hv := report_told (endRequest r .present s) r .superseded
  have hcsu : (report r .superseded (endRequest r .present s)).csu = (endRequest r .present s).csu := report_csu ..
  have hsame : SameButStatus (endRequest r .present s) (report r .superseded (endRequest r .present s)) := report_same ..
  have hget : ∀ j, j ≠ r → (endRequest r .present s).csu.stations[j] = s.csu.stations[j] := fun j hj =>
    updAt_getFin_other _ (Ne.symm hj) _
  have hgot : (endRequest r .present s).csu.stations[r] = { s.csu.stations[r] with state := .present } := updAt_getFin_same ..
  have hfresh : helmFresh (report r .superseded (endRequest r .present s)) i = helmFresh s i := by
    unfold helmFresh
    rw [hcsu, hget i (Ne.symm hr), hsame]
    rfl
  obtain ⟨told, unit, granted, before, others, notStale⟩ := h
  refine ⟨?_, ?_, ?_, fun o ho hoi => ?_, fun j hj hh => ?_, notStale⟩
  · refine Told.trans ?_ told
    have := hv.beside (fun u => { u with csu := t.csu, cmu := { u.cmu with release := u.cmu.release.disarmed } })
      (fun _ _ _ => rfl) (fun _ => rfl) (fun _ => rfl)
    exact this
  · rw [unit, hsame]; rfl
  · rw [granted, hcsu, hget i (Ne.symm hr), hfresh, hsame]; rfl
  · have := before o (by rw [hcsu]; exact ho) hoi
    rw [this, hcsu]
    by_cases hor : o = r
    · subst hor
      rw [hgot]
    · rw [hget o hor]
  · have := others j hj (by rw [hcsu]; exact hh)
    rw [this, hcsu, if_neg (fun x => nomatch x), hq]
    by_cases hjr : j = r
    · subst hjr
      rw [if_pos rfl, hgot]
    · rw [if_neg (fun x => hjr (Option.some.inj x).symm), hget j hjr]

/-- Settles O16. -/
theorem takeForceRows : Obligations.TakeForceRows := by
  unfold Obligations.TakeForceRows
  intro s n i h u
  have hexec : exec (.takeForce n) s = .next (stationForce i u) := congrArg Host.Outcome.next (h.frame _)
  rw [hexec]
  refine ⟨fun hi => ?_, fun hi hk => ?_, fun hi hf hk => ?_⟩
  · exact congrArg Host.Outcome.next (if_pos hi)
  · exact congrArg Host.Outcome.next (stationForce_refused (s := u) hi hk)
  · refine ⟨_, rfl, ?_⟩
    by_cases hq : s.csu.request = none ∨ s.csu.request = some i
    · rw [stationForce_grants (s := u) hi hf hk hq]
      refine ⟨grant_granted false hq fun e => absurd e hi, fun _ => grant_handed i false u, fun r hr hri => ?_⟩
      rcases hq with e | e
      · cases hr.symm.trans e
      · exact absurd (Option.some.inj (hr.symm.trans e)) hri
    · push Not at hq
      obtain ⟨r, hr⟩ := Option.ne_none_iff_exists'.1 hq.1
      have hri : r ≠ i := fun e => hq.2 (by rw [hr, e])
      rw [stationForce_supersedes (s := u) hi hf hk hr hri]
      refine ⟨GrantedTo.after_superseded (s := u) hr hri (grant_granted false (.inl ?_) fun e => ?_), fun e => ?_,
        fun r' hr' _ => ?_⟩
      · rw [report_csu]; rfl
      · rw [report_csu] at e
        exact absurd e hi
      · exact absurd (e.imp (fun x => hq.1 x) fun x => hq.2 x) (by simp)
      · obtain rfl : r = r' := Option.some.inj (hr.symm.trans hr')
        exact grant_handed i false _

end Sys2Proof.Machine

/-! # Joins and all-stop (R12, R15 to R19, R56, R57, R144) -/

namespace Sys2Proof.Machine

/-! ## The X engines when a lead leaves JOINED (R56) -/

/-- Beginning at `v`, ENGINE-FAULT cleared for one X engine whose record in `s` is configured and FAULTED. -/
def faultCleared (s : State) (e : Fin 6) (v : State) : State :=
  if (engineEntry s e).configured && s.piu.engines[e].avail == .faulted then clearAlarm .engineFault (.engine e) v else v

/-- The record of one X engine after the lead has left. -/
def xLeft (s : State) (e : Fin 6) (r : EngineRec) : EngineRec :=
  if (engineEntry s e).configured then madeLost s.now (engineOf s e).idle r else r

theorem faultsCleared_eq (s u : State) : faultsCleared s u = faultCleared s 5 (faultCleared s 4 u) := rfl

theorem faultCleared_same (s : State) (e : Fin 6) (v : State) : SameButStatus v (faultCleared s e v) := by
  unfold faultCleared
  split
  · exact clearAlarm_same ..
  · rfl

theorem faultCleared_onPiu (s : State) (e : Fin 6) (v : State) (f : Piu → Piu) :
    faultCleared s e (v.onPiu f) = (faultCleared s e v).onPiu f := by
  unfold faultCleared
  split
  · exact clearAlarm_onPiu ..
  · rfl

theorem gearMachine_neutral (e : EngineEntry) (r : EngineRec) (now : Nat) :
    gearMachine e r .neutral now = (.neutral, if r.gear = .neutral then r.neutralSince else now) := by
  unfold gearMachine
  cases r.gear <;> rfl

theorem neutralWritten_eq (e : EngineEntry) (now : Nat) (r : EngineRec) : neutralWritten e now r = madeNeutral now e.idle r := by
  unfold neutralWritten slotWritten madeNeutral
  rw [gearMachine_neutral]

theorem setAvail_lost (e : Fin 6) (s : State) :
    setAvail e .lost 0 s = onEngine e (madeLost s.now (engineOf s e).idle) s := by
  have h : ∀ r : EngineRec, (if r.avail = .available && EngineAvail.lost != .available then
      neutralWritten (engineOf s e) s.now { r with avail := .lost, run := 0 } else { r with avail := .lost, run := 0 }) =
        madeLost s.now (engineOf s e).idle r := fun r => by
    rw [neutralWritten_eq]
    unfold madeLost
    by_cases a : r.avail = .available
    · rw [if_pos a, if_pos (by rw [a]; rfl)]; rfl
    · rw [if_neg a, if_neg (by simp [a])]
  exact congrArg (onEngine e · s) (funext h)

theorem loseX_eq (e : Fin 6) (s : State) : loseX e s = onEngine e (xLeft s e) (faultCleared s e s) := by
  unfold loseX faultCleared xLeft
  by_cases hc : (engineEntry s e).configured = true
  · by_cases hf : s.piu.engines[e].avail = .faulted
    · simp only [hc, hf, if_true, setAvail_lost, Bool.true_and, beq_self_eq_true]
      rw [clearAlarm_now, show engineOf (clearAlarm .engineFault (.engine e) s) e = engineOf s e by rw [clearAlarm_same]; rfl]
    · simp only [hc, hf, if_true, if_false, setAvail_lost, Bool.true_and, beq_iff_eq]
  · simp only [hc, Bool.false_and, if_false, Bool.false_eq_true]
    exact (congrArg (fun v => s.onPiu fun p => { p with engines := v }) (updAt_eq_self (f := id) s.piu.engines rfl)).symm

section Congr
variable {s a : State} {e : Fin 6}

theorem engineEntry_congr (ht : a.tau = s.tau) : engineEntry a e = engineEntry s e := by
  unfold engineEntry allocOf; rw [ht]

theorem faultCleared_congr (ht : a.tau = s.tau) (he : a.piu.engines[e] = s.piu.engines[e]) (v : State) :
    faultCleared a e v = faultCleared s e v := by
  unfold faultCleared; rw [engineEntry_congr ht, he]

theorem xLeft_congr (ht : a.tau = s.tau) (hn : a.now = s.now) (he : a.piu.engines[e] = s.piu.engines[e]) :
    xLeft a e = xLeft s e := by
  funext r
  unfold xLeft engineOf
  rw [engineEntry_congr ht, hn, he]

end Congr

/-- The engine records with a change of X1 and X2. -/
def onX (f : Fin 6 → EngineRec → EngineRec) (v : Vector EngineRec 6) : Vector EngineRec 6 := updAt (updAt v 4 (f 4)) 5 (f 5)

theorem onX_below {f : Fin 6 → EngineRec → EngineRec} {v : Vector EngineRec 6} {e : Fin 6} (h : e.val < 4) :
    (onX f v)[e] = v[e] :=
  (updAt_getFin_other _ (by omega) _).trans (updAt_getFin_other _ (by omega) _)

theorem onX_at {f : Fin 6 → EngineRec → EngineRec} {v : Vector EngineRec 6} {e : Fin 6} (h : 4 ≤ e.val) :
    (onX f v)[e] = f e v[e] := by
  obtain rfl | rfl : e = 4 ∨ e = 5 := by omega
  · exact (updAt_getFin_other _ (by decide) _).trans (updAt_getFin_same ..)
  · exact (updAt_getFin_same ..).trans (congrArg _ (updAt_getFin_other _ (by decide) _))

/-- The engine records once the lead has left. -/
def xEnginesLeft (s : State) : Vector EngineRec 6 := onX (xLeft s) s.piu.engines

theorem loseXEngines_eq (s : State) : loseXEngines s =
    { faultsCleared s s with piu := { s.piu with engines := xEnginesLeft s } } := by
  have h4 := loseX_eq 4 s
  have hsame := faultCleared_same s 4 s
  have ht : (loseX 4 s).tau = s.tau := by rw [h4, hsame]; rfl
  have hn : (loseX 4 s).now = s.now := by rw [h4, hsame]; rfl
  have hp : (loseX 4 s).piu = { s.piu with engines := updAt s.piu.engines 4 (xLeft s 4) } := by rw [h4, hsame]; rfl
  have he : (loseX 4 s).piu.engines[(5 : Fin 6)] = s.piu.engines[(5 : Fin 6)] := by
    rw [hp]; exact updAt_getFin_other _ (by decide) _
  have h5 : faultCleared s 5 (loseX 4 s) = { faultsCleared s s with piu := (loseX 4 s).piu } := by
    rw [hp, h4]
    refine (faultCleared_onPiu s 5 _ _).trans ?_
    rw [faultsCleared_eq, faultCleared_same s 5 (faultCleared s 4 s), hsame]
    rfl
  show loseX 5 (loseX 4 s) = _
  rw [loseX_eq 5, xLeft_congr ht hn he, faultCleared_congr ht he, h5, hp]
  rfl

theorem xEnginesLeft_other {s : State} {e : Fin 6} (h : e.val < 4 ∨ (engineEntry s e).configured = false) :
    (xEnginesLeft s)[e] = s.piu.engines[e] := by
  rcases Nat.lt_or_ge e.val 4 with he | he
  · exact onX_below he
  · have hc := h.resolve_left (by omega)
    exact (onX_at he).trans (if_neg (by rw [hc]; exact Bool.false_ne_true))

theorem xEnginesLeft_x {s : State} {e : Fin 6} (h : 4 ≤ e.val) (hc : (engineEntry s e).configured = true) :
    (xEnginesLeft s)[e] = madeLost s.now (engineOf s e).idle s.piu.engines[e] :=
  (onX_at h).trans (if_pos hc)

/-! ## The end of a join (R19) -/

/-- The CSU back in LOCAL from a join. -/
def leftJoin (s : State) : State :=
  s.onCsu fun c => { c with join := .localMode, setpointLoss := none, hold := none }

/-- What the end of a join tells. -/
def unjoinedTold (d : Byte) (s : State) : State :=
  reportStatus s.csu.inCommand .unjoined d (raiseAlarm .helperUnjoined .none s)

theorem leaveJoined_eq (d : Byte) (s : State) : leaveJoined d s =
    unjoinedTold d (match s.role with | .lead => loseXEngines (leftJoin s) | .helper => leftJoin s) := rfl

theorem leaveJoined_helper {s : State} (h : s.role = .helper) (d : Byte) : leaveJoined d s =
    reportStatus s.csu.inCommand .unjoined d (raiseAlarm .helperUnjoined .none
      { s with csu := { s.csu with join := .localMode, setpointLoss := none, hold := none } }) := by
  have e : ∀ r : Role, r = .helper →
      unjoinedTold d (match r with | .lead => loseXEngines (leftJoin s) | .helper => leftJoin s) = unjoinedTold d (leftJoin s) := by
    rintro _ rfl; rfl
  exact e _ h

theorem isRaised_faultCleared (s v : State) (e i : Fin 6) :
    isRaised .engineLost (.engine i) (faultCleared s e v) = isRaised .engineLost (.engine i) v := by
  unfold faultCleared
  split
  · rw [Bool.eq_iff_iff, isRaised_clearAlarm]; simp
  · rfl

theorem loseXEngines_beside {s u : State} (ht : u.tau = s.tau) (hn : u.now = s.now) (hp : u.piu = s.piu) :
    loseXEngines u = faultsCleared s { u with piu := { s.piu with engines := xEnginesLeft s } } := by
  have he : ∀ i : Fin 6, u.piu.engines[i] = s.piu.engines[i] := fun i => by rw [hp]
  have hfault : ∀ v, faultsCleared u v = faultsCleared s v := fun v => by
    rw [faultsCleared_eq, faultsCleared_eq, faultCleared_congr ht (he _), faultCleared_congr ht (he _)]
  have hengines : xEnginesLeft u = xEnginesLeft s := by
    unfold xEnginesLeft onX; rw [xLeft_congr ht hn (he _), xLeft_congr ht hn (he _), hp]
  have hsame : SameButStatus u (faultsCleared s u) := (faultCleared_same s 4 u).trans (faultCleared_same s 5 _)
  have away : faultsCleared s (u.onPiu fun p => { p with engines := xEnginesLeft s }) =
      (faultsCleared s u).onPiu fun p => { p with engines := xEnginesLeft s } := by
    rw [faultsCleared_eq, faultCleared_onPiu, faultCleared_onPiu, faultsCleared_eq]
  have hpiu : (faultsCleared s u).piu = u.piu := by rw [hsame]
  rw [loseXEngines_eq, hfault, hengines, ← hp]
  refine Eq.trans ?_ away.symm
  rw [State.onPiu, hpiu]

/-- The state of a lead that has left JOINED, written out. -/
theorem leaveJoined_lead {s : State} (h : s.role = .lead) (d : Byte) : leaveJoined d s =
    reportStatus s.csu.inCommand .unjoined d (raiseAlarm .helperUnjoined .none (faultsCleared s
      { s with csu := { s.csu with join := .localMode, setpointLoss := none, hold := none },
               piu := { s.piu with engines := xEnginesLeft s } })) := by
  have e : ∀ r : Role, r = .lead → unjoinedTold d (match r with | .lead => loseXEngines (leftJoin s) | .helper => leftJoin s) =
      unjoinedTold d (loseXEngines (leftJoin s)) := by
    rintro _ rfl; rfl
  refine (leaveJoined_eq d s).trans ((e _ h).trans ?_)
  rw [loseXEngines_beside (s := s) (u := leftJoin s) rfl rfl rfl, unjoinedTold]
  congr 1
  rw [faultsCleared_eq, faultCleared_same, faultCleared_same]
  rfl

theorem leadLeft {s : State} (h : s.role = .lead) (d : Byte) : LeadLeft d s (leaveJoined d s) := by
  have hw := leaveJoined_lead h d
  have he : (leaveJoined d s).piu.engines = xEnginesLeft s := by
    rw [hw, reportStatus_piu, raiseAlarm_piu, faultsCleared_eq, faultCleared_same, faultCleared_same]
  refine ⟨?_, ?_, fun e h => ?_, fun e h hc => ?_, fun e => ?_⟩
  · rw [he]; exact hw
  · rw [hw, isRaised_reportStatus, isRaised_raised]
  · rw [he]; exact xEnginesLeft_other h
  · rw [he]; exact xEnginesLeft_x h hc
  · rw [hw, isRaised_reportStatus, Bool.eq_iff_iff, isRaised_raiseAlarm, faultsCleared_eq, isRaised_faultCleared,
      isRaised_faultCleared]
    simp [isRaised_iff]

/-! ## A join frame beside the end of a join -/

theorem faultCleared_onHlc (s : State) (e : Fin 6) (v : State) (f : Hlc → Hlc) :
    faultCleared s e (v.onHlc f) = (faultCleared s e v).onHlc f := by
  unfold faultCleared
  split
  · exact clearAlarm_onHlc ..
  · rfl

theorem leaveJoined_onHlc {s : State} (h : s.role = .lead) (d : Byte) (f : Hlc → Hlc) :
    leaveJoined d (s.onHlc f) = (leaveJoined d s).onHlc f := by
  have faults : ∀ v, faultsCleared (s.onHlc f) (v.onHlc f) = (faultsCleared s v).onHlc f := fun v =>
    (congrArg (faultCleared s 5) (faultCleared_onHlc s 4 v f)).trans (faultCleared_onHlc s 5 _ f)
  rw [leaveJoined_lead h, leaveJoined_lead (s := s.onHlc f) h, ← reportStatus_onHlc, ← raiseAlarm_onHlc, ← faults]
  rfl

/-- A lead that refuses an offer while JOINED leaves the join as if the frame had gone before. -/
theorem sendJoin_leaveJoined {s : State} (h : s.role = .lead) (d : Byte) (f : Frame) :
    sendJoin f (leaveJoined d s) = leaveJoined d { s with hlc := (handLink f .csu s).1.hlc } := by
  have hh : (leaveJoined d s).hlc = s.hlc := by
    rw [leaveJoined_lead h, reportStatus_hlc, raiseAlarm_hlc, faultsCleared_eq, faultCleared_same, faultCleared_same]
  have hf : (leaveJoined d s).fsw = s.fsw := by
    rw [leaveJoined_lead h, reportStatus_fsw, raiseAlarm_fsw, faultsCleared_eq, faultCleared_same, faultCleared_same]
  rw [sendJoin_of_same hh hf]
  exact (leaveJoined_onHlc h d fun _ => (handLink f .csu s).1.hlc).symm

/-! ## The seed of the X engines (R57) -/

/-- The record of one X engine after the seed. -/
def xSeeded (s : State) (e : Fin 6) (r : EngineRec) : EngineRec :=
  if (engineEntry s e).configured then
    match r.feedback with
    | none => madeNeutral s.now (engineEntry s e).idle r
    | some fb =>
      if under s fb.time Config.feedbackTime && !fb.shutdown then
        slotWritten { r with avail := .available, run := 3 }
          (fb.gear, if fb.gear = .neutral then s.now else r.neutralSince)
          (underCap (engineEntry s e) r fb.gear (rpmInGear (engineEntry s e) fb.gear fb.rpm))
      else madeNeutral s.now (engineEntry s e).idle r
  else r

theorem seedX_eq (e : Fin 6) (s : State) : seedX e s = onEngine e (xSeeded s e) s := by
  unfold seedX xSeeded
  by_cases hc : (engineEntry s e).configured = true
  · simp only [hc, if_true, neutralWritten_eq] <;> rfl
  · simp only [hc, Bool.false_eq_true, if_false]
    exact (congrArg (fun v => s.onPiu fun p => { p with engines := v }) (updAt_eq_self (f := id) s.piu.engines rfl)).symm

theorem seedXEngines_eq (s : State) :
    seedXEngines s = { s with piu := { s.piu with engines := onX (xSeeded s) s.piu.engines } } := by
  unfold seedXEngines
  rw [seedX_eq 4, seedX_eq 5]
  rfl

theorem xSeeded_fresh {s : State} {e : Fin 6} {r : EngineRec} {fb : EngineFeedback} (hc : (engineEntry s e).configured = true)
    (hf : r.feedback = some fb) (hage : s.now < fb.time + 600 * Config.usPerMs) (hs : fb.shutdown = false) :
    let x := engineEntry s e
    let top := match fb.gear with | .ahead => x.maxAhead | .astern => x.maxAstern | .neutral => x.idle
    let within := max x.idle (min fb.rpm top)
    xSeeded s e r = { r with
      avail := .available, run := 3, gear := fb.gear, filled := true, fresh := true,
      rpm := r.cap.elim within fun k => min within (x.idle + (top - x.idle) * k / 1000),
      neutralSince := if fb.gear = .neutral then s.now else r.neutralSince } := by
  intro x top within
  have hu : (under s fb.time Config.feedbackTime && !fb.shutdown) = true := by
    rw [hs, Bool.not_false, Bool.and_true]; exact decide_eq_true hage
  have hrpm : underCap x r fb.gear (rpmInGear x fb.gear fb.rpm) =
      r.cap.elim within fun k => min within (x.idle + (top - x.idle) * k / 1000) := by
    have htop : maxOf x fb.gear = top := rfl
    unfold underCap rpmInGear limitNat capBound
    rw [htop]
    cases r.cap <;> rfl
  unfold xSeeded
  rw [if_pos hc, hf]
  exact (if_pos hu).trans (by rw [hrpm]; rfl)

theorem xSeeded_stale {s : State} {e : Fin 6} {r : EngineRec} (hc : (engineEntry s e).configured = true)
    (h : ∀ fb, r.feedback = some fb → fb.time + 600 * Config.usPerMs ≤ s.now ∨ fb.shutdown = true) :
    xSeeded s e r = madeNeutral s.now (engineEntry s e).idle r := by
  unfold xSeeded
  rw [if_pos hc]
  split
  · rfl
  · rename_i fb hf
    refine if_neg ?_
    rcases h fb hf with hage | hs
    · have hu : under s fb.time Config.feedbackTime = false := decide_eq_false (Nat.not_lt.2 hage)
      simp [hu]
    · simp [hs]

/-! ## Joins (R15 to R19) -/

theorem takeOffer_helper {s : State} (h : s.role = .helper) : takeOffer s = countIgnored s := by
  unfold takeOffer; rw [h]

theorem takeOffer_accepted {s : State} (h : s.role = .lead) (ho : offerRefusal s = none) :
    takeOffer s =
      let u := clearAlarm .helperUnjoined .none ((sendJoin joinAcceptFrame (seedXEngines s)).onCsu ({ · with join := .joined }))
      if isJoined s then u else reportStatus u.csu.inCommand .joined 255 u := by
  unfold takeOffer; rw [h, ho]

theorem takeOffer_refused {s : State} (h : s.role = .lead) {r : UnjoinReason} (ho : offerRefusal s = some r) :
    takeOffer s = sendJoin (unjoinFrame r) (if isJoined s then leaveJoined (reasonByte r) s else s) := by
  unfold takeOffer; rw [h, ho]

theorem isJoined_iff (s : State) : isJoined s = true ↔ s.csu.join = .joined ∨ s.csu.join = .holding := by
  simp [isJoined]

theorem anyXConfigured_iff (s : State) : anyXConfigured s = true ↔
    (engineEntry s 4).configured = true ∨ (engineEntry s 5).configured = true ∨ (rudderOf s 2).configured = true := by
  simp [anyXConfigured, or_assoc]

theorem offerRefusal_none {s : State} (hc : s.csu.inCommand ≠ none) (hx : anyXConfigured s = true)
    (h7 : classOpen s 7 = true) (h2 : classOpen s 2 = true) : offerRefusal s = none := by
  unfold offerRefusal
  rw [if_neg (by simpa using hc), if_neg (by simp [hx]), if_pos (by rw [h7, h2]; rfl)]

theorem takeUnjoin_offering {s : State} (h : s.csu.join = .offering) (r : Byte) :
    takeUnjoin r s = reportStatus s.csu.inCommand .unjoined r (endOffer s) := by
  unfold takeUnjoin; rw [h]

theorem takeUnjoin_localMode {s : State} (h : s.csu.join = .localMode) (r : Byte) : takeUnjoin r s = countIgnored s := by
  unfold takeUnjoin; rw [h]

theorem takeUnjoin_joined {s : State} (h : s.csu.join = .joined ∨ s.csu.join = .holding) (r : Byte) :
    takeUnjoin r s = leaveJoined r s := by
  unfold takeUnjoin
  rcases h with h | h <;> rw [h]

/-- TAKE-BACK, JOIN-GIVE and the end of a hold send a frame from a state whose link and switch are as before. -/
theorem leaveJoined_sent {s u : State} (h : u.role = .helper) (hh : u.hlc = s.hlc) (hf : u.fsw = s.fsw) (d : Byte) (f : Frame) :
    leaveJoined d (sendJoin f u) = reportStatus u.csu.inCommand .unjoined d (raiseAlarm .helperUnjoined .none
      { u with hlc := (handLink f .csu s).1.hlc,
               csu := { u.csu with join := .localMode, setpointLoss := none, hold := none } }) := by
  rw [sendJoin_of_same hh hf, leaveJoined_helper (s := { u with hlc := (handLink f .csu s).1.hlc }) h]

section JoinGive
variable {s : State} {i : Fin 4}

theorem stationJoinGive_lead (h : s.role = .lead) : stationJoinGive i s = report i .notPermitted s := by
  unfold stationJoinGive; rw [h]

theorem stationJoinGive_helper (h : s.role = .helper) : stationJoinGive i s =
    if s.csu.inCommand = some i then
      if s.csu.join = .localMode ∧ s.csu.allStop = none ∧ s.hlc.state = .up ∧ classOpen s 7 = true then
        report i .joinPending ((sendJoin joinOfferFrame s).onCsu fun c =>
          { c with join := .offering, joinAnswer := timerFor s Config.joinAnswerTime })
      else report i .state s
    else report i .notInCommand s := by
  unfold stationJoinGive; rw [h]

theorem stationTakeBack_lead (h : s.role = .lead) : stationTakeBack i s = report i .notPermitted s := by
  unfold stationTakeBack; rw [h]

theorem stationTakeBack_helper (h : s.role = .helper) : stationTakeBack i s =
    if s.csu.inCommand = some i then
      if isJoined s then leaveJoined (reasonByte .takeBack) (sendJoin (unjoinFrame .takeBack) s) else report i .state s
    else report i .notInCommand s := by
  unfold stationTakeBack; rw [h]

end JoinGive

/-- Settles O21. -/
theorem joinEnds : Obligations.JoinEnds := by
  unfold Obligations.JoinEnds
  have next : ∀ {a b : State}, a = b → Host.Outcome.next (φ := Fault) (ρ := Refusal) a = .next b := congrArg _
  refine ⟨⟨?_, fun s d r hr => ?_⟩, fun s r hr hl hj => ?_⟩
  · intro s n i h u
    have hexec : exec (.takeBack n) s = .next (stationTakeBack i u) := next (h.frame _)
    rw [hexec]
    refine ⟨fun hl => ?_, fun hl hi => ?_, fun hl hi hj => ?_, fun hl hi hj => ?_⟩
    · exact next (stationTakeBack_lead (s := u) hl)
    · exact next ((stationTakeBack_helper (s := u) hl).trans (if_neg hi))
    · have hn : isJoined u = false := by
        rw [Bool.eq_false_iff, ne_eq, isJoined_iff]
        show ¬ (s.csu.join = .joined ∨ s.csu.join = .holding)
        rcases hj with e | e <;> rw [e] <;> decide
      refine next ((stationTakeBack_helper (s := u) hl).trans ((if_pos hi).trans (if_neg ?_)))
      rw [hn]; exact Bool.false_ne_true
    · refine next ((stationTakeBack_helper (s := u) hl).trans ((if_pos hi).trans ((if_pos ?_).trans ?_)))
      · exact (isJoined_iff u).2 hj
      · rw [leaveJoined_sent (s := s) (u := u) hl rfl rfl, show u.csu.inCommand = some i from hi]
        rfl
  · refine ⟨fun hj => ?_, fun hj => ?_, fun hl hj => ?_, fun ht => ?_, fun hl ht => ?_⟩
    · exact next ((whenRunning_run hr _).trans (takeUnjoin_localMode hj r))
    · exact next ((whenRunning_run hr _).trans (takeUnjoin_offering hj r))
    · exact next ((whenRunning_run hr _).trans ((takeUnjoin_joined hj r).trans (leaveJoined_helper hl r)))
    · exact next (expiry_runs (timer := fun s => s.csu.setpointLoss) hr ht)
    · refine next ((expiry_runs (timer := fun s => s.csu.hold) hr ht).trans ?_)
      exact leaveJoined_sent (s := s) (u := s.upTo d) hl rfl rfl _ _
  · exact ⟨_, next ((whenRunning_run hr _).trans (takeUnjoin_joined hj r)), leadLeft hl r⟩

/-- The first reason that fails an offer (R16). -/
theorem offerRefusal_some {s : State} {x : UnjoinReason} (h : (x = .noCommand ∧ s.csu.inCommand = none) ∨
    (x = .noXSlot ∧ s.csu.inCommand ≠ none ∧ ¬anyXConfigured s = true) ∨
    (x = .queueClosed ∧ s.csu.inCommand ≠ none ∧ anyXConfigured s = true ∧ ¬(classOpen s 7 = true ∧ classOpen s 2 = true))) :
    offerRefusal s = some x := by
  unfold offerRefusal
  rcases h with ⟨rfl, hc⟩ | ⟨rfl, hc, hx⟩ | ⟨rfl, hc, hx, hq⟩
  · rw [if_pos (by simpa using hc)]
  · rw [if_neg (by simpa using hc), if_pos (by simpa using hx)]
  · rw [if_neg (by simpa using hc), if_neg (by simp [hx]), if_neg]
    exact fun e => hq ((Bool.and_eq_true _ _).mp e)

/-- The state of a lead that takes an offer, before JOINED is reported. -/
def offerTaken (s : State) : State := clearAlarm .helperUnjoined .none
  { s with csu := { s.csu with join := .joined }, piu := { s.piu with engines := onX (xSeeded s) s.piu.engines },
           hlc := (handLink joinAcceptFrame .csu s).1.hlc }

theorem takeOffer_taken {s : State} (h : s.role = .lead) (ho : offerRefusal s = none) : takeOffer s =
    if isJoined s then offerTaken s else reportStatus s.csu.inCommand .joined 255 (offerTaken s) := by
  have e : (sendJoin joinAcceptFrame (seedXEngines s)).onCsu ({ · with join := .joined }) =
      { s with csu := { s.csu with join := .joined }, piu := { s.piu with engines := onX (xSeeded s) s.piu.engines },
               hlc := (handLink joinAcceptFrame .csu s).1.hlc } := by
    rw [sendJoin_of_same (s := s) (t := seedXEngines s) (by rw [seedXEngines_eq]) (by rw [seedXEngines_eq]), seedXEngines_eq]
    rfl
  refine (takeOffer_accepted h ho).trans ?_
  rw [e]
  dsimp only
  rw [clearAlarm_csu]
  rfl

theorem offerTaken_engines (s : State) : (offerTaken s).piu.engines = onX (xSeeded s) s.piu.engines := by
  unfold offerTaken; rw [clearAlarm_piu]

theorem takeAccept_offering {s : State} (hr : s.role = .helper) (hj : s.csu.join = .offering) :
    takeAccept s = reportStatus s.csu.inCommand .joined 255 (clearAlarm .helperUnjoined .none
      { s with csu := { s.csu with join := .joined, joinAnswer := none,
                                   setpointLoss := some (s.now + 300 * Config.usPerMs) } }) :=
  if_pos ⟨hr, hj⟩

/-- Settles O20. -/
theorem joinOfferedAndAnswered : Obligations.JoinOfferedAndAnswered := by
  unfold Obligations.JoinOfferedAndAnswered
  have next : ∀ {a b : State}, a = b → Host.Outcome.next (φ := Fault) (ρ := Refusal) a = .next b := congrArg _
  refine ⟨⟨?_, fun s d hr ht => ?_⟩, ?_⟩
  · intro s n i h u open7
    have hexec : exec (.joinGive n) s = .next (stationJoinGive i u) := next (h.frame _)
    have hopen : classOpen u 7 = true ↔ open7 := decide_eq_true_iff
    rw [hexec]
    refine ⟨fun hl => ?_, fun hl hi => ?_, fun hl hi hno => ?_, fun hl hi hj ha hs ho => ?_⟩
    · exact next (stationJoinGive_lead (s := u) hl)
    · exact next ((stationJoinGive_helper (s := u) hl).trans (if_neg hi))
    · refine next ((stationJoinGive_helper (s := u) hl).trans ((if_pos hi).trans (if_neg ?_)))
      rw [hopen]
      rintro ⟨h1, h2, h3, h4⟩
      rcases hno with e | e | e | e
      · exact e h1
      · exact e h2
      · exact e h3
      · exact e h4
    · refine next ((stationJoinGive_helper (s := u) hl).trans ((if_pos hi).trans ((if_pos ⟨hj, ha, hs, hopen.2 ho⟩).trans ?_)))
      rw [sendJoin_of_same (s := s) (t := u) rfl rfl]
      rfl
  · refine next ((expiry_runs (timer := fun s => s.csu.joinAnswer) hr ht).trans ?_)
    dsimp only
    rw [sendJoin_of_same (s := s) (t := endOffer (s.upTo d)) rfl rfl]
    rfl
  · intro s hr ignored anyX open7 open2 joined
    have hany : anyXConfigured s = true ↔ anyX := anyXConfigured_iff s
    have h7 : classOpen s 7 = true ↔ open7 := decide_eq_true_iff
    have h2 : classOpen s 2 = true ↔ open2 := decide_eq_true_iff
    have hjoined : isJoined s = true ↔ joined := isJoined_iff s
    have hoffer : exec .joinOffer s = .next (takeOffer s) := next (whenRunning_run hr _)
    have haccept : exec .joinAccept s = .next (takeAccept s) := next (whenRunning_run hr _)
    rw [hoffer, haccept]
    refine ⟨fun hl => next (takeOffer_helper hl), fun hl => next (if_neg ?_), fun _ hj => next (if_neg fun x => hj x.2),
      fun hl hj => next (takeAccept_offering hl hj), fun hl x hx => ?_, fun hl hc hx ho7 ho2 => ?_⟩
    · rintro ⟨x, -⟩
      rw [hl] at x
      exact nomatch x
    · rw [← hany, ← h7, ← h2] at hx
      have ht := takeOffer_refused hl (offerRefusal_some hx)
      refine ⟨fun hj => ?_, fun hj => ⟨_, rfl, ?_⟩⟩
      · refine next (ht.trans (congrArg _ (if_neg ?_)))
        rw [isJoined_iff, hj]
        decide
      · rw [ht, if_pos (hjoined.2 hj), sendJoin_leaveJoined hl]
        exact leadLeft (s := { s with hlc := (handLink (unjoinFrame x) .csu s).1.hlc }) hl _
    · have ht := takeOffer_taken hl (offerRefusal_none hc (hany.2 hx) (h7.2 ho7) (h2.2 ho2))
      have hengines : (takeOffer s).piu.engines = onX (xSeeded s) s.piu.engines := by
        rw [ht]
        split
        · exact offerTaken_engines s
        · rw [reportStatus_piu]; exact offerTaken_engines s
      refine ⟨_, rfl, ?_, ?_, fun e he => ?_, fun e he hconf => ⟨fun fb hfb hage hsd => ?_, fun hstale => ?_⟩⟩
      · rw [ht]
        split
        · exact not_isRaised_cleared ..
        · exact (isRaised_reportStatus ..).trans (not_isRaised_cleared ..)
      · dsimp only
        rw [hengines, ht]
        exact if_congr hjoined rfl rfl
      · rw [hengines]
        rcases Nat.lt_or_ge e.val 4 with h4 | h4
        · exact onX_below h4
        · refine (onX_at h4).trans (if_neg ?_)
          rw [he.resolve_left (by omega)]
          exact Bool.false_ne_true
      · rw [hengines]
        exact (onX_at he).trans (xSeeded_fresh hconf hfb hage hsd)
      · rw [hengines]
        exact (onX_at he).trans (xSeeded_stale hconf hstale)

/-! ## All-stop (R12, R144) -/

/-- All-stop raised for a cause, its frame told and a pending arm ended, before a join ends. -/
def stopTold (cause : StopCause) (s : State) : State :=
  reportStatus (stopStation cause) .allStopOn 255
    (armEnded { s with csu := { s.csu with allStop := some cause, dStar := 0, tStar := 0, dAp := 0 } })

theorem raiseAllStop_again {s : State} (h : s.csu.allStop ≠ none) (c : StopCause) : raiseAllStop c s = s := by
  unfold raiseAllStop
  split
  · rfl
  · rename_i e; exact absurd e h

theorem raiseAllStop_first {s : State} (h : s.csu.allStop = none) (c : StopCause) :
    raiseAllStop c s = stopJoin (stopTold c s) := by
  unfold raiseAllStop stopTold
  rw [h, ← cancelArm_eq]
  rfl

section StopTold
variable (c : StopCause) (s : State)

theorem stopTold_told : Told
    { s with csu := { s.csu with allStop := some c, dStar := 0, tStar := 0, dAp := 0 },
             cmu := { s.cmu with release := s.cmu.release.disarmed } } (stopTold c s) :=
  (armEnded_told { s with csu := { s.csu with allStop := some c, dStar := 0, tStar := 0, dAp := 0 } }).trans
    (reportStatus_told _ _ _ _)

theorem stopTold_csu : (stopTold c s).csu = { s.csu with allStop := some c, dStar := 0, tStar := 0, dAp := 0 } := by
  unfold stopTold; rw [reportStatus_csu, armEnded_csu]

theorem stopTold_hlc : (stopTold c s).hlc = s.hlc := by unfold stopTold; rw [reportStatus_hlc, armEnded_hlc]
theorem stopTold_fsw : (stopTold c s).fsw = s.fsw := by unfold stopTold; rw [reportStatus_fsw, armEnded_fsw]
theorem stopTold_role : (stopTold c s).role = s.role := by unfold stopTold; rw [reportStatus_role, armEnded_role]

end StopTold

theorem stopJoin_none {s : State} (h : s.role = .lead ∨ s.csu.join = .localMode) : stopJoin s = s := by
  unfold stopJoin
  split
  · rfl
  · rename_i hr
    rw [h.resolve_left (by rw [hr]; decide)]

theorem stopJoin_offering {s : State} (hr : s.role = .helper) (hj : s.csu.join = .offering) : stopJoin s =
    reportStatus s.csu.inCommand .unjoined (reasonByte .allStop) (sendJoin (unjoinFrame .allStop) (endOffer s)) := by
  unfold stopJoin; rw [hr, hj]

theorem stopJoin_joined {s : State} (hr : s.role = .helper) (hj : s.csu.join = .joined ∨ s.csu.join = .holding) :
    stopJoin s = leaveJoined (reasonByte .allStop) (sendJoin (unjoinFrame .allStop) s) := by
  unfold stopJoin
  rw [hr]
  rcases hj with e | e <;> rw [e]

section Raise
variable {c : StopCause} {s z : State} (ha : s.csu.allStop = none)
include ha

/-- All-stop on a part with no join or offer to end. -/
theorem raiseAllStop_alone (h : s.role = .lead ∨ s.csu.join = .localMode) : raiseAllStop c s = stopTold c s := by
  rw [raiseAllStop_first ha, stopJoin_none]
  rw [stopTold_role, stopTold_csu]
  exact h

/-- All-stop on a helper that offers a join; the link may be read from any state `z` that has the same one. -/
theorem raiseAllStop_offering (hr : s.role = .helper) (hj : s.csu.join = .offering) (hh : s.hlc = z.hlc) (hf : s.fsw = z.fsw) :
    raiseAllStop c s = reportStatus s.csu.inCommand .unjoined 7 { stopTold c s with
      csu := { s.csu with allStop := some c, dStar := 0, tStar := 0, dAp := 0, join := .localMode, joinAnswer := none },
      hlc := (handLink (unjoinFrame .allStop) .csu z).1.hlc } := by
  have hc := stopTold_csu c s
  rw [raiseAllStop_first ha, stopJoin_offering ((stopTold_role c s).trans hr) (by rw [hc]; exact hj),
    sendJoin_of_same (s := z) (t := endOffer (stopTold c s)) ((stopTold_hlc c s).trans hh) ((stopTold_fsw c s).trans hf)]
  unfold endOffer State.onCsu
  rw [hc]
  rfl

/-- All-stop on a helper that is joined. -/
theorem raiseAllStop_joined (hr : s.role = .helper) (hj : s.csu.join = .joined ∨ s.csu.join = .holding)
    (hh : s.hlc = z.hlc) (hf : s.fsw = z.fsw) :
    raiseAllStop c s = reportStatus s.csu.inCommand .unjoined 7 (raiseAlarm .helperUnjoined .none { stopTold c s with
      csu := { s.csu with allStop := some c, dStar := 0, tStar := 0, dAp := 0, join := .localMode, setpointLoss := none,
                          hold := none },
      hlc := (handLink (unjoinFrame .allStop) .csu z).1.hlc }) := by
  have hc := stopTold_csu c s
  rw [raiseAllStop_first ha, stopJoin_joined ((stopTold_role c s).trans hr) (by rw [hc]; exact hj),
    leaveJoined_sent (s := z) ((stopTold_role c s).trans hr) ((stopTold_hlc c s).trans hh) ((stopTold_fsw c s).trans hf), hc]
  rfl

end Raise

theorem exec_allStop {s : State} {n : Node} {i : Fin 4} (hr : s.power = .run) (hf : findStation s n = some i)
    (here : s.csu.stations[i].state ≠ .absent) : exec (.allStop n) s = .next (raiseAllStop (.station i) s) := by
  refine congrArg Host.Outcome.next ((whenRunning_run hr _).trans ?_)
  unfold allStopFrame
  rw [hf]
  exact if_neg here

/-- A BREAK counted by the port on W. -/
def breakCounted (s : State) : State := { s with pcw := { s.pcw with breaks := min 65535 (s.pcw.breaks + 1) } }

theorem exec_busBreak_w {s : State} (hr : s.power = .run) (hp : s.pcw.state ≠ .isolated) : exec (.busBreak .w) s =
    .next (raiseAllStop .busBreak (breakCounted s)) := by
  refine congrArg Host.Outcome.next ((whenRunning_run hr _).trans (if_pos ?_))
  simpa [detects] using hp

/-- Settles O17. -/
theorem allStopRaised : Obligations.AllStopRaised := by
  unfold Obligations.AllStopRaised
  have next : ∀ {a b : State}, a = b → Host.Outcome.next (φ := Fault) (ρ := Refusal) a = .next b := congrArg _
  refine ⟨fun s n i hr hf here => ?_, fun s hr => ⟨fun hp ha => ?_, fun hp ha hj => ?_, ?_, fun hp => ?_, fun hp => ?_, ?_⟩⟩
  · rw [exec_allStop hr hf here]
    refine ⟨fun ha => next (raiseAllStop_again ha _), fun ha => ?_⟩
    intro stopped arm link told
    have htold : Told { s with csu := stopped, cmu := arm } told := stopTold_told (.station i) s
    refine ⟨fun hj => ?_, fun hl hj => ?_, fun hl hj => ?_⟩
    · exact ⟨told, next (raiseAllStop_alone ha hj), htold, rfl⟩
    · refine ⟨_, next (raiseAllStop_offering ha hl hj rfl rfl), ?_, rfl⟩
      refine Told.trans ?_ (reportStatus_told _ _ _ _)
      exact htold.beside (fun u => { u with csu := { stopped with join := .localMode, joinAnswer := none }, hlc := link })
        (fun _ _ _ => rfl) (fun _ => rfl) (fun _ => rfl)
    · refine ⟨_, next (raiseAllStop_joined ha hl hj rfl rfl), ?_, ?_, rfl⟩
      · exact (isRaised_reportStatus ..).trans (isRaised_raised ..)
      · refine Told.trans (Told.trans ?_ (raiseAlarm_told _ _ _)) (reportStatus_told _ _ _ _)
        exact htold.beside (fun u => { u with
          csu := { stopped with join := .localMode, setpointLoss := none, hold := none }, hlc := link })
          (fun _ _ _ => rfl) (fun _ => rfl) (fun _ => rfl)
  · rw [exec_busBreak_w hr hp]
    exact next (raiseAllStop_again (s := breakCounted s) ha _)
  · rw [exec_busBreak_w hr hp]
    refine ⟨_, next (raiseAllStop_alone (s := breakCounted s) ha hj), ?_, rfl⟩
    exact stopTold_told .busBreak (breakCounted s)
  · intro stopped link told hp ha hl
    rw [exec_busBreak_w hr hp]
    exact ⟨fun hj => next (raiseAllStop_offering (s := breakCounted s) (z := s) ha hl hj rfl rfl),
      fun hj => next (raiseAllStop_joined (s := breakCounted s) (z := s) ha hl hj rfl rfl)⟩
  · exact next ((whenRunning_run hr _).trans (if_pos (by simpa [detects] using hp)))
  · exact next ((whenRunning_run hr _).trans (if_pos (by simpa [detects] using hp)))
  · intro seg hp
    exact next ((whenRunning_run hr _).trans (if_neg (by simp [detects, hp])))

end Sys2Proof.Machine

/-! # The alarms and the frames of a part that starts (R118, R119, R138, R200, R201) -/

namespace Sys2Proof.Machine

/-! ## A status frame on a port that runs (R138) -/

section Handed
variable {s : State} {f : Frame} (hr : s.pcw.state = .run)
include hr

theorem handStatus_entered (hl : s.pcw.tx[classQueue s .w f.cls].length < 16) : handStatus f s =
    { s with pcw := { s.pcw with tx := updAt s.pcw.tx (classQueue s .w f.cls) (· ++ [{ frame := f, origin := .mgu }]) } } := by
  have h : handPort .w f .mgu s = ({ s with pcw := { s.pcw with
      tx := updAt s.pcw.tx (classQueue s .w f.cls) (· ++ [{ frame := f, origin := .mgu }]) } }, true) := by
    unfold handPort
    dsimp only
    split
    · rename_i e; exact absurd (hr.symm.trans e) (by decide)
    · exact if_pos hl
  unfold handStatus
  rw [h]

theorem handStatus_dropped (hl : 16 ≤ s.pcw.tx[classQueue s .w f.cls].length) : handStatus f s =
    { s with pcw := { s.pcw with txDrop := updAt s.pcw.txDrop (classQueue s .w f.cls) satInc },
             mgu := { s.mgu with statusDrop := satInc s.mgu.statusDrop } } := by
  have h : handPort .w f .mgu s =
      ({ s with pcw := { s.pcw with txDrop := updAt s.pcw.txDrop (classQueue s .w f.cls) satInc } }, false) := by
    unfold handPort
    dsimp only
    split
    · rename_i e; exact absurd (hr.symm.trans e) (by decide)
    · exact if_neg (Nat.not_lt.2 hl)
  unfold handStatus
  rw [h]
  rfl

end Handed

/-! ## Raises alone since a reset -/

/-- The frame of the raise that stands at place `k` of a raised set built by raises alone. -/
def raiseFrame (l : List (Alarm × Subject)) (k : Nat) (a : Alarm) (j : Subject) : TxEntry :=
  { frame := { cls := 12, node := 0, kind := 3,
               payload := [BitVec.ofNat 8 (alarmCode a), 1, subjectType j, subjectByte j,
                           BitVec.ofNat 8 ((l.take (k + 1)).countP (·.1 == a))] },
    origin := .mgu }

/-- Behind each other in queue `q`: the frame of each pair of the raised set `l`, the first sixteen of them. -/
def RaisesTold (q : Fin 4) (c : PortCtl) (l : List (Alarm × Subject)) : Prop :=
  c.tx[q].length = min 16 l.length ∧ c.txDrop[q] = l.length - 16 ∧ (∀ p : Fin 4, p ≠ q → c.tx[p] = [] ∧ c.txDrop[p] = 0) ∧
    ∀ (k : Nat) (a : Alarm) (j : Subject), k < 16 → l[k]? = some (a, j) → c.tx[q][k]? = some (raiseFrame l k a j)

/-- Since a reset with the sticky record `kept` nothing but raises has been told. -/
structure OnlyRaises (kept : Vector Bool 27) (t : State) : Prop where
  port : t.pcw = { PortCtl.initial with tx := t.pcw.tx, txDrop := t.pcw.txDrop }
  unit : t.mgu = { Mgu.initial with raised := t.mgu.raised, sticky := t.mgu.sticky,
                                    summary := some (t.now + 1000 * Config.usPerMs),
                                    statusDrop := t.mgu.raised.length - 16 }
  once : t.mgu.raised.Nodup
  sticky : ∀ a : Alarm, t.mgu.sticky[alarmIx a] = true ↔ kept[alarmIx a] = true ∨ ∃ j, isRaised a j t = true
  told : RaisesTold (classQueue t .w 12) t.pcw t.mgu.raised

theorem alarmIx_injective {a b : Alarm} (h : alarmIx a = alarmIx b) : a = b := by
  have order : ∀ a : Alarm, alarmOrder[(alarmIx a).val]? = some a := fun a => by cases a <;> rfl
  exact Option.some.inj ((order a).symm.trans ((congrArg (fun i : Fin 27 => alarmOrder[i.val]?) h).trans (order b)))

theorem OnlyRaises.of_same {kept : Vector Bool 27} {s t : State} (h : OnlyRaises kept s) (hp : t.pcw = s.pcw)
    (hm : t.mgu = s.mgu) (hf : t.fsw = s.fsw) (hn : t.now = s.now) : OnlyRaises kept t := by
  have hq : classQueue t .w 12 = classQueue s .w 12 := by unfold classQueue; rw [hf]
  obtain ⟨port, unit, once, sticky, told⟩ := h
  refine ⟨by rw [hp]; exact port, by rw [hm, hn]; exact unit, by rw [hm]; exact once, fun a => ?_, ?_⟩
  · unfold isRaised; rw [hm]; exact sticky a
  · rw [hq, hm, hp]; exact told

section Raise
variable {kept : Vector Bool 27} {s : State} {a : Alarm} {j : Subject}

/-- The state of a raise before its frame is handed. -/
def raisedMark (a : Alarm) (j : Subject) (s : State) : State :=
  s.onMgu fun m => { m with raised := m.raised ++ [(a, j)], sticky := m.sticky.set (alarmIx a) true }

theorem raiseAlarm_new (hn : isRaised a j s = false) :
    raiseAlarm a j s = handStatus (alarmFrame a j true (raisedMark a j s)) (raisedMark a j s) := by
  unfold raiseAlarm
  rw [if_neg (by rw [hn]; exact Bool.false_ne_true)]
  rfl

/-- One more pair raised: its frame enters the queue, or is dropped at a full one. -/
theorem RaisesTold.snoc {q : Fin 4} {c c' : PortCtl} {l : List (Alarm × Subject)} (h : RaisesTold q c l)
    (hl : l.length < 255) (hc : c' = if l.length < 16
      then { c with tx := updAt c.tx q (· ++ [raiseFrame (l ++ [(a, j)]) l.length a j]) }
      else { c with txDrop := updAt c.txDrop q satInc }) : RaisesTold q c' (l ++ [(a, j)]) := by
  obtain ⟨hlen, hdrop, hother, hframe⟩ := h
  have hold : ∀ (k : Nat) (b : Alarm) (i : Subject), k < l.length →
      raiseFrame (l ++ [(a, j)]) k b i = raiseFrame l k b i := fun k b i hk => by
    unfold raiseFrame
    rw [List.take_append_of_le_length (by omega)]
  by_cases h16 : l.length < 16
  · rw [if_pos h16] at hc
    subst hc
    refine ⟨?_, ?_, fun p hp => ⟨?_, (hother p hp).2⟩, fun k b i hk hget => ?_⟩
    · rw [updAt_getFin_same, List.length_append, hlen]; simp; omega
    · rw [hdrop]; simp; omega
    · rw [updAt_getFin_other _ (Ne.symm hp)]; exact (hother p hp).1
    · rw [updAt_getFin_same]
      rcases Nat.lt_trichotomy k l.length with e | e | e
      · rw [List.getElem?_append_left (by omega), hold k b i e]
        rw [List.getElem?_append_left e] at hget
        exact hframe k b i hk hget
      · subst e
        rw [List.getElem?_append_right (by omega)]
        simp only [List.getElem?_concat_length, Option.some.injEq, Prod.mk.injEq] at hget
        obtain ⟨rfl, rfl⟩ := hget
        rw [hlen, Nat.min_eq_right (by omega)]
        simp
      · rw [List.getElem?_eq_none (by simp; omega)] at hget
        exact nomatch hget
  · rw [if_neg h16] at hc
    subst hc
    refine ⟨?_, ?_, fun p hp => ⟨(hother p hp).1, ?_⟩, fun k b i hk hget => ?_⟩
    · rw [hlen]; simp; omega
    · rw [updAt_getFin_same, hdrop]
      simp [satInc, Config.counterMax]
      omega
    · rw [updAt_getFin_other _ (Ne.symm hp)]; exact (hother p hp).2
    · rw [hold k b i (by omega)]
      rw [List.getElem?_append_left (by omega)] at hget
      exact hframe k b i hk hget

/-- The frame of a raise that is new. -/
theorem alarmFrame_raisedMark (hl : s.mgu.raised.length < 255) :
    ({ frame := alarmFrame a j true (raisedMark a j s), origin := .mgu } : TxEntry) =
      raiseFrame (s.mgu.raised ++ [(a, j)]) s.mgu.raised.length a j := by
  have hcount : raisedCount a (raisedMark a j s) =
      ((s.mgu.raised ++ [(a, j)]).take (s.mgu.raised.length + 1)).countP (·.1 == a) := by
    rw [List.take_of_length_le (by simp)]
    exact Nat.min_eq_right (List.countP_le_length.trans (by
      show (s.mgu.raised ++ [(a, j)]).length ≤ 255
      rw [List.length_append, List.length_singleton]; omega))
  unfold alarmFrame raiseFrame
  rw [hcount]
  rfl

/-- What a new raise makes of the port and the unit while the port runs. -/
theorem raiseAlarm_desk_new (hr : s.pcw.state = .run) (hn : isRaised a j s = false) (hl : s.mgu.raised.length < 255)
    (hlen : s.pcw.tx[classQueue s .w 12].length = min 16 s.mgu.raised.length) :
    (raiseAlarm a j s).pcw = (if s.mgu.raised.length < 16
      then { s.pcw with
        tx := updAt s.pcw.tx (classQueue s .w 12) (· ++ [raiseFrame (s.mgu.raised ++ [(a, j)]) s.mgu.raised.length a j]) }
      else { s.pcw with txDrop := updAt s.pcw.txDrop (classQueue s .w 12) satInc }) ∧
    (raiseAlarm a j s).mgu = { s.mgu with
      raised := s.mgu.raised ++ [(a, j)], sticky := s.mgu.sticky.set (alarmIx a) true,
      statusDrop := if s.mgu.raised.length < 16 then s.mgu.statusDrop else satInc s.mgu.statusDrop } := by
  rw [raiseAlarm_new hn]
  by_cases h16 : s.mgu.raised.length < 16
  · rw [handStatus_entered (s := raisedMark a j s) hr (by show s.pcw.tx[classQueue s .w 12].length < 16; omega),
      alarmFrame_raisedMark hl, if_pos h16, if_pos h16]
    exact ⟨rfl, rfl⟩
  · rw [handStatus_dropped (s := raisedMark a j s) hr (by show 16 ≤ s.pcw.tx[classQueue s .w 12].length; omega),
      if_neg h16, if_neg h16]
    exact ⟨rfl, rfl⟩

/-- A new raise on a part that has only raised keeps it so. -/
theorem OnlyRaises.raise (h : OnlyRaises kept s) (hn : isRaised a j s = false) (hl : s.mgu.raised.length < 255) :
    OnlyRaises kept (raiseAlarm a j s) := by
  obtain ⟨port, unit, once, sticky, told⟩ := h
  obtain ⟨hp, hm⟩ := raiseAlarm_desk_new (by rw [port]; rfl) hn hl told.1
  have hraised : (raiseAlarm a j s).mgu.raised = s.mgu.raised ++ [(a, j)] := by rw [hm]
  have hq : classQueue (raiseAlarm a j s) .w 12 = classQueue s .w 12 := by rw [raiseAlarm_same]; rfl
  refine ⟨?_, ?_, ?_, fun b => ?_, ?_⟩
  · rw [hp]
    split
    · conv_lhs => rw [port]
    · conv_lhs => rw [port]
  · have hdrop : (if s.mgu.raised.length < 16 then s.mgu.statusDrop else satInc s.mgu.statusDrop) =
        (s.mgu.raised ++ [(a, j)]).length - 16 := by
      rw [unit]
      simp [satInc, Config.counterMax]
      split <;> omega
    rw [hm, hdrop, raiseAlarm_now]
    conv_lhs => rw [unit]
  · rw [hraised, List.nodup_append]
    refine ⟨once, List.nodup_singleton _, fun x hx y hy => ?_⟩
    rintro rfl
    obtain rfl := List.mem_singleton.1 hy
    rw [(isRaised_iff s a j).2 hx] at hn
    exact nomatch hn
  · simp only [isRaised_raiseAlarm, hm]
    have hset : (s.mgu.sticky.set (alarmIx a) true)[alarmIx b] = true ↔ b = a ∨ s.mgu.sticky[alarmIx b] = true := by
      by_cases e : b = a
      · subst e; simp
      · have hne : (alarmIx a).val ≠ (alarmIx b).val := fun x => e (alarmIx_injective (Fin.ext x.symm))
        simp [e, Vector.getElem_set_ne _ _ hne]
    rw [hset, sticky b]
    constructor
    · rintro (rfl | h | ⟨i, h⟩)
      · exact .inr ⟨j, .inr ⟨rfl, rfl⟩⟩
      · exact .inl h
      · exact .inr ⟨i, .inl h⟩
    · rintro (h | ⟨i, h | ⟨rfl, -⟩⟩)
      · exact .inr (.inl h)
      · exact .inr (.inr ⟨i, h⟩)
      · exact .inl rfl
  · rw [hq, hraised]
    exact told.snoc hl hp

end Raise

/-! ## The tanks evaluated on a part that has only raised (R108, R118) -/

/-- At most `n` raises, and nothing else told, since a reset. -/
structure RaisedUpTo (kept : Vector Bool 27) (n : Nat) (s : State) : Prop where
  only : OnlyRaises kept s
  most : s.mgu.raised.length ≤ n

section Tanks
variable {kept : Vector Bool 27} {n : Nat} {s t : State}

theorem RaisedUpTo.of_same (h : RaisedUpTo kept n s) (hp : t.pcw = s.pcw) (hm : t.mgu = s.mgu) (hf : t.fsw = s.fsw)
    (hn : t.now = s.now) : RaisedUpTo kept n t := ⟨h.only.of_same hp hm hf hn, by rw [hm]; exact h.most⟩

theorem syncAlarm_unraised {a : Alarm} {j : Subject} (hn : isRaised a j s = false) (b : Bool) :
    syncAlarm a j b s = if b then raiseAlarm a j s else s := by
  have hc : clearAlarm a j s = s := by
    unfold clearAlarm
    exact if_neg (by rw [hn]; exact Bool.false_ne_true)
  unfold syncAlarm
  rw [hc]

theorem RaisedUpTo.sync {a : Alarm} {j : Subject} (h : RaisedUpTo kept n s) (hn : isRaised a j s = false) (hl : n < 255)
    (b : Bool) : RaisedUpTo kept (n + 1) (syncAlarm a j b s) := by
  rw [syncAlarm_unraised hn]
  cases b with
  | false => exact ⟨h.only, Nat.le_succ_of_le h.most⟩
  | true =>
    refine ⟨h.only.raise hn (Nat.lt_of_le_of_lt h.most hl), ?_⟩
    show (raiseAlarm a j s).mgu.raised.length ≤ n + 1
    rw [raiseAlarm_raised, if_neg (by rw [hn]; exact Bool.false_ne_true), List.length_append]
    exact Nat.add_le_add_right h.most 1

theorem isRaised_syncAlarm {a c : Alarm} {j k : Subject} (hn : isRaised a j s = false) (b : Bool) :
    isRaised c k (syncAlarm a j b s) = true ↔ isRaised c k s = true ∨ (b = true ∧ c = a ∧ k = j) := by
  rw [syncAlarm_unraised hn]
  cases b with
  | false => simp
  | true => simp [isRaised_raiseAlarm]

/-- The alarms that a tank's state and flag call for. -/
def TankCalls (a : Alarm) (k : Tank) : Prop :=
  (a = .tankReserve ∧ k.state ≠ .normal) ∨ (a = .tankEmpty ∧ k.state = .empty) ∨ (a = .tankOverfull ∧ k.overfull = true)

theorem tankAlarms_same (i : Fin 8) (s : State) : SameButStatus s (tankAlarms i s) :=
  ((syncAlarm_same ..).trans (syncAlarm_same ..)).trans (syncAlarm_same ..)

theorem isRaised_syncAlarm_of_ne {a c : Alarm} {j k : Subject} (hn : isRaised c k s = false) (hc : c ≠ a) (b : Bool) :
    isRaised c k (syncAlarm a j b s) = false := by
  rw [Bool.eq_false_iff, ne_eq]
  unfold syncAlarm
  split
  · rw [isRaised_raiseAlarm, hn]
    rintro (h | ⟨h, -⟩)
    · exact nomatch h
    · exact hc h
  · rw [isRaised_clearAlarm, hn]
    exact fun h => nomatch h.1

theorem RaisedUpTo.tankAlarms {i : Fin 8} (h : RaisedUpTo kept n s) (hn : ∀ a, isRaised a (.tank i) s = false)
    (hl : n + 3 ≤ 255) : RaisedUpTo kept (n + 3) (tankAlarms i s) ∧
      ∀ a j, isRaised a j (Machine.tankAlarms i s) = true ↔
        isRaised a j s = true ∨ (j = .tank i ∧ TankCalls a s.fau.tanks[i]) := by
  have n1 : isRaised .tankReserve (.tank i) s = false := hn _
  have n2 : isRaised .tankEmpty (.tank i) (syncAlarm .tankReserve (.tank i) (s.fau.tanks[i].state != .normal) s) = false :=
    isRaised_syncAlarm_of_ne (hn _) (by decide) _
  have n3 : isRaised .tankOverfull (.tank i) (syncAlarm .tankEmpty (.tank i) (s.fau.tanks[i].state == .empty)
      (syncAlarm .tankReserve (.tank i) (s.fau.tanks[i].state != .normal) s)) = false :=
    isRaised_syncAlarm_of_ne (isRaised_syncAlarm_of_ne (hn _) (by decide) _) (by decide) _
  refine ⟨((h.sync n1 (by omega) _).sync n2 (by omega) _).sync n3 (by omega) _, fun a j => ?_⟩
  unfold Machine.tankAlarms TankCalls
  dsimp only
  rw [isRaised_syncAlarm n3, isRaised_syncAlarm n2, isRaised_syncAlarm n1]
  simp only [bne_iff_ne, beq_iff_eq]
  tauto

/-- A tank as its evaluation leaves it, by the table of `s`. -/
def tankEvaluated (s : State) (i : Fin 8) (k : Tank) : Tank :=
  match tankEntry s i with
  | none => { k with state := .normal, overfull := false }
  | some x => { k with state := tankStateOf x k.balance k.state, overfull := decide ((x.capacity : Int) < k.balance) }

theorem tankEvaluated_congr (h : t.fau.table = s.fau.table) (i : Fin 8) : tankEvaluated t i = tankEvaluated s i := by
  funext k
  unfold tankEvaluated tankEntry
  rw [h]

theorem evalTank_eq (i : Fin 8) (s : State) : evalTank i s = tankAlarms i (onTank i (tankEvaluated s i) s) := by
  unfold evalTank tankEvaluated
  cases tankEntry s i <;> rfl

/-- Some tanks evaluated, from `s`. -/
structure TanksEvaluated (kept : Vector Bool 27) (n : Nat) (l : List (Fin 8)) (s t : State) : Prop where
  told : RaisedUpTo kept (n + 3 * l.length) t
  rest : t = { s with fau := { s.fau with tanks := t.fau.tanks }, pcw := t.pcw, mgu := t.mgu }
  tanks : ∀ i, t.fau.tanks[i] = if i ∈ l then tankEvaluated s i s.fau.tanks[i] else s.fau.tanks[i]
  raised : ∀ a j, isRaised a j t = true ↔ isRaised a j s = true ∨ ∃ i ∈ l, j = .tank i ∧ TankCalls a t.fau.tanks[i]

theorem tanksEvaluated (l : List (Fin 8)) (hd : l.Nodup) (h : RaisedUpTo kept n s)
    (hn : ∀ i ∈ l, ∀ a, isRaised a (.tank i) s = false) (hl : n + 3 * l.length ≤ 255) :
    TanksEvaluated kept n l s (l.foldl (fun s i => evalTank i s) s) := by
  induction l generalizing n s with
  | nil => exact ⟨h, rfl, fun i => by simp, fun a j => by simp⟩
  | cons i l ih =>
    obtain ⟨hi, hd⟩ := List.nodup_cons.1 hd
    rw [List.length_cons] at hl
    have hon : RaisedUpTo kept n (onTank i (tankEvaluated s i) s) := h.of_same rfl rfl rfl rfl
    obtain ⟨hup, hraised⟩ := hon.tankAlarms (i := i) (hn i List.mem_cons_self) (by omega)
    rw [← evalTank_eq] at hup hraised
    have hrest : SameButStatus (onTank i (tankEvaluated s i) s) (evalTank i s) := by rw [evalTank_eq]; exact tankAlarms_same ..
    have htanks : (evalTank i s).fau.tanks = updAt s.fau.tanks i (tankEvaluated s i) := by rw [hrest]; rfl
    have htable : (evalTank i s).fau.table = s.fau.table := by rw [hrest]; rfl
    obtain ⟨told, rest, tanks, raised⟩ := ih hd hup (fun k hk a => by
      rw [Bool.eq_false_iff, ne_eq, hraised]
      rintro (x | ⟨x, -⟩)
      · exact Bool.false_ne_true ((hn k (List.mem_cons_of_mem _ hk) a).symm.trans x)
      · obtain rfl : k = i := by simpa using x
        exact hi hk) (by omega)
    have htank : ∀ k, (List.foldl (fun s i => evalTank i s) (evalTank i s) l).fau.tanks[k] =
        if k ∈ i :: l then tankEvaluated s k s.fau.tanks[k] else s.fau.tanks[k] := fun k => by
      rw [tanks k, tankEvaluated_congr htable, htanks, updAt_getFin]
      by_cases e : i = k
      · subst e; simp [hi]
      · simp [e, Ne.symm e]
    have hself : (onTank i (tankEvaluated s i) s).fau.tanks[i] =
        (List.foldl (fun s i => evalTank i s) (evalTank i s) l).fau.tanks[i] := by
      rw [htank i, if_pos List.mem_cons_self]
      exact updAt_getFin_same ..
    refine ⟨?_, ?_, htank, fun a j => ?_⟩
    · rw [List.foldl_cons, List.length_cons, show n + 3 * (l.length + 1) = n + 3 + 3 * l.length by omega]
      exact told
    · rw [List.foldl_cons]
      rw [rest, hrest]
      rfl
    · rw [List.foldl_cons, raised, hraised, hself]
      simp only [List.mem_cons, exists_eq_or_imp, or_assoc]
      rfl

end Tanks

/-! ## The start of the accounts (R118, R119) -/

theorem allStep_rest (s a : State) (e : Fin 4) :
    allStep s a e = { a with piu := { a.piu with engines := (allStep s a e).piu.engines } } := by
  unfold allStep
  rw [writeCap_eq]
  rfl

/-- `t` is `s` but for what the start of the accounts changes. -/
def StartTouches (s t : State) : Prop :=
  t = { s with fau := { s.fau with tanks := t.fau.tanks }, piu := { s.piu with engines := t.piu.engines },
               pcw := t.pcw, mgu := t.mgu }

theorem StartTouches.trans {s t u : State} (h : StartTouches s t) (k : StartTouches t u) : StartTouches s u := by
  unfold StartTouches at *
  rw [h] at k
  exact k

theorem StartTouches.of_same {s t : State} (h : SameButStatus s t) : StartTouches s t := by
  unfold StartTouches
  rw [h]

theorem writeAllCaps_touches (s : State) : StartTouches s (writeAllCaps s) := by
  have step : ∀ a e, StartTouches a (allStep s a e) := fun a e => by
    unfold StartTouches
    rw [allStep_rest]
  rw [writeAllCaps_eq]
  exact (((step _ _).trans (step _ _)).trans (step _ _)).trans (step _ _)

theorem writeAllCaps_desk (s : State) : (writeAllCaps s).pcw = s.pcw ∧ (writeAllCaps s).mgu = s.mgu := by
  have step : ∀ a e, (allStep s a e).pcw = a.pcw ∧ (allStep s a e).mgu = a.mgu := fun a e => by
    rw [allStep_rest]; exact ⟨rfl, rfl⟩
  rw [writeAllCaps_eq]
  simp only [step, and_self]

/-- The accounts have started, from `s`: every tank evaluated as from NORMAL, the alarms told, the lineups and the caps written. -/
structure AccountsStarted (kept : Vector Bool 27) (s t : State) : Prop where
  told : RaisedUpTo kept 25 t
  rest : StartTouches s t
  tanks : ∀ i : Fin 8, t.fau.tanks[i] = tankEvaluated s i { s.fau.tanks[i] with state := .normal, overfull := false }
  raised : ∀ a j, isRaised a j t = true ↔
    (∃ i : Fin 8, j = .tank i ∧ TankCalls a t.fau.tanks[i]) ∨ (a = .fuelSat ∧ j = .none ∧ s.fau.sat = true)
  capped : ∀ e : Fin 4, t.piu.engines[engineIx e] =
    cappedRec (engineOf s (engineIx e)) (capOf t e) { s.piu.engines[engineIx e] with lineup := s.fau.lineup[e] }
  others : ∀ i : Fin 6, 4 ≤ i.val → t.piu.engines[i] = s.piu.engines[i]

section Start
variable {kept : Vector Bool 27} {s : State}

theorem evalAllTanks_evaluated (h : OnlyRaises kept s) (hr : s.mgu.raised = []) :
    TanksEvaluated kept 0 (List.finRange 8)
      (s.onFau fun u => { u with tanks := u.tanks.map fun t => { t with state := .normal, overfull := false } })
      (evalAllTanks s) := by
  refine tanksEvaluated _ (List.nodup_finRange 8) ⟨h.of_same rfl rfl rfl rfl, ?_⟩ (fun i _ a => ?_) (by decide)
  · show s.mgu.raised.length ≤ 0
    rw [hr]; rfl
  · rw [Bool.eq_false_iff, ne_eq, isRaised_iff]
    show ¬ _ ∈ s.mgu.raised
    rw [hr]
    exact List.not_mem_nil

/-- What the evaluation of all tanks gives on a part with nothing raised. -/
theorem isRaised_evalAllTanks (h : OnlyRaises kept s) (hr : s.mgu.raised = []) (a : Alarm) (j : Subject) :
    isRaised a j (evalAllTanks s) = true ↔ ∃ i : Fin 8, j = .tank i ∧ TankCalls a (evalAllTanks s).fau.tanks[i] := by
  have noneRaised : isRaised a j (s.onFau fun u =>
      { u with tanks := u.tanks.map fun t => { t with state := .normal, overfull := false } }) = true ↔ False := by
    rw [isRaised_iff, iff_false]
    show ¬ _ ∈ s.mgu.raised
    rw [hr]
    exact List.not_mem_nil
  rw [(evalAllTanks_evaluated h hr).raised, noneRaised, false_or]
  simp only [List.mem_finRange, true_and]

theorem evalAllTanks_touches (h : OnlyRaises kept s) (hr : s.mgu.raised = []) : StartTouches s (evalAllTanks s) := by
  have rest := (evalAllTanks_evaluated h hr).rest
  revert rest
  generalize evalAllTanks s = y
  intro rest
  unfold StartTouches
  rw [rest]
  rfl

theorem evalAllTanks_tank (h : OnlyRaises kept s) (hr : s.mgu.raised = []) (i : Fin 8) :
    (evalAllTanks s).fau.tanks[i] = tankEvaluated s i { s.fau.tanks[i] with state := .normal, overfull := false } := by
  rw [(evalAllTanks_evaluated h hr).tanks, if_pos (List.mem_finRange i)]
  refine congrArg (tankEvaluated s i) ?_
  exact Vector.getElem_map ..

/-- The start of the accounts in its steps. -/
theorem fauStarts_eq (hn : isRaised .fuelSat .none (evalAllTanks s) = false) :
    fauStarts s = writeAllCaps (syncAlarm .fuelSat .none (evalAllTanks s).fau.sat (evalAllTanks s)) := by
  rw [syncAlarm_unraised hn]; rfl

theorem engineOf_congr {s t : State} (ht : t.tau = s.tau) (hp : t.piu = s.piu) (i : Fin 6) : engineOf t i = engineOf s i := by
  unfold engineOf; rw [engineEntry_congr ht, hp]

theorem fauStarts_started (h : OnlyRaises kept s) (hr : s.mgu.raised = []) : AccountsStarted kept s (fauStarts s) := by
  have told := (evalAllTanks_evaluated h hr).told
  have touches := evalAllTanks_touches h hr
  have tanks := evalAllTanks_tank h hr
  have raised := isRaised_evalAllTanks h hr
  have hn : isRaised .fuelSat .none (evalAllTanks s) = false := by
    rw [Bool.eq_false_iff, ne_eq, raised]
    rintro ⟨i, x, -⟩
    exact nomatch x
  have hpiu : (evalAllTanks s).piu = s.piu := by rw [(evalAllTanks_evaluated h hr).rest]; rfl
  rw [fauStarts_eq hn]
  revert told touches tanks raised hn hpiu
  generalize evalAllTanks s = y
  intro told touches tanks raised hn hpiu
  have hsat : y.fau.sat = s.fau.sat := by rw [touches]
  have hlineup : y.fau.lineup = s.fau.lineup := by rw [touches]
  have htau : y.tau = s.tau := by rw [touches]
  rw [hsat]
  have sync := fun a j => isRaised_syncAlarm (c := a) (k := j) hn s.fau.sat
  have told' := told.sync hn (by decide) s.fau.sat
  have same := syncAlarm_same y .fuelSat .none s.fau.sat
  revert sync told' same
  generalize syncAlarm .fuelSat .none s.fau.sat y = z
  intro sync told' same
  have hf : z.fau = y.fau := by rw [same]
  have hp : z.piu = s.piu := by rw [same]; exact hpiu
  have hcaps := writeAllCaps_touches z
  have hfau := writeAllCaps_fau z
  have hm : (writeAllCaps z).mgu = z.mgu := (writeAllCaps_desk z).2
  refine ⟨?_, ?_, fun i => ?_, fun a j => ?_, fun e => ?_, fun i hi => ?_⟩
  · exact told'.of_same ((writeAllCaps_desk z).1) hm (by rw [hcaps]) (by rw [hcaps])
  · exact (touches.trans (.of_same same)).trans hcaps
  · rw [hfau, hf]; exact tanks i
  · rw [isRaised_congr (congrArg Mgu.raised hm), sync, raised, hfau, hf]
    exact or_congr_right ⟨fun ⟨x, y, z⟩ => ⟨y, z, x⟩, fun ⟨x, y, z⟩ => ⟨z, x, y⟩⟩
  · rw [writeAllCaps_at, engineOf_congr (s := s) (by rw [same]; exact htau) hp, hp, hf, hlineup]
    rw [show capOf z e = capOf (writeAllCaps z) e by simp only [capOf, reserveCap, hfau]]
  · rw [writeAllCaps_other _ _ hi, hp]

end Start

end Sys2Proof.Machine

/-! # What a reset leaves (R2, R21, R45, R67, R118, R119, R130 to R133, R152, R167, R171, R204) -/

namespace Sys2Proof.Machine

/-! ## A part that has started -/

/-- ACCOUNT-GAP raised for a subject, if there is one. -/
def gapTold (gap : Option Subject) (s : State) : State :=
  match gap with
  | none => s
  | some j => raiseAlarm .accountGap j s

/-- From `s`, the units at their reset values and the accounts in place, the part has started. -/
structure PartStarted (kept : Vector Bool 27) (gap : Option Subject) (s t : State) : Prop where
  told : OnlyRaises kept t
  rest : StartTouches s t
  tanks : ∀ i : Fin 8, t.fau.tanks[i] = tankEvaluated s i { s.fau.tanks[i] with state := .normal, overfull := false }
  raised : ∀ a j, isRaised a j t = true ↔ (∃ i : Fin 8, j = .tank i ∧ TankCalls a t.fau.tanks[i]) ∨
    (a = .fuelSat ∧ j = .none ∧ s.fau.sat = true) ∨ (a = .accountGap ∧ gap = some j)
  capped : ∀ e : Fin 4, t.piu.engines[engineIx e] =
    cappedRec (engineOf s (engineIx e)) (capOf t e) { s.piu.engines[engineIx e] with lineup := s.fau.lineup[e] }
  others : ∀ i : Fin 6, 4 ≤ i.val → t.piu.engines[i] = s.piu.engines[i]

theorem AccountsStarted.gap {kept : Vector Bool 27} {s t : State} (h : AccountsStarted kept s t) (gap : Option Subject) :
    PartStarted kept gap s (gapTold gap t) := by
  obtain ⟨told, rest, tanks, raised, capped, others⟩ := h
  cases gap with
  | none =>
    refine ⟨told.only, rest, tanks, fun a j => ?_, capped, others⟩
    rw [gapTold, raised]
    simp
  | some k =>
    have hn : isRaised .accountGap k t = false := by
      rw [Bool.eq_false_iff, ne_eq, raised]
      simp [TankCalls]
    have same := raiseAlarm_same t .accountGap k
    have hfau : (raiseAlarm .accountGap k t).fau = t.fau := raiseAlarm_fau ..
    have hpiu : (raiseAlarm .accountGap k t).piu = t.piu := raiseAlarm_piu ..
    refine ⟨told.only.raise hn (Nat.lt_of_le_of_lt told.most (by decide)), rest.trans (.of_same same),
      fun i => ?_, fun a j => ?_, fun e => ?_, fun i hi => ?_⟩
    · rw [gapTold, hfau]; exact tanks i
    · rw [gapTold, isRaised_raiseAlarm, raised, hfau, or_assoc, Option.some.injEq, @eq_comm _ k j]
    · rw [gapTold, hpiu, capped]
      simp only [capOf, reserveCap, hfau]
    · rw [gapTold, hpiu]; exact others i hi

/-! ## The units at their reset values -/

section Active
variable {s t : State} (h : t.nvs = s.nvs)
include h

theorem activeBody_congr (k : Kind) : activeBody t k = activeBody s k := by unfold activeBody activeBank; rw [h]
theorem activeAlloc_congr : activeAlloc t = activeAlloc s := congrArg (Option.map decodeAlloc) (activeBody_congr h _)
theorem activeWindow_congr : activeWindow t = activeWindow s := congrArg (Option.map decodeWindow) (activeBody_congr h _)
theorem activeMakeup_congr : activeMakeup t = activeMakeup s := congrArg (Option.map decodeMakeup) (activeBody_congr h _)
theorem activeCoupling_congr : activeCoupling t = activeCoupling s := congrArg (Option.map decodeCoupling) (activeBody_congr h _)
theorem activeFuel_congr : activeFuel t = activeFuel s := congrArg (Option.map decodeFuel) (activeBody_congr h _)
theorem activeBank_congr (k : Kind) : activeBank t k = activeBank s k := by unfold activeBank; rw [h]

end Active

/-- The state from which the accounts start. -/
def startBase (kept : Vector Bool 27) (u : Fau) (z : State) : State := { unitsReset kept z with fau := u }

theorem startBase_only (kept : Vector Bool 27) (u : Fau) (z : State) : OnlyRaises kept (startBase kept u z) := by
  refine ⟨rfl, rfl, List.nodup_nil, fun a => ?_, ?_, ?_, fun p _ => ?_, fun k a j _ h => ?_⟩
  · show kept[alarmIx a] = true ↔ _
    have : ∀ j, ¬ isRaised a j (startBase kept u z) = true := fun j => by
      rw [isRaised_iff]; exact List.not_mem_nil
    simp [this]
  · exact congrArg List.length (Vector.getElem_replicate ..)
  · exact Vector.getElem_replicate ..
  · exact ⟨Vector.getElem_replicate .., Vector.getElem_replicate ..⟩
  · exact nomatch h

theorem cappedRec_unfilled {x : EngineEntry} {cap : Option Nat} {r : EngineRec} (h : r.filled = false) :
    cappedRec x cap r = { r with cap := cap } := by
  unfold cappedRec
  cases cap with
  | none => rfl
  | some c => exact if_neg fun e => by rw [h] at e; exact Bool.false_ne_true e.1

/-- The record of an engine right after a reset. -/
def resetEngine (now : Nat) (e : EngineEntry) : EngineRec :=
  { EngineRec.initial with
    avail := if e.configured then .lost else .unconfigured, neutralSince := now, rpm := e.idle,
    timer := if e.configured then some (now + 600 * Config.usPerMs) else none }

/-- The record of a rudder group right after a reset. -/
def resetRudder (now : Nat) (e : RudderEntry) : RudderRec :=
  { RudderRec.initial with
    avail := if e.configured then .lost else .unconfigured,
    timer := if e.configured then some (now + 600 * Config.usPerMs) else none }

section AfterReset
variable (a : Option AllocTable) (now : Nat)

theorem limitAlloc_engine (i : Fin 6) :
    (a.map limitAlloc).elim noEngine (·.engines[i]) = (a.map (·.engines[i])).elim noEngine limitEngine := by
  cases a with
  | none => rfl
  | some x => exact Vector.getElem_map ..

theorem limitAlloc_rudder (i : Fin 3) :
    (a.map limitAlloc).elim noRudder (·.rudders[i]) = (a.map (·.rudders[i])).elim noRudder limitRudder := by
  cases a with
  | none => rfl
  | some x => exact Vector.getElem_map ..

theorem afterReset_engine (i : Fin 6) : (Piu.afterReset (a.map limitAlloc) now).engines[i] =
    resetEngine now ((a.map (·.engines[i])).elim noEngine id) := by
  refine (Vector.getElem_ofFn ..).trans ((congrArg (resetEngine now) (limitAlloc_engine a i)).trans ?_)
  cases a <;> rfl

theorem afterReset_rudder (i : Fin 3) : (Piu.afterReset (a.map limitAlloc) now).rudders[i] =
    resetRudder now ((a.map (·.rudders[i])).elim noRudder id) := by
  refine (Vector.getElem_ofFn ..).trans ((congrArg (resetRudder now) (limitAlloc_rudder a i)).trans ?_)
  cases a <;> rfl

end AfterReset

theorem tankStateOf_normal (k : TankEntry) (v : Int) :
    tankStateOf k v .normal = if v ≤ 0 then .empty else if v ≤ k.reserve then .reserve else .normal := by
  unfold tankStateOf
  rw [ite_self]

theorem limitTank_reserve (k : TankEntry) : (limitTank k).reserve = min k.reserve ((limitTank k).capacity - 1) :=
  Nat.zero_max _

theorem tankEntry_some {s : State} {x : FuelMap} (h : s.fau.table = some x) (i : Fin 8) :
    tankEntry s i = if x.tanks[i].defined then some (limitTank x.tanks[i]) else none := by
  unfold tankEntry; rw [h]

/-- The state of an evaluated tank by its table's entry (R108). -/
theorem tankEvaluated_normal (s : State) (i : Fin 8) (v : Int) :
    let entry := s.fau.table.map (·.tanks[i])
    let set := entry.elim false (·.defined)
    let capacity := entry.elim 0 fun x => max 1 (min x.capacity 140737488355327)
    let reserve := entry.elim 0 fun x => min x.reserve (capacity - 1)
    tankEvaluated s i { balance := v, state := .normal, overfull := false } =
      { balance := v, overfull := set && decide ((capacity : Int) < v),
        state := if set = false then .normal else if v ≤ 0 then .empty else if v ≤ reserve then .reserve else .normal } := by
  cases h : s.fau.table with
  | none =>
    have e : tankEntry s i = none := by unfold tankEntry; rw [h]
    unfold tankEvaluated
    rw [e]
    rfl
  | some x =>
    have e := tankEntry_some h i
    unfold tankEvaluated
    simp only [Option.map_some, Option.elim_some]
    by_cases hd : x.tanks[i].defined = true
    · rw [e, if_pos hd]
      show ({ balance := v, state := tankStateOf (limitTank x.tanks[i]) v .normal, overfull := _ } : Tank) = _
      rw [tankStateOf_normal, limitTank_reserve]
      simp only [hd, Bool.true_and, Bool.true_eq_false, if_false]
      rfl
    · rw [e, if_neg hd]
      simp only [hd, Bool.false_and, if_true]

/-- The unit's values by the tables of MAKEUP and COUPLING (R67, R87). -/
theorem cmu_afterReset (l : List UnitEntry) (table : Option CouplingTable) (now : Nat) :
    let units := sortUnits l
    let params := table.elim CouplingParams.default (·.params)
    let couplings := table.elim [] (·.couplings)
    Cmu.afterReset l table now = { Cmu.initial with
      units := units.map fun e => { entry := e, attached := true }, params := params, couplings := couplings.map newCoupling,
      roundTimer := some (now + max 50 (min params.period 5000) * Config.usPerMs), nAtt := (units.filter (·.id ≠ 0)).length,
      headroom := if couplings = [] then 1000 else min params.hSilent 1000 } := by
  have hp : (table.getD { params := CouplingParams.default, couplings := [] }).params =
      table.elim CouplingParams.default (·.params) := by cases table <;> rfl
  have hc : (table.getD { params := CouplingParams.default, couplings := [] }).couplings = table.elim [] (·.couplings) := by
    cases table <;> rfl
  have hcount : ∀ l : List UnitEntry, l.filter (fun e => e.id != 0) = l.filter (fun e => decide (e.id ≠ 0)) := fun l =>
    List.filter_congr fun e _ => by rw [Bool.eq_iff_iff]; simp
  have hlimit : ∀ x : CouplingParams, (limitParams x).hSilent = min x.hSilent 1000 := fun x => Nat.zero_max _
  unfold Cmu.afterReset
  simp only [hp, hc, hcount, hlimit, List.isEmpty_iff]
  rfl

/-! ## The units start -/

section Starts
variable {kept : Vector Bool 27} {gap : Option Subject} {u : Fau} {z t : State}
  (h : PartStarted kept gap (startBase kept u z) t)
include h

/-- Every unit that the start of the accounts does not reach stands at its reset values. -/
theorem started_units : t.power = .run ∧ t.origin = z.now ∧ t.now = z.now ∧ t.role = z.role ∧ t.resetPin = z.resetPin ∧
    t.nvs = z.nvs ∧ t.csu = Csu.initial ∧
    t.tau = { Tau.initial with alloc := activeAlloc z, timer := some (z.now + 50 * Config.usPerMs) } ∧
    t.cmu = Cmu.afterReset ((activeMakeup z).getD []) (activeCoupling z) z.now ∧
    t.pcp = PortCtl.initial ∧ t.pck = PortCtl.initial ∧
    t.fsw = { Fsw.initial with table := activeWindow z, commit := activeCommit z .window } ∧
    t.hlc = Hlc.afterReset (activeWindow z) z.now := by
  rw [h.rest]
  exact ⟨rfl, rfl, rfl, rfl, rfl, rfl, rfl, rfl, rfl, rfl, rfl, rfl, rfl⟩

theorem started_fau : t.fau = { u with tanks := t.fau.tanks } := by rw [h.rest]; rfl

theorem started_piu : t.piu = { Piu.afterReset ((activeAlloc z).map limitAlloc) z.now with engines := t.piu.engines } := by
  rw [h.rest]; rfl

theorem started_mgu : t.mgu = { Mgu.initial with
    raised := t.mgu.raised, sticky := t.mgu.sticky, summary := some (z.now + 1000 * Config.usPerMs),
    statusDrop := t.mgu.raised.length - 16 } := by
  rw [← (started_units h).2.2.1]
  exact h.told.unit

/-- E1 to E4 stand at their reset values, with the lineup and the cap of the accounts. -/
theorem started_engine_capped (e : Fin 4) : t.piu.engines[engineIx e] =
    { resetEngine z.now (((activeAlloc z).map (·.engines[engineIx e])).elim noEngine id) with
      lineup := u.lineup[e], cap := capOf t e } := by
  rw [h.capped e]
  have hr : (startBase kept u z).piu.engines[engineIx e] =
      resetEngine z.now (((activeAlloc z).map (·.engines[engineIx e])).elim noEngine id) := afterReset_engine ..
  rw [hr, cappedRec_unfilled rfl]
  rfl

theorem started_engine_other (i : Fin 6) (hi : 4 ≤ i.val) : t.piu.engines[i] =
    resetEngine z.now (((activeAlloc z).map (·.engines[i])).elim noEngine id) :=
  (h.others i hi).trans (afterReset_engine ..)

/-- Each engine at its reset values but for its cap and its lineup. -/
theorem started_engine (i : Fin 6) : t.piu.engines[i] =
    { resetEngine z.now (((activeAlloc z).map (·.engines[i])).elim noEngine id) with
      lineup := t.piu.engines[i].lineup, cap := t.piu.engines[i].cap } := by
  rcases Nat.lt_or_ge i.val 4 with hi | hi
  · obtain ⟨e, rfl⟩ : ∃ e : Fin 4, engineIx e = i := ⟨⟨i.val, hi⟩, rfl⟩
    rw [started_engine_capped h e]
  · rw [started_engine_other h i hi]

/-- Each rudder group at its reset values. -/
theorem started_rudder (i : Fin 3) :
    t.piu.rudders[i] = resetRudder z.now (((activeAlloc z).map (·.rudders[i])).elim noRudder id) := by
  rw [started_piu h]
  exact afterReset_rudder ..

theorem started_tank (i : Fin 8) : t.fau.tanks[i] =
    tankEvaluated t i { balance := u.tanks[i].balance, state := .normal, overfull := false } := by
  have ht : t.fau.table = (startBase kept u z).fau.table := by rw [started_fau h]; rfl
  rw [tankEvaluated_congr ht, h.tanks i]
  rfl

end Starts

/-- The units have started with the tables of the active banks. -/
theorem unitsStart {kept : Vector Bool 27} {gap : Option Subject} {u : Fau} {z t : State}
    (h : PartStarted kept gap (startBase kept u z) t)
    (hu : u = { u with
      windowTimer := some (z.now + 60000 * Config.usPerMs), checkpointTimer := some (z.now + 60000 * Config.usPerMs),
      unknownMeter := 0, malformedMeter := 0, jump := 0, temperatureClamp := 0, carryBound := 0 }) :
    UnitsStart kept gap t := by
  obtain ⟨hpower, horigin, hnow, -, -, hnvs, hcsu, htau, hcmu, hpcp, hpck, hfsw, hhlc⟩ := started_units h
  have halloc := activeAlloc_congr hnvs
  constructor
  case runs => exact ⟨hpower, horigin.trans hnow.symm⟩
  case csu => exact hcsu
  case tau => rw [htau, halloc, hnow]; rfl
  case piu => rw [hnow, started_piu h]; rfl
  case engines =>
    intro i entry set
    have he : entry = (activeAlloc z).map (·.engines[i]) := by show (activeAlloc t).map _ = _; rw [halloc]
    rw [started_engine h i, hnow]
    simp only [set, he]
    cases activeAlloc z <;> rfl
  case lineups =>
    intro e r
    have hr : r = _ := started_engine_capped h e
    have hl : t.fau.lineup = u.lineup := by rw [started_fau h]
    rw [hr]
    exact ⟨by rw [hl], capOf_eq t e⟩
  case capless =>
    intro i hi
    rw [started_engine_other h i hi]
    exact ⟨rfl, rfl⟩
  case rudders =>
    intro i set
    rw [started_rudder h i, hnow]
    simp only [set, halloc]
    cases activeAlloc z <;> rfl
  case cmu =>
    intro units params couplings
    simp only [units, params, couplings, hcmu, activeMakeup_congr hnvs, activeCoupling_congr hnvs, hnow]
    exact cmu_afterReset ..
  case ports =>
    refine ⟨hpcp, hpck, ?_⟩
    exact h.told.port
  case fsw => rw [hfsw, activeWindow_congr hnvs, activeBank_congr hnvs]; rfl
  case hlc => rw [hhlc, hnow]; rfl
  case queues =>
    intro q
    rw [hhlc, activeWindow_congr hnvs]
    exact Vector.getElem_ofFn ..
  case mgu => rw [hnow]; exact started_mgu h
  case fau =>
    rw [hnow, started_fau h, hu]
  case tanks =>
    intro i entry set capacity reserve v
    have ht := (started_tank h i).trans (tankEvaluated_normal t i u.tanks[i].balance)
    have hv : u.tanks[i].balance = v := (congrArg Tank.balance ht).symm
    rw [hv] at ht
    exact ⟨congrArg Tank.overfull ht, congrArg Tank.state ht⟩
  case raised =>
    intro a j
    have hsat : t.fau.sat = u.sat := by rw [started_fau h]
    rw [h.raised, hsat]
    rfl
  case once => exact h.told.once
  case sticky => exact h.told.sticky
  case told => exact h.told.told

end Sys2Proof.Machine

/-! # The ends of the start-up scan and of a core reset (R118, R119, R130 to R133, R199) -/

namespace Sys2Proof.Machine

/-! ## The newest slot (R131) -/

/-- Among the slots of `l`, `r` is a valid one with the highest sequence, or none is valid. -/
structure IsNewest (slots : Vector Slot 8) (l : List (Fin 8)) (r : Option Newest) : Prop where
  none : r = none → ∀ i ∈ l, slotValid slots[i] = false
  some : ∀ n, r = some n → slotValid slots[n.slot] = true ∧ n.seq = slotSeq slots[n.slot] ∧
    ∀ i ∈ l, slotValid slots[i] = true → slotSeq slots[i] ≤ n.seq

/-- The better of a slot and the best before it. -/
def newer (slots : Vector Slot 8) (best : Option Newest) (i : Fin 8) : Option Newest :=
  if slotValid slots[i] then
    match best with
    | none => some ⟨i, slotSeq slots[i]⟩
    | some n => if n.seq < slotSeq slots[i] then some ⟨i, slotSeq slots[i]⟩ else best
  else best

theorem IsNewest.newer {slots : Vector Slot 8} {l : List (Fin 8)} {r : Option Newest} (h : IsNewest slots l r) (i : Fin 8) :
    IsNewest slots (l ++ [i]) (newer slots r i) := by
  have split : ∀ {p : Fin 8 → Prop}, (∀ j ∈ l, p j) → p i → ∀ j ∈ l ++ [i], p j := fun h1 h2 j hj =>
    (List.mem_append.1 hj).elim (h1 j) fun e => List.mem_singleton.1 e ▸ h2
  unfold Machine.newer
  by_cases hv : slotValid slots[i] = true
  · rw [if_pos hv]
    cases r with
    | none =>
      refine ⟨fun e => (nomatch e), fun n hn => ?_⟩
      obtain rfl := Option.some.inj hn
      refine ⟨hv, rfl, split (fun j hj hjv => ?_) fun _ => le_rfl⟩
      rw [h.none rfl j hj] at hjv
      exact nomatch hjv
    | some m =>
      obtain ⟨hm, hseq, hmax⟩ := h.some m rfl
      by_cases hlt : m.seq < slotSeq slots[i]
      · simp only [if_pos hlt]
        refine ⟨fun e => (nomatch e), fun n hn => ?_⟩
        obtain rfl := Option.some.inj hn
        exact ⟨hv, rfl, split (fun j hj hjv => (hmax j hj hjv).trans hlt.le) fun _ => le_rfl⟩
      · simp only [if_neg hlt]
        refine ⟨fun e => (nomatch e), fun n hn => ?_⟩
        obtain rfl := Option.some.inj hn
        exact ⟨hm, hseq, split hmax fun _ => Nat.not_lt.1 hlt⟩
  · rw [if_neg hv]
    refine ⟨fun e => split (h.none e) (Bool.eq_false_iff.2 hv), fun n hn => ?_⟩
    obtain ⟨hm, hseq, hmax⟩ := h.some n hn
    exact ⟨hm, hseq, split hmax fun x => absurd x hv⟩

theorem IsNewest.foldl {slots : Vector Slot 8} (l : List (Fin 8)) {done : List (Fin 8)} {r : Option Newest}
    (h : IsNewest slots done r) : IsNewest slots (done ++ l) (l.foldl (Machine.newer slots) r) := by
  induction l generalizing done r with
  | nil => rw [List.append_nil]; exact h
  | cons i l ih =>
    rw [List.append_cons]
    exact ih (h.newer i)

theorem newestSlot_isNewest (slots : Vector Slot 8) : IsNewest slots (List.finRange 8) (newestSlot slots) :=
  IsNewest.foldl (done := []) _ ⟨fun _ _ h => (List.not_mem_nil h).elim, fun _ h => nomatch h⟩

theorem newestSlot_none_iff (slots : Vector Slot 8) : newestSlot slots = none ↔ ∀ i : Fin 8, slotValid slots[i] = false := by
  refine ⟨fun h i => (newestSlot_isNewest slots).none h i (List.mem_finRange i), fun h => ?_⟩
  by_contra hn
  obtain ⟨n, hn⟩ := Option.ne_none_iff_exists'.1 hn
  have := ((newestSlot_isNewest slots).some n hn).1
  rw [h n.slot] at this
  exact nomatch this

theorem newestSlot_some {slots : Vector Slot 8} {n : Newest} (h : newestSlot slots = some n) :
    slotValid slots[n.slot] = true ∧ n.seq = slotSeq slots[n.slot] ∧
      ∀ i : Fin 8, slotValid slots[i] = true → slotSeq slots[i] ≤ n.seq := by
  obtain ⟨hv, hseq, hmax⟩ := (newestSlot_isNewest slots).some n h
  exact ⟨hv, hseq, fun i => hmax i (List.mem_finRange i)⟩

/-! ## The active banks and the locks (R130, R131) -/

section Active
variable {n : Nvs} {k : Kind}

theorem scanStore_active (n : Nvs) (k : Kind) : (scanStore n).active[kindIx k] = scanActive n.banks k := by
  cases k <;> rfl

theorem scanActive_none (ha : bankCandidate k n.banks[bankIx ⟨k, false⟩] = false)
    (hb : bankCandidate k n.banks[bankIx ⟨k, true⟩] = false) : scanActive n.banks k = none := by
  unfold scanActive
  simp only [ha, hb, Bool.false_eq_true, if_false]

theorem scanActive_one (b : Bool) (ha : bankCandidate k n.banks[bankIx ⟨k, b⟩] = true)
    (hb : bankCandidate k n.banks[bankIx ⟨k, !b⟩] = false) : scanActive n.banks k = some b := by
  unfold scanActive
  cases b with
  | false => simp only [ha, show bankCandidate k n.banks[bankIx ⟨k, true⟩] = false from hb, Bool.false_and,
      Bool.false_eq_true, if_true, if_false]
  | true => simp only [ha, show bankCandidate k n.banks[bankIx ⟨k, false⟩] = false from hb, Bool.false_eq_true, if_true, if_false]

theorem scanActive_both (ha : bankCandidate k n.banks[bankIx ⟨k, false⟩] = true)
    (hb : bankCandidate k n.banks[bankIx ⟨k, true⟩] = true) : scanActive n.banks k =
      some (decide (bankCommit n.banks[bankIx ⟨k, false⟩] < bankCommit n.banks[bankIx ⟨k, true⟩])) := by
  unfold scanActive
  by_cases h : bankCommit n.banks[bankIx ⟨k, false⟩] < bankCommit n.banks[bankIx ⟨k, true⟩]
  · simp only [ha, hb, h, decide_true, Bool.and_self, if_true]
  · simp only [ha, hb, h, decide_false, Bool.and_false, Bool.false_eq_true, if_true, if_false]

theorem scanStore_locked (b : Fin 10) : (scanStore n).locked[b] = true ↔ n.flags[b] ≠ .erased := by
  have : (scanStore n).locked[b] = (n.flags[b] != .erased) := Vector.getElem_map ..
  rw [this]
  exact bne_iff_ne

end Active

/-! ## The recovered accounts (R118, R119) -/

section Recovered
variable (f : Option FuelMap) (p : Option Snapshot) (now : Nat)

theorem afterSupply_table : (Fau.afterSupply f p now).table = f := by cases p <;> rfl
theorem afterSupply_meters : (Fau.afterSupply f p now).meters = firstMeters f now := by cases p <;> rfl

theorem afterSupply_fresh : Fau.afterSupply f p now = { Fau.afterSupply f p now with
    windowTimer := some (now + 60000 * Config.usPerMs), checkpointTimer := some (now + 60000 * Config.usPerMs),
    unknownMeter := 0, malformedMeter := 0, jump := 0, temperatureClamp := 0, carryBound := 0 } := by
  cases p <;> rfl

theorem afterSupply_account (e : Fin 4) : (Fau.afterSupply f p now).accounts[e] =
    { Account.initial with total := (Fau.afterSupply f p now).accounts[e].total } := by
  have same : ∀ a : Account, (∃ x, a = { Account.initial with total := x }) → a = { Account.initial with total := a.total } := by
    rintro _ ⟨x, rfl⟩; rfl
  apply same
  cases p with
  | none => exact ⟨0, Vector.getElem_replicate ..⟩
  | some p => exact ⟨p.totals[e], Vector.getElem_map ..⟩

theorem snapshotOf_afterSupply (p : Snapshot) : snapshotOf (Fau.afterSupply f (some p) now) p.closing = p := by
  have hb : (p.balances.map fun b => ({ balance := b, state := .normal, overfull := false } : Tank)).map (·.balance) = p.balances := by
    rw [Vector.map_map]; exact Vector.map_id _
  have ht : (p.totals.map fun t => { Account.initial with total := t }).map (·.total) = p.totals := by
    rw [Vector.map_map]; exact Vector.map_id _
  unfold snapshotOf Fau.afterSupply
  simp only [hb, ht]

end Recovered

theorem snapshotOf_congr {u v : Fau} (h : v = { u with tanks := v.tanks })
    (hb : ∀ i : Fin 8, v.tanks[i].balance = u.tanks[i].balance) (c : Bool) : snapshotOf v c = snapshotOf u c := by
  have ht : v.tanks.map (·.balance) = u.tanks.map (·.balance) := row_ext fun i =>
    (Vector.getElem_map ..).trans ((hb i).trans (Vector.getElem_map ..).symm)
  unfold snapshotOf
  rw [ht, h]

theorem tankEvaluated_balance (s : State) (i : Fin 8) (k : Tank) : (tankEvaluated s i k).balance = k.balance := by
  unfold tankEvaluated
  cases tankEntry s i <;> rfl

/-! ## The meter records of a table (R96, R118) -/

theorem markIgnored_length (e l : List MeterEntry) : (markIgnored e l).length = l.length := by
  induction l generalizing e with
  | nil => rfl
  | cons x l ih => exact congrArg (· + 1) (ih _)

theorem markIgnored_get (e l : List MeterEntry) (k : Nat) :
    (markIgnored e l)[k]? = l[k]?.map fun x => (x, ignoredAfter (e ++ l.take k) x) := by
  induction l generalizing e k with
  | nil => rfl
  | cons x l ih =>
    cases k with
    | zero => simp [markIgnored]
    | succ k => simp [markIgnored, ih]

theorem sameDuty_iff (a b : MeterRole) : sameDuty a b = true ↔ a = b ∧ ∀ x y, b ≠ .transfer x y := by
  unfold sameDuty
  cases a <;> cases b <;> simp

theorem ignoredAfter_iff (l : List MeterEntry) (k : Nat) (e : MeterEntry) : ignoredAfter (l.take k) e = true ↔
    ∃ j z, j < k ∧ l[j]? = some z ∧ (z.node = e.node ∨ (z.role = e.role ∧ ∀ a a', e.role ≠ .transfer a a')) := by
  have same : ∀ z : MeterEntry, (z.node == e.node || sameDuty z.role e.role) = true ↔
      (z.node = e.node ∨ (z.role = e.role ∧ ∀ a a', e.role ≠ .transfer a a')) := fun z => by
    rw [Bool.or_eq_true, beq_iff_eq, sameDuty_iff]
  unfold ignoredAfter
  simp only [List.any_eq_true, same, List.mem_iff_getElem?]
  constructor
  · rintro ⟨z, ⟨j, hj⟩, hz⟩
    rw [List.getElem?_take] at hj
    split at hj
    · rename_i hjk; exact ⟨j, z, hjk, hj, hz⟩
    · exact nomatch hj
  · rintro ⟨j, z, hjk, hj, hz⟩
    exact ⟨z, ⟨j, (List.getElem?_take_of_lt hjk).trans hj⟩, hz⟩

theorem usedMeters_eq (f : Option FuelMap) : usedMeters f =
    (f.elim [] (·.meters)).map fun e => { e with node := max 1 (min e.node 62) } := by
  cases f <;> rfl

theorem firstMeters_length (f : Option FuelMap) (now : Nat) : (firstMeters f now).length = (usedMeters f).length := by
  unfold firstMeters
  rw [List.length_map, markIgnored_length]

theorem firstMeters_get {f : Option FuelMap} {now k : Nat} {e : MeterEntry} (h : (usedMeters f)[k]? = some e) :
    (firstMeters f now)[k]? = some (newMeter e (ignoredAfter ((usedMeters f).take k) e) now) := by
  unfold firstMeters
  rw [List.getElem?_map, markIgnored_get, h]
  rfl

/-! ## The two ends -/

theorem started_balance {kept : Vector Bool 27} {gap : Option Subject} {u : Fau} {z t : State}
    (h : PartStarted kept gap (startBase kept u z) t) (i : Fin 8) : t.fau.tanks[i].balance = u.tanks[i].balance := by
  rw [started_tank h i, tankEvaluated_balance]

/-- The subject with which the scan's end raises ACCOUNT-GAP, by the slots it has read (R132). -/
def gapOf (n : Nvs) : Option Subject :=
  match n.newest with
  | none => some .none
  | some m => if (slotSnapshot n.slots[m.slot]).closing then none else some (.slot m.slot)

theorem accountGap_eq (s : State) : accountGap s = gapTold (gapOf s.nvs) s := by
  unfold accountGap gapOf
  cases s.nvs.newest with
  | none => rfl
  | some n =>
    by_cases h : (slotSnapshot s.nvs.slots[n.slot]).closing = true
    · simp only [h, if_true]; rfl
    · simp only [h, Bool.false_eq_true, if_false]; rfl

/-- The accounts that the scan hands over. -/
def scannedFau (s : State) : Fau :=
  let z := s.onNvs scanStore
  Fau.afterSupply (activeFuel z) (z.nvs.newest.map fun n => slotSnapshot z.nvs.slots[n.slot]) z.now

theorem endScan_started (s : State) : PartStarted (Vector.replicate 27 false) (gapOf (scanStore s.nvs))
    (startBase (Vector.replicate 27 false) (scannedFau s) (s.onNvs scanStore)) (endScan s) := by
  have started := fauStarts_started (startBase_only (Vector.replicate 27 false) (scannedFau s) (s.onNvs scanStore)) rfl
  have hnvs : (fauStarts (startBase (Vector.replicate 27 false) (scannedFau s) (s.onNvs scanStore))).nvs = scanStore s.nvs := by
    rw [started.rest]; rfl
  have heq : endScan s = accountGap (fauStarts (startBase (Vector.replicate 27 false) (scannedFau s) (s.onNvs scanStore))) := rfl
  rw [heq, accountGap_eq, hnvs]
  exact started.gap _

theorem endCoreReset_started (s : State) : PartStarted s.mgu.sticky none
    (startBase s.mgu.sticky (s.fau.afterCore s.now) (s.onNvs rereadSlots)) (endCoreReset s) := by
  have started := fauStarts_started (startBase_only s.mgu.sticky (s.fau.afterCore s.now) (s.onNvs rereadSlots)) rfl
  have heq : endCoreReset s = fauStarts (startBase s.mgu.sticky (s.fau.afterCore s.now) (s.onNvs rereadSlots)) := rfl
  rw [heq]
  exact started.gap none

theorem gapOf_iff (n : Nvs) (j : Subject) : gapOf n = some j ↔ (n.newest = none ∧ j = .none) ∨
    ∃ m, n.newest = some m ∧ (slotSnapshot n.slots[m.slot]).closing = false ∧ j = .slot m.slot := by
  unfold gapOf
  cases n.newest with
  | none =>
    refine ⟨fun h => .inl ⟨rfl, (Option.some.inj h).symm⟩, ?_⟩
    rintro (⟨-, rfl⟩ | ⟨m, h, -⟩)
    · rfl
    · exact nomatch h
  | some m =>
    by_cases h : (slotSnapshot n.slots[m.slot]).closing = true
    · simp only [if_pos h]
      refine ⟨fun x => (nomatch x), ?_⟩
      rintro (⟨x, -⟩ | ⟨m', hm, hc, -⟩)
      · exact nomatch x
      · obtain rfl := Option.some.inj hm
        rw [hc] at h
        exact nomatch h
    · simp only [if_neg h]
      refine ⟨fun x => .inr ⟨m, rfl, Bool.eq_false_iff.2 h, (Option.some.inj x).symm⟩, ?_⟩
      rintro (⟨x, -⟩ | ⟨m', hm, -, rfl⟩)
      · exact nomatch x
      · obtain rfl := Option.some.inj hm
        rfl

theorem scannedFau_some {s : State} {n : Newest} (h : newestSlot s.nvs.slots = some n) : scannedFau s =
    Fau.afterSupply (activeFuel (s.onNvs scanStore)) (some (slotSnapshot s.nvs.slots[n.slot])) s.now := by
  have hz : (s.onNvs scanStore).nvs.newest = some n := h
  unfold scannedFau
  dsimp only
  rw [hz]
  rfl

theorem scannedFau_none {s : State} (h : newestSlot s.nvs.slots = none) :
    scannedFau s = Fau.afterSupply (activeFuel (s.onNvs scanStore)) none s.now := by
  have hz : (s.onNvs scanStore).nvs.newest = none := h
  unfold scannedFau
  dsimp only
  rw [hz]
  rfl

theorem alarmIx_surjective (i : Fin 27) : ∃ a, alarmIx a = i := by
  have order : ∀ i : Fin 27, alarmIx (alarmOrder.getD i.val .commandStale) = i := by decide
  exact ⟨_, order i⟩

/-- The end of a core reset acts in a core reset whose pin is released. -/
theorem exec_coreResetEnd (s : State) : exec .coreResetEnd s =
    .next (if s.power = .coreReset ∧ s.resetPin = false then endCoreReset s else s) := by
  have rows : ∀ p, s.power = p →
      (match p with
        | .coreReset => if s.resetPin then s else endCoreReset s
        | .off | .scan | .run => s) = if s.power = .coreReset ∧ s.resetPin = false then endCoreReset s else s := fun p hp => by
    cases p with
    | coreReset => rw [hp]; cases s.resetPin <;> simp
    | off | scan | run => rw [hp]; simp
  exact congrArg Host.Outcome.next (rows _ rfl)

/-- The end of the scan acts in a scan; a pin asserted meanwhile starts a core reset. -/
theorem exec_startUpScanEnd (s : State) : exec .startUpScanEnd s =
    .next (if s.power = .scan then if s.resetPin = true then startCoreReset (endScan s) else endScan s else s) := by
  have rows : ∀ p, s.power = p →
      (match p with
        | .scan => if s.resetPin then startCoreReset (endScan s) else endScan s
        | .off | .run | .coreReset => s) =
          if s.power = .scan then if s.resetPin = true then startCoreReset (endScan s) else endScan s else s := fun p hp => by
    cases p with
    | scan => rw [if_pos hp]
    | off | run | coreReset => rw [hp]; simp
  exact congrArg Host.Outcome.next (rows _ rfl)

/-- Settles O10. -/
theorem coreResetEnds : Obligations.CoreResetEnds := by
  unfold Obligations.CoreResetEnds
  refine ⟨fun s hs => ?_, fun s hs hp => ?_, fun s hs hp => ?_⟩
  · rw [exec_coreResetEnd, if_neg fun x => hs x.1]
  · rw [exec_coreResetEnd, if_neg fun x => by rw [hp] at x; exact nomatch x.2]
  rw [exec_coreResetEnd, if_pos ⟨hs, hp⟩]
  have h := endCoreReset_started s
  generalize endCoreReset s = t at h ⊢
  obtain ⟨hpower, horigin, hnow, hrole, -, hnvs, -⟩ := started_units h
  have hnew : t.nvs.newest = newestSlot s.nvs.slots := by rw [hnvs]; rfl
  have hfau := started_fau h
  refine ⟨t, rfl, hpower, hrole, hnow, horigin, hnvs, ?_, fun n hn => ?_, unitsStart h rfl,
    fun i => started_balance h i, fun e => ?_, ?_, ?_, ?_, ?_, ?_, fun i hi => ?_, fun j => ?_⟩
  · rw [hnew]; exact newestSlot_none_iff _
  · exact newestSlot_some (hnew.symm.trans hn)
  · rw [hfau]; exact Vector.getElem_ofFn ..
  · rw [hfau]; rfl
  · rw [hfau]; rfl
  · rw [hfau]; rfl
  · rw [hfau]; rfl
  · rw [hfau]; rfl
  · obtain ⟨a, rfl⟩ := alarmIx_surjective i
    exact (h.told.sticky a).2 (.inl hi)
  · rw [Bool.eq_false_iff, ne_eq, h.raised]
    simp [TankCalls]

/-- Settles O9. -/
theorem scanTakesStore : Obligations.ScanTakesStore := by
  unfold Obligations.ScanTakesStore
  refine ⟨fun s hs => ?_, fun s hs hp => ⟨startCoreReset (endScan s), ?_, rfl, ?_⟩, fun s hs hp => ?_⟩
  · rw [exec_startUpScanEnd, if_neg hs]
  · rw [exec_startUpScanEnd, if_pos hs, if_pos hp]
  · exact ((Keeps.refl s).endScan hs).startCoreReset.reaches.resetPin.trans hp
  rw [exec_startUpScanEnd, if_pos hs, if_neg (by rw [hp]; exact Bool.false_ne_true)]
  have h := endScan_started s
  generalize endScan s = t at h ⊢
  obtain ⟨hpower, horigin, hnow, hrole, -, hnvs, -⟩ := started_units h
  have hnew : t.nvs.newest = newestSlot s.nvs.slots := by rw [hnvs]; rfl
  have hactive : ∀ k, t.nvs.active[kindIx k] = scanActive s.nvs.banks k := fun k => by
    rw [hnvs]; exact scanStore_active s.nvs k
  have hfuel : activeFuel t = activeFuel (s.onNvs scanStore) := activeFuel_congr hnvs
  have hfau := started_fau h
  have hgap : gapOf (scanStore s.nvs) = gapOf t.nvs := by rw [hnvs]; rfl
  have hunits := unitsStart h (afterSupply_fresh ..)
  rw [hgap] at hunits
  refine ⟨t, rfl, hpower, hrole, hnow, horigin, ?_, fun k ha hb => ?_, fun k b ha hb => ?_, fun k ha hb => ?_,
    fun b => ?_, ?_, fun n hn => ?_, hunits, ?_, fun n hn => ?_, fun hn => ⟨fun i => ?_, fun e => ?_, ?_, ?_, ?_⟩, fun e => ?_, ?_, fun j => ?_⟩
  · rw [hnvs]; rfl
  · rw [hactive]; exact scanActive_none ha hb
  · rw [hactive]; exact scanActive_one b ha hb
  · rw [hactive]; exact scanActive_both ha hb
  · rw [hnvs]; exact scanStore_locked b
  · rw [hnew]; exact newestSlot_none_iff _
  · exact newestSlot_some (hnew.symm.trans hn)
  · rw [hfau, hfuel]; exact afterSupply_table ..
  · have hu := scannedFau_some (hnew.symm.trans hn)
    have hslots : t.nvs.slots = s.nvs.slots := by rw [hnvs]; rfl
    rw [snapshotOf_congr hfau (started_balance h), hu, hslots, snapshotOf_afterSupply]
  · rw [started_balance h, scannedFau_none (hnew.symm.trans hn)]
    exact congrArg Tank.balance (Vector.getElem_replicate ..)
  · rw [hfau, scannedFau_none (hnew.symm.trans hn)]
    exact congrArg Account.total (Vector.getElem_replicate ..)
  · rw [hfau, scannedFau_none (hnew.symm.trans hn)]; rfl
  · rw [hfau, scannedFau_none (hnew.symm.trans hn)]; rfl
  · rw [hfau, scannedFau_none (hnew.symm.trans hn), hfuel]; rfl
  · rw [hfau]; exact afterSupply_account ..
  · intro entries
    have hmeters : t.fau.meters = firstMeters (activeFuel t) s.now := by
      rw [hfau, hfuel]; exact afterSupply_meters ..
    have hentries : usedMeters (activeFuel t) = entries := usedMeters_eq _
    rw [hmeters]
    refine ⟨(firstMeters_length _ _).trans (congrArg _ hentries), fun k e he => ?_⟩
    intro ignored fresh
    have hget := firstMeters_get (f := activeFuel t) (now := s.now) (hentries.symm ▸ he)
    rw [hentries] at hget
    refine ⟨fun hi => ?_, fun hi => ?_⟩
    · rw [hget, Bool.eq_false_iff.2 fun x => hi ((ignoredAfter_iff _ _ _).1 x)]
      rfl
    · rw [hget, (ignoredAfter_iff _ _ _).2 hi]
      rfl
  · rw [h.raised, hgap, gapOf_iff]
    simp [TankCalls]

end Sys2Proof.Machine

/-! # The STATION-STATUS frames that an effect hands to the queue of class 12 (R14, R138) -/

namespace Sys2Proof.Machine

/-- Station, outcome and detail of each STATION-STATUS frame of a part of a queue. -/
def shown (l : List TxEntry) : List (Option Byte × Option Byte × Option Byte) :=
  ((l.map (·.frame)).filter fun f => f.cls == 12 && f.kind == 1).map fun f => (f.payload[0]?, f.payload[5]?, f.payload[6]?)

theorem shown_append (l m : List TxEntry) : shown (l ++ m) = shown l ++ shown m := by simp [shown]

theorem shown_of_class {f : Frame} (o : Origin) (h : f.cls ≠ 12) : shown [⟨f, o⟩] = [] := by
  have e : (f.cls == 12 && f.kind == 1) = false := by rw [beq_eq_false_iff_ne.2 h, Bool.false_and]
  unfold shown
  rw [List.map_singleton, List.filter_singleton, e]
  rfl

/-- From `s` to `t` the STATION-STATUS frames `L` were handed to the PCW: all of them stand in the queue of class 12 when the port
takes frames and the queue is not full at the end. -/
structure Reported (s t : State) (L : List (Option Byte × Option Byte × Option Byte)) : Prop where
  state : t.pcw.state = s.pcw.state
  fsw : t.fsw = s.fsw
  frames : s.pcw.state ≠ .isolated → t.pcw.tx[classQueue s .w 12].length < 16 →
    ∃ new, t.pcw.tx[classQueue s .w 12] = s.pcw.tx[classQueue s .w 12] ++ new ∧ shown new = L

section Reports
variable {s t u : State} {L M : List (Option Byte × Option Byte × Option Byte)}

theorem classQueue_congr (h : t.fsw = s.fsw) (n : PortName) (c : BitVec 4) : classQueue t n c = classQueue s n c := by
  unfold classQueue; rw [h]

/-- A change that leaves the port and the switch alone hands nothing. -/
theorem Reported.silent (hp : t.pcw = s.pcw) (hf : t.fsw = s.fsw) : Reported s t [] :=
  ⟨by rw [hp], hf, fun _ _ => ⟨[], by rw [hp, List.append_nil], rfl⟩⟩

theorem Reported.trans (h : Reported s t L) (k : Reported t u M) : Reported s u (L ++ M) := by
  have hq := classQueue_congr h.fsw .w 12
  refine ⟨k.state.trans h.state, k.fsw.trans h.fsw, fun hi hl => ?_⟩
  obtain ⟨b, hb, hM⟩ := k.frames (by rw [h.state]; exact hi) (by simp only [hq]; exact hl)
  simp only [hq] at hb
  have hlt : t.pcw.tx[classQueue s .w 12].length < 16 := by
    rw [hb, List.length_append] at hl; omega
  obtain ⟨a, ha, hL⟩ := h.frames hi hlt
  exact ⟨a ++ b, by rw [hb, ha, List.append_assoc], by rw [shown_append, hL, hM]⟩

theorem Reported.after_silent (h : Reported t u L) (hp : t.pcw = s.pcw) (hf : t.fsw = s.fsw) : Reported s u L :=
  (Reported.silent hp hf).trans h

/-- A frame handed to W: a STATION-STATUS frame shows itself, and no other frame does. -/
theorem handPort_reported (s : State) (f : Frame) (o : Origin) : Reported s (handPort .w f o s).1 (shown [⟨f, o⟩]) := by
  have full : ∀ g : PortCtl → PortCtl, (∀ c, (g c).state = c.state) → (∀ c, (g c).tx = c.tx) →
      (s.pcw.state = .isolated ∨ 16 ≤ s.pcw.tx[classQueue s .w f.cls].length) →
      Reported s { s with pcw := g s.pcw } (shown [⟨f, o⟩]) := fun g hs ht h => by
    refine ⟨hs _, rfl, fun hi hl => ?_⟩
    rw [show ({ s with pcw := g s.pcw } : State).pcw.tx = s.pcw.tx from ht _] at hl ⊢
    refine ⟨[], by rw [List.append_nil], ?_⟩
    rw [shown_of_class o fun e => ?_]
    · rfl
    · simp only [e] at h
      exact Nat.not_lt.2 (h.resolve_left hi) hl
  unfold handPort
  dsimp only
  split
  · rename_i e
    exact full (fun c => { c with flushDrop := satInc c.flushDrop }) (fun _ => rfl) (fun _ => rfl) (.inl e)
  · split
    · refine ⟨rfl, rfl, fun _ _ => ?_⟩
      show ∃ new, (updAt s.pcw.tx (classQueue s .w f.cls) _)[classQueue s .w 12] = _ ∧ _
      rw [updAt_getFin]
      split
      · exact ⟨_, rfl, rfl⟩
      · rename_i e
        refine ⟨[], by rw [List.append_nil], ?_⟩
        rw [shown_of_class o fun x => e (by rw [x])]
        rfl
    · rename_i e
      exact full (fun c => { c with txDrop := updAt c.txDrop (classQueue s .w f.cls) satInc }) (fun _ => rfl) (fun _ => rfl)
        (.inr (Nat.not_lt.1 e))

theorem Reported.then_silent (h : Reported s t L) (hp : u.pcw = t.pcw) (hf : u.fsw = t.fsw) : Reported s u L := by
  have := h.trans (Reported.silent hp hf)
  rwa [List.append_nil] at this

theorem handStatus_reported (s : State) (f : Frame) : Reported s (handStatus f s) (shown [⟨f, .mgu⟩]) := by
  have h := handPort_reported s f .mgu
  unfold handStatus
  revert h
  generalize handPort .w f .mgu s = r
  obtain ⟨t, b⟩ := r
  intro h
  cases b
  · exact h.then_silent rfl rfl
  · exact h

theorem handResponse_reported (s : State) (f : Frame) (o : Origin) : Reported s (handResponse o f s).1 (shown [⟨f, o⟩]) := by
  have h := handPort_reported s f o
  unfold handResponse
  revert h
  generalize handPort .w f o s = r
  obtain ⟨t, b⟩ := r
  intro h
  cases b
  · exact h.then_silent rfl rfl
  · exact h

/-- The triple that a STATION-STATUS frame shows. -/
def statusShown (x : Byte × StatusOutcome × Byte) : Option Byte × Option Byte × Option Byte :=
  (some x.1, some (outcomeByte x.2.1), some x.2.2)

theorem reportStatus_reported (s : State) (st : Option (Fin 4)) (o : StatusOutcome) (d : Byte) :
    Reported s (reportStatus st o d s) [statusShown (st.elim 255 (fun i => byteOf i.val), o, d)] :=
  handStatus_reported s (statusFrame st o d s)

theorem report_reported (s : State) (i : Fin 4) (o : StatusOutcome) :
    Reported s (report i o s) [statusShown (byteOf i.val, o, 255)] :=
  reportStatus_reported s (some i) o 255

theorem raiseAlarm_reported (s : State) (a : Alarm) (j : Subject) : Reported s (raiseAlarm a j s) [] := by
  unfold raiseAlarm
  split
  · exact .silent rfl rfl
  · exact Reported.after_silent (handStatus_reported _ _) rfl rfl

theorem clearAlarm_reported (s : State) (a : Alarm) (j : Subject) : Reported s (clearAlarm a j s) [] := by
  unfold clearAlarm
  split
  · exact Reported.after_silent (handStatus_reported _ _) rfl rfl
  · exact .silent rfl rfl

theorem Reported.foldl_silent {α : Type} {f : State → α → State} (l : List α) (hf : ∀ x ∈ l, ∀ s, Reported s (f s x) []) (s : State) :
    Reported s (l.foldl f s) [] := by
  induction l generalizing s with
  | nil => exact .silent rfl rfl
  | cons x l ih =>
    exact (hf x List.mem_cons_self s).trans (ih (fun y hy => hf y (List.mem_cons_of_mem _ hy)) _)

theorem clearAllOf_reported (s : State) (a : Alarm) : Reported s (clearAllOf a s) [] :=
  Reported.foldl_silent _ (fun j _ s => clearAlarm_reported s a j) s

theorem respond_reported (s : State) (node : Node) (kind : Nat) (a : Answer) (data : List Byte) :
    Reported s (respond node kind a data s) [] := by
  refine Reported.foldl_silent _ (fun f hf s => ?_) s
  have hc : f.cls = 9 := by
    obtain ⟨i, -, rfl⟩ := List.mem_map.1 hf
    rfl
  have := handResponse_reported s f .mgu
  rwa [shown_of_class .mgu (by rw [hc]; decide)] at this

theorem armEnded_reported (s : State) : Reported s (armEnded s) (match s.cmu.release with
    | .armed st k _ _ => [statusShown (byteOf st.val, .armCancelled, byteOf k)]
    | .idle => []
    | .releasing _ _ _ _ _ => []) := by
  unfold armEnded
  cases s.cmu.release with
  | idle => exact .silent rfl rfl
  | releasing => exact .silent rfl rfl
  | armed st k _ _ =>
    exact Reported.after_silent (reportStatus_reported _ (some st) _ _) rfl rfl

end Reports

end Sys2Proof.Machine

/-! # The swap of an ALLOC table at the stations (R1, R90, R194) -/

namespace Sys2Proof.Machine

/-! ## One station removed -/

/-- A station removed, from `x`: the CSU that is left, whether command has ended with it, and the STATION-STATUS frames. -/
structure Removed (x y : State) (c : Csu) (ends : Bool) (L : List (Byte × StatusOutcome × Byte)) : Prop where
  told : Told { x with csu := c, cmu := { x.cmu with release := if ends then x.cmu.release.disarmed else x.cmu.release } } y
  alarms : ∀ a j, isRaised a j y = true ↔ isRaised a j x = true ∧ ¬(ends = true ∧ a = .commandStale)
  reports : Reported x y (L.map statusShown)

/-- The stations with one of them at its reset values. -/
def stationsWithout (c : Csu) (i : Fin 4) : Vector Station 4 := updAt c.stations i fun _ => Station.initial

/-- The CSU when the station in command is removed. -/
def csuWithoutHolder (i : Fin 4) (c : Csu) : Csu :=
  let base : Csu := { c with stations := stationsWithout c i, inCommand := none, dStar := 0, tStar := 0, phase := .fresh, staleHold := none }
  match c.request with
  | none => base
  | some q => { base with stations := updAt base.stations q ({ · with state := .present }), request := none, transfer := none }

/-- The frames of a pending request that ends, and of an arm that ends. -/
def cancelReports (r : Option (Fin 4)) : List (Byte × StatusOutcome × Byte) :=
  match r with
  | none => []
  | some q => [(byteOf q.val, .cancelled, 255)]

def armReports (r : Release) : List (Byte × StatusOutcome × Byte) :=
  match r with
  | .armed st k _ _ => [(byteOf st.val, .armCancelled, byteOf k)]
  | .idle => []
  | .releasing _ _ _ _ _ => []

section Remove
variable {x : State} {i : Fin 4}

theorem alarms_kept {y : State} {a : Alarm} {j : Subject} (h : isRaised a j y = isRaised a j x) :
    isRaised a j y = true ↔ isRaised a j x = true ∧ ¬(false = true ∧ a = .commandStale) := by
  rw [h, and_iff_left]
  exact fun e => Bool.false_ne_true e.1

theorem armEnded_reports (x : State) : Reported x (armEnded x) ((armReports x.cmu.release).map statusShown) := by
  have h := armEnded_reported x
  unfold armReports
  revert h
  cases x.cmu.release <;> exact id

theorem removeStation_absent (h : x.csu.stations[i].state = .absent) :
    Removed x (removeStation i x) { x.csu with stations := stationsWithout x.csu i } false [] := by
  have e : removeStation i x = onStation i (fun _ => Station.initial) x := by unfold removeStation; dsimp only; rw [h]
  rw [e]
  exact ⟨.refl _, fun _ _ => alarms_kept rfl, .silent rfl rfl⟩

theorem removeStation_present (h : x.csu.stations[i].state = .present) :
    Removed x (removeStation i x) { x.csu with stations := stationsWithout x.csu i } false [(byteOf i.val, .removed, 255)] := by
  have e : removeStation i x = report i .removed (onStation i (fun _ => Station.initial) x) := by unfold removeStation; dsimp only; rw [h]
  rw [e]
  exact ⟨report_told _ _ _, fun _ _ => alarms_kept (isRaised_report ..), Reported.after_silent (report_reported _ _ _) rfl rfl⟩

theorem removeStation_requesting (h : x.csu.stations[i].state = .requesting) :
    Removed x (removeStation i x)
      { x.csu with stations := stationsWithout x.csu i, request := none, transfer := none } false
      [(byteOf i.val, .cancelled, 255), (byteOf i.val, .removed, 255)] := by
  have e : removeStation i x = report i .removed (report i .cancelled
      ((onStation i (fun _ => Station.initial) x).onCsu fun c => { c with request := none, transfer := none })) := by
    unfold removeStation; dsimp only; rw [h]
  rw [e]
  exact ⟨(report_told _ _ _).trans (report_told _ _ _), fun _ _ => alarms_kept ((isRaised_report ..).trans (isRaised_report ..)),
    Reported.after_silent ((report_reported _ _ _).trans (report_reported _ _ _)) rfl rfl⟩

/-- Command has ended, before a pending request does. -/
def commandEnded (i : Fin 4) (x : State) : State :=
  endStale ((onStation i (fun _ => Station.initial) x).onCsu fun c => { c with inCommand := none, dStar := 0, tStar := 0 })

theorem commandEnded_told (i : Fin 4) (x : State) : Told
    { x with csu := { x.csu with stations := stationsWithout x.csu i, inCommand := none, dStar := 0, tStar := 0,
                                 phase := .fresh, staleHold := none } } (commandEnded i x) :=
  clearAllOf_told _ _

theorem commandEnded_csu (i : Fin 4) (x : State) : (commandEnded i x).csu =
    { x.csu with stations := stationsWithout x.csu i, inCommand := none, dStar := 0, tStar := 0, phase := .fresh,
                 staleHold := none } := by
  rw [(commandEnded_told i x).rest]

theorem isRaised_commandEnded (a : Alarm) (j : Subject) :
    isRaised a j (commandEnded i x) = true ↔ isRaised a j x = true ∧ a ≠ .commandStale :=
  isRaised_clearAllOf _ _ _ _

/-- A pending request ends by the removal of another station. -/
def requestCancelled (s : State) : State :=
  match s.csu.request with
  | none => s
  | some q => report q .cancelled (endRequest q .present s)

theorem removeStation_inCommand (h : x.csu.stations[i].state = .inCommand) :
    removeStation i x = armEnded (report i .removed (requestCancelled (commandEnded i x))) := by
  unfold removeStation
  dsimp only
  rw [h, ← cancelArm_eq]
  rfl

theorem csuWithoutHolder_none {c : Csu} (h : c.request = none) : csuWithoutHolder i c =
    { c with stations := stationsWithout c i, inCommand := none, dStar := 0, tStar := 0, phase := .fresh, staleHold := none } := by
  unfold csuWithoutHolder
  rw [h]

theorem csuWithoutHolder_some {c : Csu} {q : Fin 4} (h : c.request = some q) : csuWithoutHolder i c =
    { c with stations := updAt (stationsWithout c i) q ({ · with state := .present }), inCommand := none, dStar := 0, tStar := 0,
             phase := .fresh, staleHold := none, request := none, transfer := none } := by
  unfold csuWithoutHolder
  rw [h]

/-- What the end of a pending request gives after command has ended. -/
theorem requestCancelled_ended (i : Fin 4) (x : State) :
    Told { x with csu := csuWithoutHolder i x.csu } (requestCancelled (commandEnded i x)) ∧
    (∀ a j, isRaised a j (requestCancelled (commandEnded i x)) = isRaised a j (commandEnded i x)) ∧
    Reported x (requestCancelled (commandEnded i x)) ((cancelReports x.csu.request).map statusShown) := by
  have told := commandEnded_told i x
  have hcsu := commandEnded_csu i x
  have silent : Reported x (commandEnded i x) [] := Reported.after_silent (clearAllOf_reported _ _) rfl rfl
  revert told hcsu silent
  generalize commandEnded i x = y
  intro told hcsu silent
  have hq : y.csu.request = x.csu.request := by rw [hcsu]
  cases hr : x.csu.request with
  | none =>
    have e : requestCancelled y = y := by unfold requestCancelled; rw [hq, hr]
    rw [e, csuWithoutHolder_none hr]
    exact ⟨told, fun _ _ => rfl, silent⟩
  | some q =>
    have e : requestCancelled y = report q .cancelled (endRequest q .present y) := by unfold requestCancelled; rw [hq, hr]
    rw [e, csuWithoutHolder_some hr]
    refine ⟨?_, fun a j => isRaised_report .., ?_⟩
    · refine Told.trans ?_ (report_told _ _ _)
      have := told.onCsu fun c => { c with
        stations := updAt c.stations q ({ · with state := .present }), request := none, transfer := none }
      exact this
    · exact silent.trans (Reported.after_silent (report_reported _ _ _) rfl rfl)

theorem removeStation_holder (h : x.csu.stations[i].state = .inCommand) :
    Removed x (removeStation i x) (csuWithoutHolder i x.csu) true
      (cancelReports x.csu.request ++ (byteOf i.val, .removed, 255) :: armReports x.cmu.release) := by
  obtain ⟨told, alarms, reports⟩ := requestCancelled_ended i x
  rw [removeStation_inCommand h]
  refine ⟨(told.trans (report_told _ _ _)).armEnded, fun a j => ?_, ?_⟩
  · rw [isRaised_armEnded, isRaised_report, alarms, isRaised_commandEnded]
    simp
  · have hrel : (report i .removed (requestCancelled (commandEnded i x))).cmu.release = x.cmu.release := by
      rw [report_cmu, told.rest]
    have := (reports.trans (report_reported _ i .removed)).trans (armEnded_reports _)
    rw [hrel] at this
    rw [List.map_append, List.map_cons]
    simpa using this

end Remove

/-! ## The CSU while the stations are swapped in order -/

section Order
variable (s : State)

/-- Command has ended once the stations before the `k`-th are swapped. -/
def goneBy (k : Nat) : Bool := s.csu.inCommand.any fun h => decide (h.val < k) && stationReplaced s h

/-- The pending request has ended by then. -/
def endedBy (k : Nat) : Bool := s.csu.request.any fun q => (decide (q.val < k) && stationReplaced s q) || goneBy s k

/-- The station in command stays and becomes an AUTOPILOT. -/
def turnsAutopilot (i : Fin 4) : Bool :=
  !stationReplaced s i && (stationOf s i).kind == .manual && (activeAlloc s).any (·.stations[i].kind == .autopilot)

def turnedBy (k : Nat) : Bool := s.csu.inCommand.any fun h => decide (h.val < k) && turnsAutopilot s h

def stationsAt (k : Nat) : Vector Station 4 := Vector.ofFn fun j =>
  if decide (j.val < k) && stationReplaced s j then Station.initial
  else if s.csu.request = some j ∧ goneBy s k = true then { s.csu.stations[j] with state := .present }
  else s.csu.stations[j]

/-- The CSU with what has ended given. -/
def csuWith (v : Vector Station 4) (gone ended turned : Bool) : Csu :=
  { s.csu with
    stations := v,
    inCommand := if gone then none else s.csu.inCommand,
    phase := if gone then .fresh else s.csu.phase,
    staleHold := if gone then none else s.csu.staleHold,
    dStar := if gone then 0 else s.csu.dStar,
    tStar := if gone then 0 else s.csu.tStar,
    request := if ended then none else s.csu.request,
    transfer := if ended then none else s.csu.transfer,
    dAp := if turned then s.csu.dStar else s.csu.dAp }

/-- The CSU once the stations before the `k`-th are swapped. -/
def csuAt (k : Nat) : Csu := csuWith s (stationsAt s k) (goneBy s k) (endedBy s k) (turnedBy s k)

variable {s} {i : Fin 4}

theorem goneBy_iff (k : Nat) : goneBy s k = true ↔ ∃ h, s.csu.inCommand = some h ∧ h.val < k ∧ stationReplaced s h = true := by
  simp [goneBy, Option.any_eq_true]

theorem endedBy_iff (k : Nat) : endedBy s k = true ↔
    ∃ q, s.csu.request = some q ∧ ((q.val < k ∧ stationReplaced s q = true) ∨ goneBy s k = true) := by
  simp [endedBy, Option.any_eq_true]

theorem turnedBy_iff (k : Nat) : turnedBy s k = true ↔ ∃ h, s.csu.inCommand = some h ∧ h.val < k ∧ turnsAutopilot s h = true := by
  simp [turnedBy, Option.any_eq_true]

theorem stationsAt_get (k : Nat) (j : Fin 4) : (stationsAt s k)[j] =
    if decide (j.val < k) && stationReplaced s j then Station.initial
    else if s.csu.request = some j ∧ goneBy s k = true then { s.csu.stations[j] with state := .present }
    else s.csu.stations[j] := Vector.getElem_ofFn ..

/-- At a station that does not end command, what has ended is as before. -/
theorem goneBy_succ_of (h : s.csu.inCommand ≠ some i ∨ stationReplaced s i = false) : goneBy s (i.val + 1) = goneBy s i.val := by
  rw [Bool.eq_iff_iff, goneBy_iff, goneBy_iff]
  refine exists_congr fun e => and_congr_right fun he => and_congr_left fun hr => ?_
  have hne : e ≠ i := by
    rintro rfl
    rcases h with h | h
    · exact h he
    · rw [h] at hr; exact Bool.false_ne_true hr
  have : e.val ≠ i.val := fun x => hne (Fin.ext x)
  omega

theorem endedBy_succ_of (hg : goneBy s (i.val + 1) = goneBy s i.val)
    (h : s.csu.request ≠ some i ∨ stationReplaced s i = false) : endedBy s (i.val + 1) = endedBy s i.val := by
  rw [Bool.eq_iff_iff, endedBy_iff, endedBy_iff, hg]
  refine exists_congr fun e => and_congr_right fun he => or_congr_left (and_congr_left fun hr => ?_)
  have hne : e ≠ i := by
    rintro rfl
    rcases h with h | h
    · exact h he
    · rw [h] at hr; exact Bool.false_ne_true hr
  have : e.val ≠ i.val := fun x => hne (Fin.ext x)
  omega

theorem turnedBy_succ_of (h : s.csu.inCommand ≠ some i ∨ turnsAutopilot s i = false) :
    turnedBy s (i.val + 1) = turnedBy s i.val := by
  rw [Bool.eq_iff_iff, turnedBy_iff, turnedBy_iff]
  refine exists_congr fun e => and_congr_right fun he => and_congr_left fun hr => ?_
  have hne : e ≠ i := by
    rintro rfl
    rcases h with h | h
    · exact h he
    · rw [h] at hr; exact Bool.false_ne_true hr
  have : e.val ≠ i.val := fun x => hne (Fin.ext x)
  omega

theorem not_goneBy_holder (h : s.csu.inCommand = some i) : goneBy s i.val = false := by
  rw [Bool.eq_false_iff, ne_eq, goneBy_iff]
  rintro ⟨e, he, hlt, -⟩
  obtain rfl := Option.some.inj (h.symm.trans he)
  exact Nat.lt_irrefl _ hlt

theorem goneBy_holder (h : s.csu.inCommand = some i) (hr : stationReplaced s i = true) : goneBy s (i.val + 1) = true :=
  (goneBy_iff _).2 ⟨i, h, Nat.lt_succ_self _, hr⟩

theorem turnsAutopilot_replaced (h : stationReplaced s i = true) : turnsAutopilot s i = false := by
  unfold turnsAutopilot; rw [h]; rfl

/-! ### One station -/

/-- A station kept. -/
theorem stationsAt_kept (hr : stationReplaced s i = false) : stationsAt s (i.val + 1) = stationsAt s i.val := by
  have hg := goneBy_succ_of (s := s) (i := i) (.inr hr)
  refine row_ext fun j => ?_
  rw [stationsAt_get, stationsAt_get, hg]
  by_cases e : j = i
  · subst e; rw [hr, Bool.and_false, Bool.and_false]
  · have : j.val ≠ i.val := fun x => e (Fin.ext x)
    rw [show decide (j.val < i.val + 1) = decide (j.val < i.val) from decide_eq_decide.2 (by omega)]

/-- A station removed that does not end command. -/
theorem stationsAt_removed (hr : stationReplaced s i = true) (hi : s.csu.inCommand ≠ some i) :
    stationsAt s (i.val + 1) = updAt (stationsAt s i.val) i fun _ => Station.initial := by
  have hg := goneBy_succ_of (s := s) (i := i) (.inl hi)
  refine row_ext fun j => ?_
  rw [updAt_getFin, stationsAt_get, stationsAt_get, hg]
  by_cases e : i = j
  · subst e; rw [hr, if_pos rfl, if_pos (by simp)]
  · have : j.val ≠ i.val := fun x => e (Fin.ext x.symm)
    rw [if_neg e, show decide (j.val < i.val + 1) = decide (j.val < i.val) from decide_eq_decide.2 (by omega)]

/-- The station in command removed with no request pending any more. -/
theorem stationsAt_holder_alone (hr : stationReplaced s i = true) (hi : s.csu.inCommand = some i)
    (hq : ∀ q, s.csu.request = some q → q.val < i.val ∧ stationReplaced s q = true) :
    stationsAt s (i.val + 1) = updAt (stationsAt s i.val) i fun _ => Station.initial := by
  refine row_ext fun j => ?_
  rw [updAt_getFin, stationsAt_get, stationsAt_get, goneBy_holder hi hr, not_goneBy_holder hi]
  by_cases e : i = j
  · subst e; rw [hr, if_pos rfl, if_pos (by simp)]
  · have : j.val ≠ i.val := fun x => e (Fin.ext x.symm)
    rw [if_neg e, show decide (j.val < i.val + 1) = decide (j.val < i.val) from decide_eq_decide.2 (by omega)]
    by_cases hj : (decide (j.val < i.val) && stationReplaced s j) = true
    · rw [if_pos hj, if_pos hj]
    · rw [if_neg hj, if_neg hj, if_neg, if_neg (fun x => Bool.false_ne_true x.2)]
      rintro ⟨x, -⟩
      obtain ⟨h1, h2⟩ := hq j x
      exact hj (by rw [h2, decide_eq_true h1]; rfl)

/-- The station in command removed while the request of another is pending. -/
theorem stationsAt_holder_request {q : Fin 4} (hr : stationReplaced s i = true) (hi : s.csu.inCommand = some i)
    (hq : s.csu.request = some q) (hqi : q ≠ i) (hnot : ¬(q.val < i.val ∧ stationReplaced s q = true)) :
    stationsAt s (i.val + 1) =
      updAt (updAt (stationsAt s i.val) i fun _ => Station.initial) q ({ · with state := .present }) := by
  refine row_ext fun j => ?_
  rw [updAt_getFin, updAt_getFin, stationsAt_get, stationsAt_get, goneBy_holder hi hr, not_goneBy_holder hi]
  by_cases e : i = j
  · subst e; rw [hr, if_neg hqi, if_pos rfl, if_pos (by simp)]
  · have : j.val ≠ i.val := fun x => e (Fin.ext x.symm)
    rw [if_neg e, show decide (j.val < i.val + 1) = decide (j.val < i.val) from decide_eq_decide.2 (by omega)]
    by_cases hj : q = j
    · subst hj
      have hn : ¬ (decide (q.val < i.val) && stationReplaced s q) = true := by
        simpa using hnot
      rw [if_neg hn, if_neg hn, if_pos ⟨hq, rfl⟩, if_pos rfl, if_neg (fun x => Bool.false_ne_true x.2)]
    · have hne : ¬ (s.csu.request = some j ∧ True) := fun x => hj (Option.some.inj (hq.symm.trans x.1))
      rw [if_neg hj]
      simp only [Bool.false_eq_true, and_false, if_false, if_neg hne]

end Order

/-! ## The frames of one station -/

section Reports
variable {s : State} {i : Fin 4}

/-- A station whose removal ends command or the pending request. -/
def endsBy (s : State) (j : Fin 4) : Bool := stationReplaced s j && (s.csu.inCommand == some j || s.csu.request == some j)

/-- No station before the `i`-th has ended anything. -/
def endsFirst (s : State) (i : Fin 4) : Bool := (List.finRange 4).all fun j => decide (i ≤ j) || !endsBy s j

theorem endsFirst_iff : endsFirst s i = true ↔ ∀ j : Fin 4, j.val < i.val → endsBy s j = false := by
  unfold endsFirst
  simp only [List.all_eq_true, List.mem_finRange, true_imp_iff, Bool.or_eq_true, decide_eq_true_eq, Bool.not_eq_true']
  refine forall_congr' fun j => ?_
  rw [or_iff_not_imp_left, not_le]
  rfl

theorem removalReports_kept (h : stationReplaced s i = false) : removalReports s i = [] := by
  unfold removalReports
  rw [h]
  rfl

theorem removalReports_absent (h : s.csu.stations[i].state = .absent) : removalReports s i = [] := by
  unfold removalReports
  rw [h]
  exact if_neg (by simp)

/-- The frames of a station removed that was here. -/
theorem removalReports_removed (hr : stationReplaced s i = true) (hs : s.csu.stations[i].state ≠ .absent) :
    removalReports s i = (if endsBy s i && endsFirst s i then cancelReports s.csu.request else []) ++
      (byteOf i.val, .removed, 255) :: if s.csu.inCommand = some i then armReports s.cmu.release else [] := by
  have cancels : ∀ (e : Bool) (r : Option (Fin 4)),
      (match r with
        | some q => if e then [(byteOf q.val, StatusOutcome.cancelled, (255 : Byte))] else []
        | none => []) = if e then cancelReports r else [] := fun e r => by
    cases r with
    | none => exact (ite_self _).symm
    | some q => rfl
  have disarms : ∀ (p : Prop) [Decidable p] (r : Release),
      (match r with
        | .armed st k _ _ => if p then [(byteOf st.val, StatusOutcome.armCancelled, byteOf k)] else []
        | .idle => []
        | .releasing _ _ _ _ _ => []) = if p then armReports r else [] := fun p _ r => by
    cases r with
    | idle => exact (ite_self _).symm
    | armed st k a b => rfl
    | releasing => exact (ite_self _).symm
  unfold removalReports
  rw [if_pos (by rw [hr, Bool.true_and]; exact bne_iff_ne.2 hs)]
  exact congrArg₂ (fun a b => a ++ (byteOf i.val, StatusOutcome.removed, (255 : Byte)) :: b) (cancels _ _) (disarms _ _)

end Reports

/-! ## The stations in order -/

/-- The active bank's table in force, before anything has followed from it. -/
def newTable (s : State) : State := s.onTau fun u => { u with alloc := activeAlloc s, swapWaiting := false }

/-- The stations before the `k`-th are swapped. -/
structure StationsSwapped (s : State) (k : Nat) (x : State) : Prop where
  told : Told { newTable s with
    csu := csuAt s k, cmu := { s.cmu with release := if goneBy s k then s.cmu.release.disarmed else s.cmu.release } } x
  alarms : ∀ a j, isRaised a j x = true ↔ isRaised a j s = true ∧ ¬(goneBy s k = true ∧ a = .commandStale)

theorem Release.disarmed_disarmed (r : Release) : r.disarmed.disarmed = r.disarmed := by cases r <;> rfl

section Step
variable {s x : State} {i : Fin 4}

theorem StationsSwapped.csu {k : Nat} (h : StationsSwapped s k x) : x.csu = csuAt s k := by rw [h.told.rest]

theorem StationsSwapped.release {k : Nat} (h : StationsSwapped s k x) :
    x.cmu.release = if goneBy s k then s.cmu.release.disarmed else s.cmu.release := by rw [h.told.rest]

theorem StationsSwapped.removed (h : StationsSwapped s i.val x) {y : State} {ends : Bool} {L : List (Byte × StatusOutcome × Byte)}
    (r : Removed x y (csuAt s (i.val + 1)) ends L) (he : goneBy s (i.val + 1) = (goneBy s i.val || ends)) :
    StationsSwapped s (i.val + 1) y := by
  refine ⟨Told.trans ?_ r.told, fun a j => ?_⟩
  · have told := h.told.beside (fun u => { u with
      csu := csuAt s (i.val + 1), cmu := { u.cmu with release := if ends then u.cmu.release.disarmed else u.cmu.release } })
      (fun _ _ _ => rfl) (fun _ => rfl) (fun _ => rfl)
    have hrel : (if goneBy s (i.val + 1) then s.cmu.release.disarmed else s.cmu.release) =
        if ends then (if goneBy s i.val then s.cmu.release.disarmed else s.cmu.release).disarmed
          else if goneBy s i.val then s.cmu.release.disarmed else s.cmu.release := by
      rw [he]
      cases ends with
      | false => rw [Bool.or_false]; rfl
      | true =>
        cases goneBy s i.val with
        | false => rfl
        | true => exact (Release.disarmed_disarmed _).symm
    rw [hrel]
    exact told
  · rw [r.alarms, h.alarms, he, Bool.or_eq_true]
    tauto

end Step

end Sys2Proof.Machine

/-! # The stations swapped in order (R1, R90) -/

namespace Sys2Proof.Machine

section Step
variable {s x : State} {i : Fin 4}

/-- The entry of a station in the active bank's table. -/
theorem StationsSwapped.entry {k : Nat} (h : StationsSwapped s k x) :
    stationOf x i = ((activeAlloc s).map limitAlloc).elim noStation (·.stations[i]) := by
  unfold stationOf allocOf
  rw [show x.tau.alloc = activeAlloc s by rw [h.told.rest]; rfl]

theorem swapStation_replaced {k : Nat} (h : StationsSwapped s k x) (hr : stationReplaced s i = true) :
    swapStation (stationOf s i) i x = removeStation i x := by
  unfold swapStation
  rw [h.entry]
  refine if_neg ?_
  unfold stationReplaced at hr
  rw [Bool.not_eq_true'] at hr
  exact fun e => Bool.false_ne_true (hr.symm.trans e)

theorem csuAt_inCommand (hi : s.csu.inCommand = some i) : (csuAt s i.val).inCommand = some i := by
  show (if goneBy s i.val then none else s.csu.inCommand) = _
  rw [not_goneBy_holder hi]
  exact hi

theorem csuAt_inCommand_iff (i : Fin 4) : (csuAt s i.val).inCommand = some i ↔ s.csu.inCommand = some i := by
  refine ⟨fun h => ?_, csuAt_inCommand⟩
  have h : (if goneBy s i.val then none else s.csu.inCommand) = some i := h
  split at h
  · exact nomatch h
  · exact h

theorem swapStation_kept (h : StationsSwapped s i.val x) (hr : stationReplaced s i = false) :
    swapStation (stationOf s i) i x =
      if s.csu.inCommand = some i ∧ turnsAutopilot s i = true then x.onCsu fun c => { c with dAp := c.dStar } else x := by
  have hold : ((stationOf s i).configured && (((activeAlloc s).map limitAlloc).elim noStation (·.stations[i])).configured &&
      (stationOf s i).node == (((activeAlloc s).map limitAlloc).elim noStation (·.stations[i])).node) = true := by
    unfold stationReplaced at hr
    rwa [Bool.not_eq_false'] at hr
  have hkind : ((stationOf s i).kind = .manual ∧ (((activeAlloc s).map limitAlloc).elim noStation (·.stations[i])).kind = .autopilot) ↔
      turnsAutopilot s i = true := by
    unfold turnsAutopilot
    rw [hr]
    revert hold
    cases activeAlloc s with
    | none =>
      intro hold
      rw [Bool.and_eq_true, Bool.and_eq_true] at hold
      exact absurd hold.1.2 Bool.false_ne_true
    | some t =>
      intro _
      have hl : (limitAlloc t).stations[i] = limitStation t.stations[i] := Vector.getElem_map ..
      show _ ∧ (limitAlloc t).stations[i].kind = .autopilot ↔ _
      rw [hl]
      simp only [Bool.not_false, Bool.true_and, Bool.and_eq_true, beq_iff_eq, Option.any_some]
      rfl
  unfold swapStation
  rw [h.entry]
  refine (if_pos hold).trans (if_congr (and_congr ?_ hkind) rfl rfl)
  rw [h.csu]
  exact csuAt_inCommand_iff i

theorem csuAt_request (k : Nat) : (csuAt s k).request = if endedBy s k then none else s.csu.request := rfl

/-- The record of a station just before its own turn. -/
theorem csuAt_station (i : Fin 4) : (csuAt s i.val).stations[i] =
    if s.csu.request = some i ∧ goneBy s i.val = true then { s.csu.stations[i] with state := .present } else s.csu.stations[i] := by
  refine (stationsAt_get i.val i).trans (if_neg ?_)
  rw [decide_eq_false (Nat.lt_irrefl _)]
  exact Bool.false_ne_true

/-- A station that stays. -/
theorem StationsSwapped.kept (h : StationsSwapped s i.val x) (hr : stationReplaced s i = false) :
    StationsSwapped s (i.val + 1) (swapStation (stationOf s i) i x) ∧
      Reported x (swapStation (stationOf s i) i x) ((removalReports s i).map statusShown) := by
  have hg := goneBy_succ_of (s := s) (i := i) (.inr hr)
  have he := endedBy_succ_of hg (.inr hr)
  rw [swapStation_kept h hr, removalReports_kept hr]
  split
  · rename_i ht
    have hc : csuAt s (i.val + 1) = { csuAt s i.val with dAp := (csuAt s i.val).dStar } := by
      have ht' : turnedBy s (i.val + 1) = true := (turnedBy_iff _).2 ⟨i, ht.1, Nat.lt_succ_self _, ht.2⟩
      unfold csuAt
      rw [hg, he, ht', stationsAt_kept hr, not_goneBy_holder ht.1]
      rfl
    refine ⟨⟨?_, fun a j => ?_⟩, .silent rfl rfl⟩
    · rw [hc, hg]
      exact h.told.onCsu fun c => { c with dAp := c.dStar }
    · rw [hg]; exact h.alarms a j
  · rename_i ht
    have ht' := turnedBy_succ_of (s := s) (i := i) (by
      by_cases hi : s.csu.inCommand = some i
      · exact .inr (Bool.eq_false_iff.2 fun x => ht ⟨hi, x⟩)
      · exact .inl hi)
    refine ⟨⟨?_, fun a j => ?_⟩, .silent rfl rfl⟩
    · have hc : csuAt s (i.val + 1) = csuAt s i.val := by
        unfold csuAt
        rw [hg, he, ht', stationsAt_kept hr]
      rw [hc, hg]
      exact h.told
    · rw [hg]; exact h.alarms a j

/-- A station removed that neither was in command nor had its request end by this. -/
theorem csuAt_removed (hr : stationReplaced s i = true) (hi : s.csu.inCommand ≠ some i)
    (he : endedBy s (i.val + 1) = endedBy s i.val) :
    csuAt s (i.val + 1) = { csuAt s i.val with stations := stationsWithout (csuAt s i.val) i } := by
  unfold csuAt
  rw [goneBy_succ_of (.inl hi), he, turnedBy_succ_of (.inl hi), stationsAt_removed hr hi]
  rfl

theorem endsBy_iff (j : Fin 4) :
    endsBy s j = true ↔ stationReplaced s j = true ∧ (s.csu.inCommand = some j ∨ s.csu.request = some j) := by
  unfold endsBy
  rw [Bool.and_eq_true, Bool.or_eq_true, beq_iff_eq, beq_iff_eq]

theorem endsBy_false {j : Fin 4} (h : endsBy s j = false) (hr : stationReplaced s j = true) :
    s.csu.inCommand ≠ some j ∧ s.csu.request ≠ some j := by
  rw [Bool.eq_false_iff, ne_eq, endsBy_iff] at h
  exact ⟨fun e => h ⟨hr, .inl e⟩, fun e => h ⟨hr, .inr e⟩⟩

/-- The station in command removed: what its removal gives is the CSU after its turn. -/
theorem csuAt_holder (hr : stationReplaced s i = true) (hi : s.csu.inCommand = some i) (hqi : s.csu.request ≠ some i) :
    csuAt s (i.val + 1) = csuWithoutHolder i (csuAt s i.val) := by
  have hgone := not_goneBy_holder hi
  have hgone' := goneBy_holder hi hr
  have hturned : turnedBy s (i.val + 1) = turnedBy s i.val := turnedBy_succ_of (.inr (turnsAutopilot_replaced hr))
  cases he : endedBy s i.val with
  | true =>
    obtain ⟨q, hq, hend⟩ := (endedBy_iff _).1 he
    have hqr := hend.resolve_right (by rw [hgone]; exact Bool.false_ne_true)
    have he' : endedBy s (i.val + 1) = true := (endedBy_iff _).2 ⟨q, hq, .inr hgone'⟩
    have hv := stationsAt_holder_alone hr hi fun q' hq' => by
      obtain rfl := Option.some.inj (hq.symm.trans hq')
      exact hqr
    rw [csuWithoutHolder_none (by rw [csuAt_request, he]; rfl)]
    unfold csuAt
    rw [hgone, hgone', hturned, he, he', hv]
    rfl
  | false =>
    have hreq : (csuAt s i.val).request = s.csu.request := by rw [csuAt_request, he]; rfl
    cases hq : s.csu.request with
    | none =>
      have he' : endedBy s (i.val + 1) = false := by
        rw [Bool.eq_false_iff, ne_eq, endedBy_iff, hq]
        rintro ⟨q, x, -⟩
        exact nomatch x
      have hv := stationsAt_holder_alone hr hi fun q' hq' => by rw [hq] at hq'; exact nomatch hq'
      rw [csuWithoutHolder_none (hreq.trans hq)]
      unfold csuAt
      rw [hgone, hgone', hturned, he, he', hv]
      rfl
    | some q =>
      have he' : endedBy s (i.val + 1) = true := (endedBy_iff _).2 ⟨q, hq, .inr hgone'⟩
      have hv := stationsAt_holder_request hr hi hq (fun e => hqi (by rw [hq, e])) fun e => by
        rw [(endedBy_iff i.val).2 ⟨q, hq, .inl e⟩] at he
        exact nomatch he
      rw [csuWithoutHolder_some (hreq.trans hq)]
      unfold csuAt
      rw [hgone, hgone', hturned, he, he', hv]
      rfl

section Roles
variable (hone : s.csu.OneHolder) (h : StationsSwapped s i.val x) (hr : stationReplaced s i = true)
include hone h hr

theorem StationsSwapped.removedAbsent (hs : s.csu.stations[i].state = .absent) :
    StationsSwapped s (i.val + 1) (removeStation i x) ∧ Reported x (removeStation i x) ((removalReports s i).map statusShown) := by
  have hi : s.csu.inCommand ≠ some i := fun e => by rw [(hone.1 i).2 e] at hs; exact nomatch hs
  have hq : s.csu.request ≠ some i := fun e => by rw [(hone.2 i).2 e] at hs; exact nomatch hs
  have hg := goneBy_succ_of (s := s) (i := i) (.inl hi)
  have hx : x.csu.stations[i].state = .absent := by rw [h.csu, csuAt_station, if_neg fun e => hq e.1]; exact hs
  have r := removeStation_absent hx
  rw [h.csu, ← csuAt_removed hr hi (endedBy_succ_of hg (.inl hq))] at r
  rw [removalReports_absent hs]
  exact ⟨h.removed r (by rw [hg, Bool.or_false]), r.reports⟩

theorem StationsSwapped.removedPresent (hs : s.csu.stations[i].state = .present) :
    StationsSwapped s (i.val + 1) (removeStation i x) ∧ Reported x (removeStation i x) ((removalReports s i).map statusShown) := by
  have hi : s.csu.inCommand ≠ some i := fun e => by rw [(hone.1 i).2 e] at hs; exact nomatch hs
  have hq : s.csu.request ≠ some i := fun e => by rw [(hone.2 i).2 e] at hs; exact nomatch hs
  have hg := goneBy_succ_of (s := s) (i := i) (.inl hi)
  have hx : x.csu.stations[i].state = .present := by rw [h.csu, csuAt_station, if_neg fun e => hq e.1]; exact hs
  have r := removeStation_present hx
  rw [h.csu, ← csuAt_removed hr hi (endedBy_succ_of hg (.inl hq))] at r
  have hends : endsBy s i = false := by
    unfold endsBy
    rw [beq_eq_false_iff_ne.2 hi, beq_eq_false_iff_ne.2 hq]
    exact Bool.and_false _
  rw [removalReports_removed hr (by rw [hs]; decide), hends, Bool.false_and, if_neg Bool.false_ne_true, if_neg hi]
  exact ⟨h.removed r (by rw [hg, Bool.or_false]), r.reports⟩

theorem StationsSwapped.removedRequesting (hs : s.csu.stations[i].state = .requesting) :
    StationsSwapped s (i.val + 1) (removeStation i x) ∧ Reported x (removeStation i x) ((removalReports s i).map statusShown) := by
  have hi : s.csu.inCommand ≠ some i := fun e => by rw [(hone.1 i).2 e] at hs; exact nomatch hs
  have hq : s.csu.request = some i := (hone.2 i).1 hs
  have hg := goneBy_succ_of (s := s) (i := i) (.inl hi)
  have hends : endsBy s i = true := by
    unfold endsBy
    rw [hr, beq_iff_eq.2 hq, Bool.or_true]
    rfl
  have hfirst : endsFirst s i = !goneBy s i.val := by
    rw [Bool.eq_iff_iff, endsFirst_iff, Bool.not_eq_true', Bool.eq_false_iff, ne_eq, goneBy_iff]
    refine ⟨fun hall ⟨e, he, hlt, hre⟩ => endsBy_false (hall e hlt) hre |>.1 he, fun hno j hj => ?_⟩
    rw [Bool.eq_false_iff, ne_eq, endsBy_iff]
    rintro ⟨hre, he | he⟩
    · exact hno ⟨j, he, hj, hre⟩
    · obtain rfl := Option.some.inj (hq.symm.trans he)
      exact Nat.lt_irrefl _ hj
  rw [removalReports_removed hr (by rw [hs]; decide), hends, Bool.true_and, hfirst, if_neg hi]
  by_cases hgone : goneBy s i.val = true
  · have hx : x.csu.stations[i].state = .present := by rw [h.csu, csuAt_station, if_pos ⟨hq, hgone⟩]
    have r := removeStation_present hx
    have he : endedBy s (i.val + 1) = endedBy s i.val := by
      rw [(endedBy_iff (s := s) (i.val + 1)).2 ⟨i, hq, .inr (hg.trans hgone)⟩, (endedBy_iff (s := s) i.val).2 ⟨i, hq, .inr hgone⟩]
    rw [h.csu, ← csuAt_removed hr hi he] at r
    rw [hgone]
    exact ⟨h.removed r (by rw [hg, Bool.or_false]), r.reports⟩
  · have hx : x.csu.stations[i].state = .requesting := by rw [h.csu, csuAt_station, if_neg fun e => hgone e.2]; exact hs
    have r := removeStation_requesting hx
    have hc : csuAt s (i.val + 1) =
        { csuAt s i.val with stations := stationsWithout (csuAt s i.val) i, request := none, transfer := none } := by
      have he : endedBy s (i.val + 1) = true := (endedBy_iff _).2 ⟨i, hq, .inl ⟨Nat.lt_succ_self _, hr⟩⟩
      unfold csuAt
      rw [hg, he, turnedBy_succ_of (.inl hi), stationsAt_removed hr hi]
      rfl
    rw [h.csu, ← hc] at r
    rw [Bool.eq_false_iff.2 hgone, hq]
    exact ⟨h.removed r (by rw [hg, Bool.or_false]), r.reports⟩

theorem StationsSwapped.removedHolder (hs : s.csu.stations[i].state = .inCommand) :
    StationsSwapped s (i.val + 1) (removeStation i x) ∧ Reported x (removeStation i x) ((removalReports s i).map statusShown) := by
  have hi : s.csu.inCommand = some i := (hone.1 i).1 hs
  have hq : s.csu.request ≠ some i := fun e => by rw [(hone.2 i).2 e] at hs; exact nomatch hs
  have hgone := not_goneBy_holder hi
  have hgone' := goneBy_holder hi hr
  have hx : x.csu.stations[i].state = .inCommand := by rw [h.csu, csuAt_station, if_neg fun e => hq e.1]; exact hs
  have hends : endsBy s i = true := (endsBy_iff i).2 ⟨hr, .inl hi⟩
  have hfirst : endsFirst s i = !endedBy s i.val := by
    rw [Bool.eq_iff_iff, endsFirst_iff, Bool.not_eq_true', Bool.eq_false_iff, ne_eq, endedBy_iff, hgone]
    refine ⟨fun hall => ?_, fun hno j hj => ?_⟩
    · rintro ⟨q, he, ⟨hlt, hre⟩ | x⟩
      · exact (endsBy_false (hall q hlt) hre).2 he
      · exact nomatch x
    · rw [Bool.eq_false_iff, ne_eq, endsBy_iff]
      rintro ⟨hre, he | he⟩
      · obtain rfl := Option.some.inj (hi.symm.trans he)
        exact Nat.lt_irrefl _ hj
      · exact hno ⟨j, he, .inl ⟨hj, hre⟩⟩
  have hc := csuAt_holder hr hi hq
  have hrelease : x.cmu.release = s.cmu.release := by
    rw [h.release, hgone]; rfl
  have hcancel : cancelReports (csuAt s i.val).request =
      if endsBy s i && endsFirst s i then cancelReports s.csu.request else [] := by
    rw [hends, Bool.true_and, hfirst, csuAt_request]
    cases endedBy s i.val <;> rfl
  have r := removeStation_holder hx
  rw [h.csu, ← hc, hrelease, hcancel] at r
  rw [removalReports_removed hr (by rw [hs]; decide), if_pos hi]
  exact ⟨h.removed r (by rw [hgone, hgone']; rfl), r.reports⟩

end Roles

theorem StationsSwapped.next (hone : s.csu.OneHolder) (h : StationsSwapped s i.val x) :
    StationsSwapped s (i.val + 1) (swapStation (stationOf s i) i x) ∧
      Reported x (swapStation (stationOf s i) i x) ((removalReports s i).map statusShown) := by
  cases hr : stationReplaced s i with
  | false => exact h.kept hr
  | true =>
    rw [swapStation_replaced h hr]
    cases hs : s.csu.stations[i].state with
    | absent => exact h.removedAbsent hone hr hs
    | present => exact h.removedPresent hone hr hs
    | requesting => exact h.removedRequesting hone hr hs
    | inCommand => exact h.removedHolder hone hr hs

end Step

/-! ## All four stations -/

section All
variable {s : State}

theorem stationsSwapped_zero (s : State) : StationsSwapped s 0 (newTable s) := by
  have hg : goneBy s 0 = false := by
    rw [Bool.eq_false_iff, ne_eq, goneBy_iff]
    rintro ⟨e, -, x, -⟩
    exact Nat.not_lt_zero _ x
  have he : endedBy s 0 = false := by
    rw [Bool.eq_false_iff, ne_eq, endedBy_iff, hg]
    rintro ⟨e, -, ⟨x, -⟩ | x⟩
    · exact Nat.not_lt_zero _ x
    · exact nomatch x
  have ht : turnedBy s 0 = false := by
    rw [Bool.eq_false_iff, ne_eq, turnedBy_iff]
    rintro ⟨e, -, x, -⟩
    exact Nat.not_lt_zero _ x
  have hv : stationsAt s 0 = s.csu.stations := by
    refine row_ext fun j => ?_
    rw [stationsAt_get, hg, decide_eq_false (Nat.not_lt_zero _), Bool.false_and, if_neg Bool.false_ne_true,
      if_neg fun x => Bool.false_ne_true x.2]
  refine ⟨?_, fun a j => ?_⟩
  · unfold csuAt
    rw [hg, he, ht, hv]
    exact .refl _
  · rw [hg, and_iff_left fun x => Bool.false_ne_true x.1]
    rfl

/-- The swap at the stations. -/
theorem csuSwap_swapped (hone : s.csu.OneHolder) : StationsSwapped s 4 (csuSwap (allocOf s) (newTable s)) ∧
    Reported s (csuSwap (allocOf s) (newTable s)) (((List.finRange 4).flatMap (removalReports s)).map statusShown) := by
  obtain ⟨h1, r1⟩ := StationsSwapped.next (i := 0) hone (stationsSwapped_zero s)
  obtain ⟨h2, r2⟩ := StationsSwapped.next (i := 1) hone h1
  obtain ⟨h3, r3⟩ := StationsSwapped.next (i := 2) hone h2
  obtain ⟨h4, r4⟩ := StationsSwapped.next (i := 3) hone h3
  have heq : csuSwap (allocOf s) (newTable s) = swapStation (stationOf s 3) 3 (swapStation (stationOf s 2) 2
      (swapStation (stationOf s 1) 1 (swapStation (stationOf s 0) 0 (newTable s)))) := rfl
  refine ⟨h4, ?_⟩
  rw [heq]
  have reports := Reported.after_silent (s := s) (((r1.trans r2).trans r3).trans r4) rfl rfl
  rw [show List.finRange 4 = [0, 1, 2, 3] by decide]
  simpa only [List.flatMap_cons, List.flatMap_nil, List.append_nil, List.map_append, List.append_assoc] using reports

theorem goneBy_four (s : State) : goneBy s 4 = holderReplaced s := by
  unfold goneBy holderReplaced
  congr 1
  funext h
  rw [decide_eq_true h.isLt, Bool.true_and]

theorem endedBy_four (s : State) : endedBy s 4 = requestReplaced s := by
  unfold endedBy requestReplaced
  congr 1
  funext q
  rw [decide_eq_true q.isLt, Bool.true_and, goneBy_four]

theorem turnedBy_four (s : State) : turnedBy s 4 = s.csu.inCommand.any (turnsAutopilot s) := by
  unfold turnedBy
  congr 1
  funext h
  rw [decide_eq_true h.isLt, Bool.true_and]

theorem stationsAt_four (s : State) (i : Fin 4) : (stationsAt s 4)[i] =
    if stationReplaced s i then Station.initial
    else if s.csu.request = some i ∧ holderReplaced s = true then { s.csu.stations[i] with state := .present }
    else s.csu.stations[i] := by
  rw [stationsAt_get, goneBy_four, decide_eq_true i.isLt, Bool.true_and]

end All

end Sys2Proof.Machine

/-! # The swap of an ALLOC table at the engines and rudders (R46) -/

namespace Sys2Proof.Machine

/-- From `x` to `y` the interface's records have become `p` and the alarms of `off` are cleared. -/
structure PiuStep (x y : State) (p : Piu) (off : Alarm → Subject → Prop) : Prop where
  told : Told { x with piu := p } y
  alarms : ∀ a j, isRaised a j y = true ↔ isRaised a j x = true ∧ ¬off a j
  reports : Reported x y []

section PiuStep
variable {x y z : State} {p q : Piu} {off off' : Alarm → Subject → Prop}

theorem PiuStep.trans (h : PiuStep x y p off) (k : PiuStep y z q off') :
    PiuStep x z q fun a j => off a j ∨ off' a j := by
  refine ⟨?_, fun a j => ?_, h.reports.trans k.reports⟩
  · exact (h.told.beside (fun u => { u with piu := q }) (fun _ _ _ => rfl) (fun _ => rfl) (fun _ => rfl)).trans k.told
  · rw [k.alarms, h.alarms, not_or, and_assoc]

theorem PiuStep.congr (h : PiuStep x y p off) (hp : p = q) (ho : ∀ a j, off a j ↔ off' a j) : PiuStep x y q off' :=
  ⟨hp ▸ h.told, fun a j => by rw [h.alarms, ho], h.reports⟩

theorem PiuStep.quiet (x : State) (f : Piu → Piu) : PiuStep x (x.onPiu f) (f x.piu) fun _ _ => False :=
  ⟨.refl _, fun _ _ => ⟨fun h => ⟨h, id⟩, And.left⟩, .silent rfl rfl⟩

theorem PiuStep.cleared (x : State) (a : Alarm) (j : Subject) :
    PiuStep x (clearAlarm a j x) x.piu fun b k => b = a ∧ k = j :=
  ⟨clearAlarm_told x a j, fun _ _ => isRaised_clearAlarm .., clearAlarm_reported x a j⟩

theorem PiuStep.tau (h : PiuStep x y p off) : y.tau = x.tau := by rw [h.told.rest]
theorem PiuStep.now (h : PiuStep x y p off) : y.now = x.now := by rw [h.told.rest]
theorem PiuStep.piu (h : PiuStep x y p off) : y.piu = p := by rw [h.told.rest]

end PiuStep

/-! ## Records changed one after the other -/

theorem foldl_updAt_get {α : Type} {n : Nat} (F : Fin n → α → α) (l : List (Fin n)) (hd : l.Nodup) (v : Vector α n) (j : Fin n) :
    (l.foldl (fun v i => updAt v i (F i)) v)[j] = if j ∈ l then F j v[j] else v[j] := by
  induction l generalizing v with
  | nil => rfl
  | cons i l ih =>
    obtain ⟨hi, hd⟩ := List.nodup_cons.1 hd
    rw [List.foldl_cons, ih hd, updAt_getFin]
    by_cases e : i = j
    · subst e
      rw [if_neg hi, if_pos rfl, if_pos List.mem_cons_self]
    · rw [if_neg e]
      simp [Ne.symm e]

/-! ## The engines -/

/-- An engine record at the swap, by its old and its new entry. -/
def engineSwapped (old new : EngineEntry) (now : Nat) (r : EngineRec) : EngineRec :=
  match old.configured, new.configured with
  | true, true => if old.fbNode = new.fbNode then r else lostBySwap now (r.retiring.getD new).idle r
  | true, false => { r with retiring := some old }
  | false, true => lostBySwap now new.idle { r with retiring := none }
  | false, false => r

/-- The swap makes the record LOST. -/
def losesEngine (old new : EngineEntry) : Bool := new.configured && (!old.configured || old.fbNode != new.fbNode)

section Engines
variable (i : Fin 6) (x : State)

/-- ENGINE-FAULT cleared at an engine that is FAULTED. -/
def faultOff : State := if x.piu.engines[i].avail = .faulted then clearAlarm .engineFault (.engine i) x else x

theorem faultOff_step : PiuStep x (faultOff i x) x.piu fun a j =>
    a = .engineFault ∧ j = .engine i ∧ x.piu.engines[i].avail = .faulted := by
  unfold faultOff
  split
  · rename_i h
    refine (PiuStep.cleared x .engineFault (.engine i)).congr rfl fun a j => ?_
    exact ⟨fun ⟨h1, h2⟩ => ⟨h1, h2, h⟩, fun ⟨h1, h2, _⟩ => ⟨h1, h2⟩⟩
  · rename_i h
    exact (PiuStep.quiet x id).congr rfl fun a j => ⟨False.elim, fun e => h e.2.2⟩

theorem onEngine_onEngine (f g : EngineRec → EngineRec) : onEngine i g (onEngine i f x) = onEngine i (g ∘ f) x :=
  congrArg (fun v => x.onPiu fun p => { p with engines := v }) (updAt_updAt x.piu.engines i f g)

theorem onEngine_id : onEngine i id x = x :=
  congrArg (fun v => x.onPiu fun p => { p with engines := v }) (updAt_eq_self (f := id) x.piu.engines rfl)

theorem loseByCommit_eq : loseByCommit i x = onEngine i (lostBySwap x.now (engineOf x i).idle) (faultOff i x) := by
  have same : SameButStatus x (faultOff i x) := by
    unfold faultOff
    split
    · exact clearAlarm_same ..
    · rfl
  have hn : (faultOff i x).now = x.now := by rw [same]
  have he : engineOf (faultOff i x) i = engineOf x i := by rw [same]; rfl
  show onEngine i ({ · with timer := timerFor x Config.feedbackTime }) (setAvail i .lost 0 (faultOff i x)) = _
  rw [setAvail_lost, hn, he, onEngine_onEngine]
  rfl

/-- A record made LOST with its alarm, from a state in which it may have been changed before. -/
theorem loseByCommit_step (f : EngineRec → EngineRec) (hf : ∀ r, (f r).avail = r.avail) :
    PiuStep x (loseByCommit i (onEngine i f x))
      { x.piu with engines := updAt x.piu.engines i (lostBySwap x.now (engineOf (onEngine i f x) i).idle ∘ f) }
      fun a j => a = .engineFault ∧ j = .engine i ∧ x.piu.engines[i].avail = .faulted := by
  have havail : (onEngine i f x).piu.engines[i].avail = x.piu.engines[i].avail :=
    (congrArg EngineRec.avail (updAt_getFin_same ..)).trans (hf _)
  have h1 : PiuStep x (onEngine i f x) _ _ := PiuStep.quiet x fun p => { p with engines := updAt p.engines i f }
  have h2 := h1.trans (faultOff_step i (onEngine i f x))
  have hpiu : (faultOff i (onEngine i f x)).piu = (onEngine i f x).piu := (faultOff_step i (onEngine i f x)).piu
  have h3 := h2.trans (PiuStep.quiet (faultOff i (onEngine i f x)) fun p =>
    { p with engines := updAt p.engines i (lostBySwap x.now (engineOf (onEngine i f x) i).idle) })
  rw [loseByCommit_eq]
  refine h3.congr ?_ fun a j => ?_
  · rw [hpiu]
    show ({ x.piu with engines := updAt (updAt x.piu.engines i f) i _ } : Piu) = _
    rw [updAt_updAt]
  · rw [havail]
    tauto

theorem swapEngine_step (old : EngineEntry) : PiuStep x (swapEngine old i x)
    { x.piu with engines := updAt x.piu.engines i (engineSwapped old (engineEntry x i) x.now) }
    fun a j => a = .engineFault ∧ j = .engine i ∧ losesEngine old (engineEntry x i) = true ∧ x.piu.engines[i].avail = .faulted := by
  have stay : ∀ f, (∀ r, f r = engineSwapped old (engineEntry x i) x.now r) → losesEngine old (engineEntry x i) = false →
      PiuStep x (onEngine i f x) { x.piu with engines := updAt x.piu.engines i (engineSwapped old (engineEntry x i) x.now) }
        fun a j => a = .engineFault ∧ j = .engine i ∧ losesEngine old (engineEntry x i) = true ∧
          x.piu.engines[i].avail = .faulted := fun f hf hl => by
    obtain rfl : f = engineSwapped old (engineEntry x i) x.now := funext hf
    refine (PiuStep.quiet x fun p => { p with engines := updAt p.engines i _ }).congr rfl fun a j => ?_
    exact ⟨False.elim, fun e => by rw [hl] at e; exact nomatch e.2.2.1⟩
  have lose : ∀ f, (∀ r, (f r).avail = r.avail) → losesEngine old (engineEntry x i) = true →
      lostBySwap x.now (engineOf (onEngine i f x) i).idle (f x.piu.engines[i]) =
        engineSwapped old (engineEntry x i) x.now x.piu.engines[i] →
      PiuStep x (loseByCommit i (onEngine i f x))
        { x.piu with engines := updAt x.piu.engines i (engineSwapped old (engineEntry x i) x.now) }
        fun a j => a = .engineFault ∧ j = .engine i ∧ losesEngine old (engineEntry x i) = true ∧
          x.piu.engines[i].avail = .faulted := fun f hf hl he => by
    refine (loseByCommit_step i x f hf).congr ?_ fun a j => ?_
    · exact congrArg (fun v => { x.piu with engines := v }) (updAt_congr x.piu.engines (i := i)
        (f := lostBySwap x.now (engineOf (onEngine i f x) i).idle ∘ f) he)
    · rw [hl]; tauto
  have hidle : (engineOf x i).idle = (x.piu.engines[i].retiring.getD (engineEntry x i)).idle := rfl
  cases ho : old.configured with
  | true =>
    cases hn : (engineEntry x i).configured with
    | true =>
      have hs : swapEngine old i x = if old.fbNode = (engineEntry x i).fbNode then x else loseByCommit i x := by
        unfold swapEngine; dsimp only; rw [ho, hn]
      have hF : ∀ r, engineSwapped old (engineEntry x i) x.now r = if old.fbNode = (engineEntry x i).fbNode then r
          else lostBySwap x.now (r.retiring.getD (engineEntry x i)).idle r := fun r => by unfold engineSwapped; rw [ho, hn]
      rw [hs]
      by_cases hnode : old.fbNode = (engineEntry x i).fbNode
      · have h := stay id (fun r => by rw [hF, if_pos hnode]; rfl) (by unfold losesEngine; rw [ho, hn]; simp [hnode])
        rw [onEngine_id] at h
        rw [if_pos hnode]
        exact h
      · have h := lose id (fun _ => rfl) (by unfold losesEngine; rw [ho, hn]; simp [hnode])
          (by rw [onEngine_id, hF, if_neg hnode, hidle]; rfl)
        rw [onEngine_id] at h
        rw [if_neg hnode]
        exact h
    | false =>
      have hs : swapEngine old i x = onEngine i ({ · with retiring := some old }) x := by
        unfold swapEngine; dsimp only; rw [ho, hn]
      rw [hs]
      exact stay _ (fun r => by unfold engineSwapped; rw [ho, hn]) (by unfold losesEngine; rw [hn]; rfl)
  | false =>
    cases hn : (engineEntry x i).configured with
    | true =>
      have hs : swapEngine old i x = loseByCommit i (onEngine i ({ · with retiring := none }) x) := by
        unfold swapEngine; dsimp only; rw [ho, hn]
      have he : engineOf (onEngine i ({ · with retiring := none }) x) i = engineEntry x i := by
        have : (onEngine i ({ · with retiring := none }) x).piu.engines[i].retiring = none :=
          congrArg EngineRec.retiring (updAt_getFin_same ..)
        unfold engineOf
        rw [this]
        rfl
      rw [hs]
      exact lose _ (fun _ => rfl) (by unfold losesEngine; rw [ho, hn]; rfl)
        (by rw [he]; unfold engineSwapped; rw [ho, hn])
    | false =>
      have hs : swapEngine old i x = x := by unfold swapEngine; dsimp only; rw [ho, hn]
      have h := stay id (fun r => by unfold engineSwapped; rw [ho, hn]; rfl) (by unfold losesEngine; rw [hn]; rfl)
      rw [onEngine_id] at h
      rw [hs]
      exact h

end Engines

/-- Some engines swapped, each by its old entry. -/
theorem swapEngines_step (old : Fin 6 → EngineEntry) (l : List (Fin 6)) (hd : l.Nodup) (x : State) :
    PiuStep x (l.foldl (fun s i => swapEngine (old i) i s) x)
      { x.piu with engines := l.foldl (fun v i => updAt v i (engineSwapped (old i) (engineEntry x i) x.now)) x.piu.engines }
      fun a j => ∃ e ∈ l, a = .engineFault ∧ j = .engine e ∧ losesEngine (old e) (engineEntry x e) = true ∧
        x.piu.engines[e].avail = .faulted := by
  induction l generalizing x with
  | nil => exact (PiuStep.quiet x id).congr rfl fun a j => by simp
  | cons i l ih =>
    obtain ⟨hi, hd⟩ := List.nodup_cons.1 hd
    have first := swapEngine_step i x (old i)
    have rest := ih hd (swapEngine (old i) i x)
    have hentry : ∀ e, engineEntry (swapEngine (old i) i x) e = engineEntry x e := fun e => engineEntry_congr first.tau
    have hother : ∀ e ∈ l, (swapEngine (old i) i x).piu.engines[e] = x.piu.engines[e] := fun e he => by
      rw [first.piu]
      exact updAt_getFin_other _ (fun h : i = e => hi (by rw [h]; exact he)) _
    refine (first.trans rest).congr ?_ fun a j => ?_
    · simp only [hentry, first.now, first.piu]
      rfl
    · simp only [hentry, List.mem_cons, exists_eq_or_imp]
      refine or_congr_right (exists_congr fun e => and_congr_right fun he => ?_)
      rw [hother e he]

/-! ## The rudders -/

/-- A rudder record at the swap, by its old and its new entry. -/
def rudderSwapped (old new : RudderEntry) (now : Nat) (r : RudderRec) : RudderRec :=
  match old.configured, new.configured with
  | true, true => if old.fbNode = new.fbNode then r else { r with avail := .lost, deviation := none }
  | true, false => { r with avail := .unconfigured, angle := none, fresh := false, timer := none, deviation := none }
  | false, true => { r with avail := .lost, timer := some (now + 600 * Config.usPerMs), deviation := none }
  | false, false => r

section Rudders
variable (i : Fin 3) (x : State)

theorem onRudder_id : onRudder i id x = x :=
  congrArg (fun v => x.onPiu fun p => { p with rudders := v }) (updAt_eq_self (f := id) x.piu.rudders rfl)

theorem swapRudder_step (old : RudderEntry) : PiuStep x (swapRudder old i x)
    { x.piu with rudders := updAt x.piu.rudders i (rudderSwapped old (rudderOf x i) x.now) }
    fun a j => (a = .rudderLost ∨ a = .rudderFault) ∧ j = .rudder i ∧ old.configured = true ∧ (rudderOf x i).configured = false := by
  have stay : ∀ f, (∀ r, f r = rudderSwapped old (rudderOf x i) x.now r) →
      ¬(old.configured = true ∧ (rudderOf x i).configured = false) →
      PiuStep x (onRudder i f x) { x.piu with rudders := updAt x.piu.rudders i (rudderSwapped old (rudderOf x i) x.now) }
        fun a j => (a = .rudderLost ∨ a = .rudderFault) ∧ j = .rudder i ∧ old.configured = true ∧
          (rudderOf x i).configured = false := fun f hf hl => by
    obtain rfl : f = rudderSwapped old (rudderOf x i) x.now := funext hf
    refine (PiuStep.quiet x fun p => { p with rudders := updAt p.rudders i _ }).congr rfl fun a j => ?_
    exact ⟨False.elim, fun e => hl e.2.2⟩
  cases ho : old.configured with
  | true =>
    cases hn : (rudderOf x i).configured with
    | true =>
      have hs : swapRudder old i x = if old.fbNode = (rudderOf x i).fbNode then x else rudderLost i x := by
        unfold swapRudder; dsimp only; rw [ho, hn]
      have hF : ∀ r, rudderSwapped old (rudderOf x i) x.now r = if old.fbNode = (rudderOf x i).fbNode then r
          else { r with avail := .lost, deviation := none } := fun r => by unfold rudderSwapped; rw [ho, hn]
      rw [ho, hn] at stay
      rw [hs]
      by_cases hnode : old.fbNode = (rudderOf x i).fbNode
      · have h := stay id (fun r => by rw [hF, if_pos hnode]; rfl) (by simp)
        rw [onRudder_id] at h
        rw [if_pos hnode]
        exact h
      · rw [if_neg hnode]
        exact stay _ (fun r => by rw [hF, if_neg hnode]) (by simp)
    | false =>
      have hs : swapRudder old i x = clearAlarm .rudderFault (.rudder i) (clearAlarm .rudderLost (.rudder i)
          (onRudder i (rudderSwapped old (rudderOf x i) x.now) x)) := by
        have hF : rudderSwapped old (rudderOf x i) x.now = fun r =>
            { r with avail := .unconfigured, angle := none, fresh := false, timer := none, deviation := none } := by
          funext r; unfold rudderSwapped; rw [ho, hn]
        rw [hF]
        unfold swapRudder; dsimp only; rw [ho, hn]
      have first := PiuStep.quiet x fun p => { p with rudders := updAt p.rudders i (rudderSwapped old (rudderOf x i) x.now) }
      have lost := first.trans (PiuStep.cleared _ .rudderLost (.rudder i))
      have both := lost.trans (PiuStep.cleared _ .rudderFault (.rudder i))
      rw [hs]
      refine both.congr ?_ fun a j => ?_
      · rw [clearAlarm_piu]; rfl
      · tauto
  | false =>
    cases hn : (rudderOf x i).configured with
    | true =>
      have hs : swapRudder old i x = onRudder i
          (fun r => { r with avail := .lost, timer := timerFor x Config.feedbackTime, deviation := none }) x := by
        unfold swapRudder; dsimp only; rw [ho, hn]
      rw [ho, hn] at stay
      rw [hs]
      exact stay _ (fun r => by unfold rudderSwapped; rw [ho, hn]; rfl) (by simp)
    | false =>
      have hs : swapRudder old i x = x := by unfold swapRudder; dsimp only; rw [ho, hn]
      rw [ho, hn] at stay
      have h := stay id (fun r => by unfold rudderSwapped; rw [ho, hn]; rfl) (by simp)
      rw [onRudder_id] at h
      rw [hs]
      exact h

end Rudders

theorem rudderOf_congr {s a : State} {i : Fin 3} (ht : a.tau = s.tau) : rudderOf a i = rudderOf s i := by
  unfold rudderOf allocOf; rw [ht]

/-- Some rudders swapped, each by its old entry. -/
theorem swapRudders_step (old : Fin 3 → RudderEntry) (l : List (Fin 3)) (x : State) :
    PiuStep x (l.foldl (fun s i => swapRudder (old i) i s) x)
      { x.piu with rudders := l.foldl (fun v i => updAt v i (rudderSwapped (old i) (rudderOf x i) x.now)) x.piu.rudders }
      fun a j => ∃ i ∈ l, (a = .rudderLost ∨ a = .rudderFault) ∧ j = .rudder i ∧ (old i).configured = true ∧
        (rudderOf x i).configured = false := by
  induction l generalizing x with
  | nil => exact (PiuStep.quiet x id).congr rfl fun a j => by simp
  | cons i l ih =>
    have first := swapRudder_step i x (old i)
    have rest := ih (swapRudder (old i) i x)
    have hentry : ∀ e, rudderOf (swapRudder (old i) i x) e = rudderOf x e := fun e => rudderOf_congr first.tau
    refine (first.trans rest).congr ?_ fun a j => ?_
    · simp only [hentry, first.now, first.piu]
      rfl
    · simp only [hentry, List.mem_cons, exists_eq_or_imp]

/-- The swap at the interface. -/
theorem piuSwap_step (old : Option AllocTable) (x : State) : ∃ p : Piu, PiuStep x (piuSwap old x) p (fun a j =>
      (∃ e : Fin 6, a = .engineFault ∧ j = .engine e ∧
        losesEngine (old.elim noEngine (·.engines[e])) (engineEntry x e) = true ∧ x.piu.engines[e].avail = .faulted) ∨
      ∃ i : Fin 3, (a = .rudderLost ∨ a = .rudderFault) ∧ j = .rudder i ∧
        (old.elim noRudder (·.rudders[i])).configured = true ∧ (rudderOf x i).configured = false) ∧
    p = { x.piu with engines := p.engines, rudders := p.rudders } ∧
    (∀ e : Fin 6, p.engines[e] =
      engineSwapped (old.elim noEngine (·.engines[e])) (engineEntry x e) x.now x.piu.engines[e]) ∧
    ∀ i : Fin 3, p.rudders[i] =
      rudderSwapped (old.elim noRudder (·.rudders[i])) (rudderOf x i) x.now x.piu.rudders[i] := by
  have engines := swapEngines_step (fun i => old.elim noEngine (·.engines[i])) (List.finRange 6) (List.nodup_finRange 6) x
  have heq : piuSwap old x = (List.finRange 3).foldl (fun s i => swapRudder (old.elim noRudder (·.rudders[i])) i s)
      ((List.finRange 6).foldl (fun s i => swapEngine (old.elim noEngine (·.engines[i])) i s) x) := rfl
  rw [heq]
  revert engines
  generalize (List.finRange 6).foldl (fun s i => swapEngine (old.elim noEngine (·.engines[i])) i s) x = y
  intro engines
  have rudders := swapRudders_step (fun i => old.elim noRudder (·.rudders[i])) (List.finRange 3) y
  have hentry : ∀ i, rudderOf y i = rudderOf x i := fun i => rudderOf_congr engines.tau
  have hnow := engines.now
  have hpiu := engines.piu
  have hE : ∀ e : Fin 6, y.piu.engines[e] =
      engineSwapped (old.elim noEngine (·.engines[e])) (engineEntry x e) x.now x.piu.engines[e] := fun e => by
    simp only [hpiu]
    rw [foldl_updAt_get _ _ (List.nodup_finRange 6), if_pos (List.mem_finRange e)]
  have hR : ∀ i : Fin 3, ((List.finRange 3).foldl (fun v i =>
        updAt v i (rudderSwapped (old.elim noRudder (·.rudders[i])) (rudderOf y i) y.now)) y.piu.rudders)[i] =
      rudderSwapped (old.elim noRudder (·.rudders[i])) (rudderOf x i) x.now x.piu.rudders[i] := fun i => by
    rw [foldl_updAt_get _ _ (List.nodup_finRange 3), if_pos (List.mem_finRange i), hentry, hnow, hpiu]
  have hsame : y.piu = { x.piu with engines := y.piu.engines } := by rw [hpiu]
  revert rudders hR
  generalize (List.finRange 3).foldl (fun v i =>
    updAt v i (rudderSwapped (old.elim noRudder (·.rudders[i])) (rudderOf y i) y.now)) y.piu.rudders = R
  intro rudders hR
  rw [← hpiu] at engines
  refine ⟨{ y.piu with rudders := R }, (engines.trans rudders).congr rfl fun a j => ?_, ?_, hE, hR⟩
  · simp only [List.mem_finRange, true_and, hentry]
  · rw [hsame]

end Sys2Proof.Machine

/-! # The join and the answer at an ALLOC swap (R19, R194) -/

namespace Sys2Proof.Machine

/-! ## The lead that has lost its X slots -/

/-- A lead in JOINED whose table names no X slot. -/
def losesSlots (x : State) : Bool := x.role == .lead && isJoined x && !anyXConfigured x

/-- Such a lead tells the helper and leaves JOINED. -/
def slotsLost (x : State) : State :=
  if x.role = .lead ∧ isJoined x = true ∧ anyXConfigured x = false then
    leaveJoined (reasonByte .noXSlot) (sendJoin (unjoinFrame .noXSlot) x)
  else x

/-- The swap with its stations, engines and rudders. -/
def tableSwapped (s : State) : State := piuSwap (allocOf s) (csuSwap (allocOf s) (newTable s))

theorem allocSwap_eq (s : State) : allocSwap s = answerCommit .alloc (slotsLost (tableSwapped s)) := rfl

section Slots
variable {x : State}

theorem losesSlots_iff : losesSlots x = true ↔ x.role = .lead ∧ isJoined x = true ∧ anyXConfigured x = false := by
  simp [losesSlots, and_assoc]

theorem slotsLost_kept (h : losesSlots x = false) : slotsLost x = x :=
  if_neg fun c => by rw [losesSlots_iff.2 c] at h; cases h

theorem xEntries_unconfigured (h : anyXConfigured x = false) :
    (engineEntry x 4).configured = false ∧ (engineEntry x 5).configured = false := by
  unfold anyXConfigured at h
  simp only [Bool.or_eq_false_iff] at h
  exact h.1

theorem xEnginesLeft_unconfigured (h : anyXConfigured x = false) : xEnginesLeft x = x.piu.engines := by
  obtain ⟨h4, h5⟩ := xEntries_unconfigured h
  refine row_ext fun e => xEnginesLeft_other ?_
  match e with
  | 0 | 1 | 2 | 3 => exact .inl (by decide)
  | 4 => exact .inr h4
  | 5 => exact .inr h5

theorem faultsCleared_unconfigured (h : anyXConfigured x = false) (u : State) : faultsCleared x u = u := by
  obtain ⟨h4, h5⟩ := xEntries_unconfigured h
  rw [faultsCleared_eq]
  unfold faultCleared
  simp [h4, h5]

/-- A lead out of JOINED, the helper told. -/
def slotsLeft (x : State) : State := { x with
  csu := { x.csu with join := .localMode, setpointLoss := none, hold := none },
  hlc := (handLink (unjoinFrame .noXSlot) .csu x).1.hlc }

/-- A lead whose table names no X slot leaves JOINED and keeps its engine records. -/
theorem leaveJoined_slotless (hr : x.role = .lead) (hx : anyXConfigured x = false) (d : Byte) : leaveJoined d x =
    reportStatus x.csu.inCommand .unjoined d (raiseAlarm .helperUnjoined .none
      { x with csu := { x.csu with join := .localMode, setpointLoss := none, hold := none } }) := by
  rw [leaveJoined_lead hr, faultsCleared_unconfigured hx, xEnginesLeft_unconfigured hx]

theorem slotsLost_left (h : losesSlots x = true) : slotsLost x =
    reportStatus x.csu.inCommand .unjoined (reasonByte .noXSlot) (raiseAlarm .helperUnjoined .none (slotsLeft x)) := by
  obtain ⟨hr, -, hx⟩ := losesSlots_iff.1 h
  have hs := sendJoin_of_same (s := x) (t := x) rfl rfl (unjoinFrame .noXSlot)
  rw [slotsLost, if_pos (losesSlots_iff.1 h), hs]
  exact leaveJoined_slotless (x := { x with hlc := (handLink (unjoinFrame .noXSlot) .csu x).1.hlc }) hr hx _

theorem slotsLost_told (x : State) :
    Told (if losesSlots x then slotsLeft x else x) (slotsLost x) ∧
    (∀ a j, isRaised a j (slotsLost x) = true ↔
      (losesSlots x = true ∧ a = .helperUnjoined ∧ j = .none) ∨ isRaised a j x = true) ∧
    Reported x (slotsLost x) (if losesSlots x
      then [statusShown (x.csu.inCommand.elim 255 (fun i => byteOf i.val), .unjoined, reasonByte .noXSlot)] else []) := by
  cases h : losesSlots x with
  | false =>
    rw [slotsLost_kept h]
    exact ⟨.refl _, fun a j => by simp, .silent rfl rfl⟩
  | true =>
    rw [slotsLost_left h]
    refine ⟨(raiseAlarm_told _ _ _).trans (reportStatus_told _ _ _ _), fun a j => ?_, ?_⟩
    · rw [isRaised_reportStatus, isRaised_raiseAlarm]
      simp only [true_and]
      exact or_comm
    · have raised := (raiseAlarm_reported (slotsLeft x) .helperUnjoined .none).after_silent (s := x) rfl rfl
      exact raised.trans (reportStatus_reported _ x.csu.inCommand .unjoined (reasonByte .noXSlot))

end Slots

/-! ## The answer to the commit -/

/-- The response to a commit of ALLOC. -/
def commitResponse (s : State) (node : Node) : Frame :=
  { cls := 9, node := node, kind := 12, payload := [0, 128] ++ beBytes 4 (activeCommit s .alloc) }

section Answer
variable (x : State)

/-- A response that leaves its queue below full stands last in it. -/
theorem handResponse_last (f : Frame) (hi : x.pcw.state ≠ .isolated)
    (hl : (handResponse .mgu f x).1.pcw.tx[classQueue x .w f.cls].length < 16) :
    (handResponse .mgu f x).1.pcw.tx[classQueue x .w f.cls].getLast? = some ⟨f, .mgu⟩ := by
  have hp : (handResponse .mgu f x).1.pcw = (handPort .w f .mgu x).1.pcw := by
    unfold handResponse
    generalize handPort .w f .mgu x = r
    obtain ⟨t, b⟩ := r
    cases b <;> rfl
  rw [hp] at hl ⊢
  revert hl
  unfold handPort
  dsimp only
  split
  · rename_i e; exact absurd e hi
  · split
    · intro _
      show (updAt x.pcw.tx (classQueue x .w f.cls) _)[classQueue x .w f.cls].getLast? = _
      rw [updAt_getFin_same, List.getLast?_concat]
    · rename_i e
      exact fun hl => absurd hl e

theorem respond_commit (s : State) (node : Node) :
    respond node 12 .ok (beBytes 4 (activeCommit s .alloc)) x = (handResponse .mgu (commitResponse s node) x).1 := by
  have hb : ∀ l : List Byte, l.length = 4 → respond node 12 .ok l x =
      (handResponse .mgu { cls := 9, node := node, kind := 12, payload := [0, 128] ++ l } x).1 := fun l hl => by
    have hc : cutParts 4 l = [l] := by rw [cutParts, if_pos (by omega)]
    unfold respond responseFrames
    rw [hl, hc]
    rfl
  exact hb _ (by simp [beBytes])

theorem handResponse_raised (o : Origin) (f : Frame) : (handResponse o f x).1.mgu.raised = x.mgu.raised := by
  obtain ⟨g, hg⟩ := handPort_port x .w f o
  have h : (handPort .w f o x).1.mgu = x.mgu := by rw [hg]; rfl
  unfold handResponse
  revert h
  generalize handPort .w f o x = r
  obtain ⟨t, b⟩ := r
  intro h
  cases b <;> exact (congrArg Mgu.raised h : t.mgu.raised = x.mgu.raised)

theorem isRaised_respond (node : Node) (kind : Nat) (a : Answer) (data : List Byte) (b : Alarm) (j : Subject) :
    isRaised b j (respond node kind a data x) = isRaised b j x := by
  refine isRaised_congr ?_ b j
  unfold respond
  generalize responseFrames node kind a data = l
  induction l generalizing x with
  | nil => rfl
  | cons f l ih => rw [List.foldl_cons, ih, handResponse_raised]

theorem answerCommit_none (h : x.mgu.slot = none) : answerCommit .alloc x = x := by
  unfold answerCommit finishLong
  rw [h]

theorem answerCommit_some {r : LongReq} (h : x.mgu.slot = some r) : answerCommit .alloc x =
    respond r.node (longKind r.op) .ok (beBytes 4 (activeCommit x .alloc)) (x.onMgu fun m => { m with slot := none }) := by
  unfold answerCommit finishLong
  rw [h]

theorem answerCommit_told :
    Told (x.onMgu fun m => { m with slot := none }) (answerCommit .alloc x) ∧
    (∀ a j, isRaised a j (answerCommit .alloc x) = isRaised a j x) ∧ Reported x (answerCommit .alloc x) [] := by
  cases h : x.mgu.slot with
  | none =>
    have hx : (x.onMgu fun m => { m with slot := none }) = x := by
      unfold State.onMgu
      rw [← h]
    rw [answerCommit_none x h, hx]
    exact ⟨.refl _, fun _ _ => rfl, .silent rfl rfl⟩
  | some r =>
    rw [answerCommit_some x h]
    refine ⟨respond_told _ _ _ _ _, fun a j => ?_, (respond_reported _ _ _ _ _).after_silent rfl rfl⟩
    rw [isRaised_respond]
    rfl

theorem answerCommit_last {node : Node} (h : x.mgu.slot = some ⟨node, .commit .alloc⟩) (hi : x.pcw.state ≠ .isolated)
    (hl : (answerCommit .alloc x).pcw.tx[classQueue x .w 9].length < 16) :
    (answerCommit .alloc x).pcw.tx[classQueue x .w 9].getLast? = some ⟨commitResponse x node, .mgu⟩ := by
  rw [answerCommit_some x h] at hl ⊢
  have hr := respond_commit (x.onMgu fun m => { m with slot := none }) x node
  simp only [longKind, hr] at hl ⊢
  exact handResponse_last _ _ hi hl

end Answer

end Sys2Proof.Machine

/-! # The ALLOC swap as a whole (R1, R19, R24, R46, R90, R194) -/

namespace Sys2Proof.Machine

/-- An engine's entry in the table in force and in the active bank's. -/
def oldEngine (s : State) (e : Fin 6) : EngineEntry := (allocOf s).elim noEngine (·.engines[e])
def newEngine (s : State) (e : Fin 6) : EngineEntry := ((activeAlloc s).map limitAlloc).elim noEngine (·.engines[e])

/-- A rudder group's entry in each. -/
def oldRudder (s : State) (i : Fin 3) : RudderEntry := (allocOf s).elim noRudder (·.rudders[i])
def newRudder (s : State) (i : Fin 3) : RudderEntry := ((activeAlloc s).map limitAlloc).elim noRudder (·.rudders[i])

/-- The alarms that the interface clears at the swap. -/
def piuClears (s : State) (a : Alarm) (j : Subject) : Prop :=
  (∃ e : Fin 6, a = .engineFault ∧ j = .engine e ∧ losesEngine (oldEngine s e) (newEngine s e) = true ∧
    s.piu.engines[e].avail = .faulted) ∨
  ∃ i : Fin 3, (a = .rudderLost ∨ a = .rudderFault) ∧ j = .rudder i ∧ (oldRudder s i).configured = true ∧
    (newRudder s i).configured = false

/-- The interface's records after the swap. -/
def piuSwapped (s : State) : Piu := { s.piu with
  engines := Vector.ofFn fun e => engineSwapped (oldEngine s e) (newEngine s e) s.now s.piu.engines[e]
  rudders := Vector.ofFn fun i => rudderSwapped (oldRudder s i) (newRudder s i) s.now s.piu.rudders[i] }

/-- The state in which the table has been taken but for the lead's join. -/
def tableTaken (s : State) : State := { newTable s with
  csu := csuAt s 4
  cmu := { s.cmu with release := if holderReplaced s then s.cmu.release.disarmed else s.cmu.release }
  piu := piuSwapped s }

section Swap
variable {s : State}

theorem tableSwapped_taken (hone : s.csu.OneHolder) : Told (tableTaken s) (tableSwapped s) ∧
    (∀ a j, isRaised a j (tableSwapped s) = true ↔
      (isRaised a j s = true ∧ ¬(holderReplaced s = true ∧ a = .commandStale)) ∧ ¬piuClears s a j) ∧
    Reported s (tableSwapped s) (((List.finRange 4).flatMap (removalReports s)).map statusShown) := by
  obtain ⟨stations, reports⟩ := csuSwap_swapped hone
  unfold tableSwapped
  revert stations reports
  generalize csuSwap (allocOf s) (newTable s) = y
  intro stations reports
  obtain ⟨p, step, hp, hE, hR⟩ := piuSwap_step (allocOf s) y
  have hpiu : y.piu = s.piu := by rw [stations.told.rest]; rfl
  have htau : y.tau = (newTable s).tau := by rw [stations.told.rest]
  have hnow : y.now = s.now := by rw [stations.told.rest]; rfl
  have hengine : ∀ e, engineEntry y e = newEngine s e := fun e => engineEntry_congr htau
  have hrudder : ∀ i, rudderOf y i = newRudder s i := fun i => rudderOf_congr htau
  have hgone := goneBy_four s
  have engines : p.engines = (piuSwapped s).engines := row_ext fun e => by
    rw [hE, hengine, hnow, hpiu]
    simp [piuSwapped, oldEngine]
  have rudders : p.rudders = (piuSwapped s).rudders := row_ext fun i => by
    rw [hR, hrudder, hnow, hpiu]
    simp [piuSwapped, oldRudder]
  have hpeq : p = piuSwapped s := hp.trans (by rw [engines, rudders, hpiu]; rfl)
  subst hpeq
  refine ⟨?_, fun a j => ?_, ?_⟩
  · have told := stations.told.beside (fun u => { u with piu := piuSwapped s }) (fun _ _ _ => rfl) (fun _ => rfl) (fun _ => rfl)
    rw [hgone] at told
    exact told.trans step.told
  · rw [step.alarms, stations.alarms, hgone]
    simp only [hengine, hrudder, hpiu]
    rfl
  · have := reports.trans step.reports
    rwa [List.append_nil] at this

theorem losesXSlots_eq {z : State} (hr : z.role = s.role) (hj : z.csu.join = s.csu.join) (ht : z.tau = (newTable s).tau) :
    losesSlots z = losesXSlots s := by
  have hx : anyXConfigured z = (activeAlloc s).elim false fun x =>
      x.engines[4].configured || x.engines[5].configured || x.rudders[2].configured := by
    have e4 : engineEntry z 4 = newEngine s 4 := engineEntry_congr ht
    have e5 : engineEntry z 5 = newEngine s 5 := engineEntry_congr ht
    have e2 : rudderOf z 2 = newRudder s 2 := rudderOf_congr ht
    unfold anyXConfigured
    rw [e4, e5, e2]
    unfold newEngine newRudder
    cases activeAlloc s with
    | none => rfl
    | some t => simp [limitAlloc, limitEngine, limitRudder]
  unfold losesSlots losesXSlots
  rw [hx, hr]
  have hjoin : isJoined z = (s.csu.join == .joined || s.csu.join == .holding) := by
    unfold isJoined
    rw [hj]
    cases s.csu.join <;> rfl
  rw [hjoin]

theorem newRudder_configured (i : Fin 3) : (newRudder s i).configured = ((activeAlloc s).elim noRudder (·.rudders[i])).configured := by
  unfold newRudder
  cases activeAlloc s with
  | none => rfl
  | some t => simp [limitAlloc, limitRudder]

theorem engineSwapped_faulted (old new : EngineEntry) (now : Nat) (r : EngineRec) (h : r.avail = .faulted) :
    (engineSwapped old new now r).avail = .faulted ↔ losesEngine old new = false := by
  unfold engineSwapped losesEngine
  cases old.configured <;> cases new.configured
  · simp [h]
  · simp [lostBySwap, madeLost]
  · simp [h]
  · by_cases e : old.fbNode = new.fbNode <;> simp [e, h, lostBySwap, madeLost]

end Swap

end Sys2Proof.Machine

/-! # What the ALLOC swap leaves: `AllocTaken` -/

namespace Sys2Proof.Machine

/-- The lead's join, and the link to which its UNJOIN was handed (R19). -/
def joinAfterSwap (s u : State) : State := { u with
  csu := { u.csu with
    join := if losesXSlots s then .localMode else u.csu.join
    setpointLoss := if losesXSlots s then none else u.csu.setpointLoss
    hold := if losesXSlots s then none else u.csu.hold }
  hlc := if losesXSlots s then (handLink (unjoinFrame .noXSlot) .csu s).1.hlc else u.hlc }

theorem slotsLeft_eq {s z : State} (hh : z.hlc = s.hlc) (hf : z.fsw = s.fsw) (hl : losesSlots z = losesXSlots s) :
    (if losesSlots z then slotsLeft z else z) = joinAfterSwap s z := by
  unfold joinAfterSwap slotsLeft
  have h := congrArg State.hlc (handLink_of_same hh hf (unjoinFrame .noXSlot) .csu)
  rw [hl]
  cases losesXSlots s with
  | false => rfl
  | true => simp only [if_true, h]

/-- The long request's slot freed beside what was told. -/
theorem Told.slotFreed {s t : State} (h : Told s t) :
    Told (s.onMgu fun m => { m with slot := none }) (t.onMgu fun m => { m with slot := none }) :=
  ⟨congrArg (fun u : State => u.onMgu fun m => { m with slot := none }) h.rest, h.port, h.queues,
    congrArg (fun m : Mgu => { m with slot := none }) h.unit⟩

section Taken
variable {s : State}

theorem swapReports_eq (z : State) (hz : z.csu.inCommand = if holderReplaced s then none else s.csu.inCommand) :
    (swapReports s).map statusShown = ((List.finRange 4).flatMap (removalReports s)).map statusShown ++
      if losesXSlots s
        then [statusShown (z.csu.inCommand.elim 255 (fun i => byteOf i.val), .unjoined, reasonByte .noXSlot)] else [] := by
  unfold swapReports
  rw [List.map_append, hz]
  congr 1
  cases losesXSlots s with
  | false => rfl
  | true => cases holderReplaced s <;> rfl

/-- The state that `allocSwap` reaches: what it holds, its alarms, its reports and the answer. -/
theorem allocSwap_reached (hone : s.csu.OneHolder) :
    Told ((joinAfterSwap s (tableTaken s)).onMgu fun m => { m with slot := none }) (allocSwap s) ∧
    (∀ a j, isRaised a j (allocSwap s) = true ↔ (losesXSlots s = true ∧ a = .helperUnjoined ∧ j = .none) ∨
      (isRaised a j s = true ∧ ¬(holderReplaced s = true ∧ a = .commandStale)) ∧ ¬piuClears s a j) ∧
    Reported s (allocSwap s) ((swapReports s).map statusShown) ∧
    ∀ node, s.mgu.slot = some ⟨node, .commit .alloc⟩ → s.pcw.state ≠ .isolated →
      (allocSwap s).pcw.tx[classQueue s .w 9].length < 16 →
      (allocSwap s).pcw.tx[classQueue s .w 9].getLast? = some ⟨commitResponse s node, .mgu⟩ := by
  obtain ⟨told, alarms, reports⟩ := tableSwapped_taken hone
  rw [allocSwap_eq]
  revert told alarms reports
  generalize tableSwapped s = z
  intro told alarms reports
  have hz : z.csu = csuAt s 4 := by rw [told.rest]; rfl
  have hhlc : z.hlc = s.hlc := by rw [told.rest]; rfl
  have hfsw : z.fsw = s.fsw := by rw [told.rest]; rfl
  have hnvs : z.nvs = s.nvs := by rw [told.rest]; rfl
  have hslot : z.mgu.slot = s.mgu.slot := by rw [told.unit]; rfl
  have hl : losesSlots z = losesXSlots s :=
    losesXSlots_eq (by rw [told.rest]; rfl) (by rw [hz]; rfl) (by rw [told.rest]; rfl)
  obtain ⟨leftTold, leftAlarms, leftReports⟩ := slotsLost_told z
  rw [slotsLeft_eq hhlc hfsw hl] at leftTold
  rw [hl] at leftReports
  have join : Told (joinAfterSwap s (tableTaken s)) (joinAfterSwap s z) :=
    told.beside (joinAfterSwap s) (fun _ _ _ => rfl) (fun _ => rfl) (fun _ => rfl)
  have told' := join.trans leftTold
  have reports' := reports.trans leftReports
  rw [← swapReports_eq z (by rw [hz]; unfold csuAt csuWith; rw [goneBy_four])] at reports'
  have alarms' : ∀ a j, isRaised a j (slotsLost z) = true ↔ (losesXSlots s = true ∧ a = .helperUnjoined ∧ j = .none) ∨
      (isRaised a j s = true ∧ ¬(holderReplaced s = true ∧ a = .commandStale)) ∧ ¬piuClears s a j := fun a j => by
    rw [leftAlarms, alarms, hl]
  have hmgu : (slotsLost z).mgu.slot = s.mgu.slot := by rw [leftTold.unit]; exact hslot
  have hnvs' : (slotsLost z).nvs = s.nvs := by rw [leftTold.rest]; exact hnvs
  clear leftTold leftAlarms leftReports join
  revert told' reports' alarms' hmgu hnvs'
  generalize slotsLost z = w
  intro told' reports' alarms' hmgu hnvs'
  obtain ⟨answered, answerAlarms, answerReports⟩ := answerCommit_told w
  refine ⟨told'.slotFreed.trans answered, fun a j => by rw [answerAlarms, alarms'], ?_, fun node hs hi hlen => ?_⟩
  · have := reports'.trans answerReports
    rwa [List.append_nil] at this
  · have hq := classQueue_congr reports'.fsw .w 9
    have hresp : commitResponse s node = commitResponse w node := by
      unfold commitResponse activeCommit activeBank; rw [hnvs']
    have last := answerCommit_last w (hmgu.trans hs) (by rw [reports'.state]; exact hi)
      (by simp only [hq]; exact hlen)
    simp only [hq] at last
    rw [hresp]
    exact last

theorem not_piuClears_iff (a : Alarm) (j : Subject) : ¬piuClears s a j ↔
    (∀ e : Fin 6, a = .engineFault → j = .engine e → s.piu.engines[e].avail = .faulted →
      (engineSwapped (oldEngine s e) (newEngine s e) s.now s.piu.engines[e]).avail = .faulted) ∧
    ∀ i : Fin 3, a = .rudderLost ∨ a = .rudderFault → j = .rudder i →
      (oldRudder s i).configured = true → (newRudder s i).configured = true := by
  unfold piuClears
  rw [not_or]
  refine and_congr ⟨fun h e ha hj hf => ?_, ?_⟩ ⟨fun h i ha hj ho => ?_, ?_⟩
  · rw [engineSwapped_faulted _ _ _ _ hf, Bool.eq_false_iff]
    exact fun hl => h ⟨e, ha, hj, hl, hf⟩
  · rintro h ⟨e, ha, hj, hl, hf⟩
    have := (engineSwapped_faulted _ _ _ _ hf).1 (h e ha hj hf)
    rw [hl] at this
    cases this
  · rw [← Bool.not_eq_false]
    exact fun hn => h ⟨i, ha, hj, ho, hn⟩
  · rintro h ⟨i, ha, hj, ho, hn⟩
    have := h i ha hj ho
    rw [hn] at this
    cases this

theorem allocSwap_taken (hone : s.csu.OneHolder) : AllocTaken s (allocSwap s) := by
  obtain ⟨told, alarms, reports, answered⟩ := allocSwap_reached hone
  revert told alarms reports answered
  generalize allocSwap s = u
  intro told alarms reports answered
  have hcsu : u.csu = (joinAfterSwap s (tableTaken s)).csu := by rw [told.rest]; rfl
  have hpiu : u.piu = piuSwapped s := by rw [told.rest]; rfl
  have hE : ∀ e : Fin 6, u.piu.engines[e] = engineSwapped (oldEngine s e) (newEngine s e) s.now s.piu.engines[e] := fun e => by
    rw [hpiu]; simp [piuSwapped]
  have hR : ∀ i : Fin 3, u.piu.rudders[i] = rudderSwapped (oldRudder s i) (newRudder s i) s.now s.piu.rudders[i] := fun i => by
    rw [hpiu]; simp [piuSwapped]
  refine ⟨?_, ?_, fun i => ?_, hE, hR, fun a j => ?_, fun hi hl => ?_, answered⟩
  · rw [hcsu, hpiu]
    exact told
  · rw [hcsu]
    have h1 := goneBy_four s
    have h2 := endedBy_four s
    have h3 := turnedBy_four s
    show ({ csuAt s 4 with join := _, setpointLoss := _, hold := _ } : Csu) = _
    unfold csuAt csuWith
    rw [h1, h2, h3]
    rfl
  · rw [hcsu]
    exact stationsAt_four s i
  · rw [alarms, not_piuClears_iff, and_comm (a := holderReplaced s = true), and_assoc]
    simp only [newRudder_configured, hE]
    rfl
  · obtain ⟨new, hq, hs⟩ := reports.frames hi hl
    rw [hq, List.drop_left]
    exact hs

end Taken

end Sys2Proof.Machine

/-! # The cycle that takes an ALLOC table runs on it -/

namespace Sys2Proof.Machine

/-- The cycle timer of the TAU. -/
def withCycleTimer (x : Timer) (s : State) : State := s.onTau fun u => { u with timer := x }

/-- A swap reads and leaves the cycle's timer alone. -/
theorem AllocTaken.retimed {s v : State} {x : Timer} (h : AllocTaken (withCycleTimer x s) v) :
    AllocTaken s (withCycleTimer s.tau.timer v) := by
  have link : (handLink (unjoinFrame .noXSlot) .csu (withCycleTimer x s)).1.hlc = (handLink (unjoinFrame .noXSlot) .csu s).1.hlc := by
    rw [handLink_of_same (s := s) (t := withCycleTimer x s) rfl rfl]
  have told := h.told.beside (withCycleTimer s.tau.timer) (fun _ _ _ => rfl) (fun _ => rfl) (fun _ => rfl)
  rw [link] at told
  exact ⟨told, h.unit, h.stations, h.engines, h.rudders, h.alarms, h.reports, h.answered⟩

/-! ## What a cycle keeps of the records -/

/-- The parts of an engine record that no cycle writes. -/
structure SameEngine (a b : EngineRec) : Prop where
  avail : b.avail = a.avail
  run : b.run = a.run
  timer : b.timer = a.timer
  retiring : b.retiring = a.retiring

theorem slotWritten_sameEngine (r : EngineRec) (g : Gear × Nat) (rpm : Nat) : SameEngine r (slotWritten r g rpm) := ⟨rfl, rfl, rfl, rfl⟩

theorem fullEngine_sameEngine (s : State) (t : AllocTable) (d turn : Int) (i : Fin 6) (r : EngineRec) :
    SameEngine r (fullEngine s t d turn i r) := by
  unfold fullEngine
  split
  · exact slotWritten_sameEngine ..
  · split
    · exact slotWritten_sameEngine ..
    · split
      · exact slotWritten_sameEngine ..
      · exact ⟨rfl, rfl, rfl, rfl⟩

theorem joinedEngine_sameEngine (s : State) (t : AllocTable) (i : Fin 6) (r : EngineRec) : SameEngine r (joinedEngine s t i r) := by
  unfold joinedEngine
  split
  · exact slotWritten_sameEngine ..
  · split
    · exact slotWritten_sameEngine ..
    · exact ⟨rfl, rfl, rfl, rfl⟩

/-- What the stages of a cycle leave: the CSU, the TAU, the engine records, and availability and feedback timer of each group. -/
structure RuddersMoved (x y : State) : Prop where
  csu : y.csu = x.csu
  tau : y.tau = x.tau
  engines : y.piu.engines = x.piu.engines
  rudders : ∀ i : Fin 3, y.piu.rudders[i].avail = x.piu.rudders[i].avail ∧ y.piu.rudders[i].timer = x.piu.rudders[i].timer

theorem RuddersMoved.refl (x : State) : RuddersMoved x x := ⟨rfl, rfl, rfl, fun _ => ⟨rfl, rfl⟩⟩

theorem RuddersMoved.trans {x y z : State} (h : RuddersMoved x y) (k : RuddersMoved y z) : RuddersMoved x z :=
  ⟨k.csu.trans h.csu, k.tau.trans h.tau, k.engines.trans h.engines,
    fun i => ⟨(k.rudders i).1.trans (h.rudders i).1, (k.rudders i).2.trans (h.rudders i).2⟩⟩

theorem RuddersMoved.foldl {α : Type} {f : State → α → State} (hf : ∀ x a, RuddersMoved x (f x a)) (l : List α) (x : State) :
    RuddersMoved x (l.foldl f x) := by
  induction l generalizing x with
  | nil => exact .refl x
  | cons a l ih => exact (hf x a).trans (ih _)

theorem clearAlarm_ruddersMoved (x : State) (a : Alarm) (j : Subject) : RuddersMoved x (clearAlarm a j x) :=
  ⟨clearAlarm_csu .., clearAlarm_tau .., by rw [clearAlarm_piu], fun i => by rw [clearAlarm_piu]; exact ⟨rfl, rfl⟩⟩

theorem onRudder_ruddersMoved (x : State) (i : Fin 3) (f : RudderRec → RudderRec) (ha : ∀ r, (f r).avail = r.avail)
    (ht : ∀ r, (f r).timer = r.timer) : RuddersMoved x (onRudder i f x) := by
  refine ⟨rfl, rfl, rfl, fun j => ?_⟩
  show (updAt x.piu.rudders i f)[j].avail = _ ∧ (updAt x.piu.rudders i f)[j].timer = _
  rw [updAt_getFin]
  split
  · exact ⟨ha _, ht _⟩
  · exact ⟨rfl, rfl⟩

theorem evalDeviation_ruddersMoved (i : Fin 3) (x : State) : RuddersMoved x (evalDeviation i x) := by
  have timed : ∀ w : Timer, RuddersMoved x (onRudder i ({ · with deviation := w }) x) := fun w =>
    onRudder_ruddersMoved x i _ (fun _ => rfl) (fun _ => rfl)
  unfold evalDeviation
  dsimp only
  split
  · split
    · split
      · exact timed _
      · exact .refl x
    · exact (timed none).trans (clearAlarm_ruddersMoved ..)
  · exact .refl x

theorem cycleRudder_ruddersMoved (t : AllocTable) (w : Fin 3 → Int) (x : State) (i : Fin 3) :
    RuddersMoved x (cycleRudder t w x i) := by
  unfold cycleRudder writeAngle
  split
  · have written := onRudder_ruddersMoved x i (fun r => { r with
      angle := some (moveAngle (startAngle x.piu.rudders[i]) (w i) t.rudders[i].slew), fresh := true })
      (fun _ => rfl) (fun _ => rfl)
    exact written.trans (evalDeviation_ruddersMoved i _)
  · exact .refl x

theorem joinedRudder_ruddersMoved (t : AllocTable) (x : State) (i : Fin 3) : RuddersMoved x (joinedRudder t x i) := by
  unfold joinedRudder
  split
  · exact .refl x
  · exact cycleRudder_ruddersMoved ..

theorem noPropulsion_ruddersMoved (t : AllocTable) (x : State) : RuddersMoved x (noPropulsion t x) := by
  have h := syncAlarm_same x .noPropulsion .none (anyConfigured t && wAv x t == 0)
  have hp : (noPropulsion t x).piu = x.piu := by unfold noPropulsion; rw [h]
  exact ⟨by unfold noPropulsion; rw [h], by unfold noPropulsion; rw [h], by rw [hp], fun i => by rw [hp]; exact ⟨rfl, rfl⟩⟩

/-- What a whole cycle keeps. -/
structure CycleKeeps (x y : State) : Prop where
  csu : y.csu = x.csu
  alloc : y.tau.alloc = x.tau.alloc
  swapWaiting : y.tau.swapWaiting = x.tau.swapWaiting
  engines : ∀ e : Fin 6, SameEngine x.piu.engines[e] y.piu.engines[e]
  rudders : ∀ i : Fin 3, y.piu.rudders[i].avail = x.piu.rudders[i].avail ∧ y.piu.rudders[i].timer = x.piu.rudders[i].timer

theorem CycleKeeps.of_moved {x y : State} {F : Fin 6 → EngineRec → EngineRec} (hF : ∀ e r, SameEngine r (F e r))
    (h : RuddersMoved (x.onPiu fun p => { p with engines := Vector.ofFn fun i => F i p.engines[i] }) y) : CycleKeeps x y := by
  refine ⟨h.csu, by rw [h.tau]; rfl, by rw [h.tau]; rfl, fun e => ?_, h.rudders⟩
  have he : y.piu.engines[e] = F e x.piu.engines[e] := by rw [h.engines]; simp [State.onPiu]
  rw [he]
  exact hF e _

theorem joinedStages_keeps (t : AllocTable) (x : State) : CycleKeeps x (joinedStages t x) := by
  have moved := RuddersMoved.foldl (joinedRudder_ruddersMoved t) (List.finRange 3)
    (x.onPiu fun p => { p with engines := Vector.ofFn fun i => joinedEngine x t i p.engines[i] })
  exact .of_moved (joinedEngine_sameEngine x t) moved

theorem fullStages_keeps (t : AllocTable) (d turn : Int) (x : State) : CycleKeeps x (fullStages t d turn x) := by
  have moved := RuddersMoved.foldl (cycleRudder_ruddersMoved t fun i => wantedAngle t.rudders[i] i d turn) (List.finRange 3)
    (x.onPiu fun p => { p with engines := Vector.ofFn fun i => fullEngine x t d turn i p.engines[i] })
  exact .of_moved (fullEngine_sameEngine x t d turn) (moved.trans (noPropulsion_ruddersMoved t _))

theorem CycleKeeps.of_targets {x y : State} {d turn : Int} (h : CycleKeeps (x.onTau fun u => { u with dEff := d, tEff := turn }) y) :
    CycleKeeps x y := ⟨h.csu, h.alloc, h.swapWaiting, h.engines, h.rudders⟩

theorem runCycle_keeps (x : State) : CycleKeeps x (runCycle x) := by
  unfold runCycle
  split
  · exact ⟨rfl, rfl, rfl, fun _ => ⟨rfl, rfl, rfl, rfl⟩, fun _ => ⟨rfl, rfl⟩⟩
  · dsimp only
    split
    · exact (joinedStages_keeps _ _).of_targets
    · exact (fullStages_keeps _ _ _ _).of_targets

/-! ## The cycle -/

/-- The state in which a cycle that was due at `d` begins. -/
def cycleBegun (d : Nat) (s : State) : State :=
  withCycleTimer (some (max s.now d + Config.cycleTime)) { s with now := max s.now d }

theorem exec_allocationCycle {s : State} {d : Nat} (hr : s.power = .run) (ht : s.tau.timer = some d) :
    exec .allocationCycle s =
      .next (runCycle (if s.tau.swapWaiting then allocSwap (cycleBegun d s) else cycleBegun d s)) :=
  congrArg Host.Outcome.next (expiry_runs (timer := fun s => s.tau.timer)
    (k := fun _ s => let x := s.onTau ({ · with timer := timerFor s Config.cycleTime })
                     runCycle (if x.tau.swapWaiting then allocSwap x else x)) hr ht)

/-- Settles O28: the state `u` is the one after the swap with the cycle's timer put back, so that the cycle of `u` has nothing left to do
but to run. -/
theorem allocSwapTakesTable : Obligations.AllocSwapTakesTable := by
  unfold Obligations.AllocSwapTakesTable
  intro s d hr ht hw hone
  have taken : AllocTaken (cycleBegun d s) (allocSwap (cycleBegun d s)) := allocSwap_taken hone
  have runs : exec .allocationCycle s = .next (runCycle (allocSwap (cycleBegun d s))) := by
    rw [exec_allocationCycle hr ht, hw]
    rfl
  revert taken runs
  generalize allocSwap (cycleBegun d s) = v
  intro taken runs
  have hnow : v.now = max s.now d := by rw [taken.told.rest]; rfl
  have htau : v.tau = { s.tau with alloc := activeAlloc s, swapWaiting := false,
                                   timer := some (max s.now d + Config.cycleTime) } := by rw [taken.told.rest]; rfl
  have hpower : v.power = .run := by rw [taken.told.rest]; exact hr
  have begun : cycleBegun d (withCycleTimer (some d) v) = v := by
    have hn : max v.now d = v.now := by rw [hnow]; omega
    have htimer : some (v.now + Config.cycleTime) = v.tau.timer := by rw [htau, hnow]
    show ({ v with now := max v.now d, tau := { v.tau with timer := some (max v.now d + Config.cycleTime) } } : State) = v
    rw [hn, htimer]
  have hu := AllocTaken.retimed (s := { s with now := max s.now d }) taken
  have keeps := runCycle_keeps v
  refine ⟨withCycleTimer s.tau.timer v, runCycle v, hu, runs, ?_, keeps.csu, ?_, ?_, fun e => ?_, keeps.rudders⟩
  · rw [ht, exec_allocationCycle (s := withCycleTimer (some d) v) (d := d) hpower rfl, begun]
    have : (withCycleTimer (some d) v).tau.swapWaiting = false := by
      show v.tau.swapWaiting = false
      rw [htau]
    rw [this]
    rfl
  · rw [keeps.alloc, htau]
  · rw [keeps.swapWaiting, htau]
  · obtain ⟨avail, run, timer, retiring⟩ := keeps.engines e
    exact ⟨avail, run, timer, retiring⟩

end Sys2Proof.Machine

/-! # Alarms that follow a condition (R200) -/

namespace Sys2Proof.Machine

section Alarms
variable {s : State} {a b : Alarm} {j k : Subject}

theorem isRaised_raiseAlarm_of_ne (h : ¬(b = a ∧ k = j)) : isRaised b k (raiseAlarm a j s) = isRaised b k s := by
  rw [Bool.eq_iff_iff, isRaised_raiseAlarm, or_iff_left h]

theorem isRaised_clearAlarm_of_ne (h : ¬(b = a ∧ k = j)) : isRaised b k (clearAlarm a j s) = isRaised b k s := by
  rw [Bool.eq_iff_iff, isRaised_clearAlarm, and_iff_left h]

theorem isRaised_synced (a : Alarm) (j : Subject) (wanted : Bool) (s : State) : isRaised a j (syncAlarm a j wanted s) = wanted := by
  cases wanted with
  | true => exact isRaised_raised s a j
  | false => exact not_isRaised_cleared s a j

theorem isRaised_synced_of_ne (wanted : Bool) (h : ¬(b = a ∧ k = j)) :
    isRaised b k (syncAlarm a j wanted s) = isRaised b k s := by
  cases wanted with
  | true => exact isRaised_raiseAlarm_of_ne h
  | false => exact isRaised_clearAlarm_of_ne h

end Alarms

end Sys2Proof.Machine

/-! # The rudder groups that a cycle steers (R37 to R39, R41, R62) -/

namespace Sys2Proof.Machine

/-! ## The deviation of a group -/

/-- The deviation timer of a group after an evaluation (R62). -/
def deviationAt (now : Nat) (r : RudderRec) : Timer :=
  match r.avail, r.angle, r.feedback with
  | .available, some a, some fb =>
    if 50 < absInt (a - fb.angle) then some (r.deviation.getD (now + 2000 * Config.usPerMs)) else none
  | _, _, _ => r.deviation

/-- An evaluation finds the deviation at 50 or below. -/
def Settled (r : RudderRec) : Prop :=
  ∃ a fb, r.avail = .available ∧ r.angle = some a ∧ r.feedback = some fb ∧ (a - fb.angle).natAbs ≤ 50

/-- The record of a group after an evaluation. -/
def evaluated (now : Nat) (r : RudderRec) : RudderRec := { r with deviation := deviationAt now r }

theorem deviationAt_compared {now : Nat} {r : RudderRec} {a : Int} {fb : RudderFeedback} (hv : r.avail = .available)
    (ha : r.angle = some a) (hf : r.feedback = some fb) :
    deviationAt now r = if 50 < absInt (a - fb.angle) then some (r.deviation.getD (now + 2000 * Config.usPerMs)) else none := by
  unfold deviationAt; rw [hv, ha, hf]

theorem settled_compared {r : RudderRec} {a : Int} {fb : RudderFeedback} (hv : r.avail = .available)
    (ha : r.angle = some a) (hf : r.feedback = some fb) : Settled r ↔ (a - fb.angle).natAbs ≤ 50 := by
  unfold Settled; simp [hv, ha, hf]

/-- Nothing to compare: the record is not AVAILABLE, or has no feedback. -/
theorem evaluated_uncompared {now : Nat} {r : RudderRec} (h : r.avail ≠ .available ∨ r.feedback = none) :
    deviationAt now r = r.deviation ∧ ¬Settled r := by
  constructor
  · unfold deviationAt
    split
    · rename_i hv _ hf
      rcases h with h | h
      · exact absurd hv h
      · exact nomatch h.symm.trans hf
    · rfl
  · rintro ⟨a, fb, hv, -, hf, -⟩
    rcases h with h | h
    · exact h hv
    · exact nomatch h.symm.trans hf

theorem evalDeviation_step (i : Fin 3) (x : State) : PiuStep x (evalDeviation i x)
    { x.piu with rudders := updAt x.piu.rudders i (evaluated x.now) }
    fun a j => a = .rudderFault ∧ j = .rudder i ∧ Settled x.piu.rudders[i] := by
  have timed : ∀ w : Timer, deviationAt x.now x.piu.rudders[i] = w →
      PiuStep x (onRudder i ({ · with deviation := w }) x) { x.piu with rudders := updAt x.piu.rudders i (evaluated x.now) }
        fun _ _ => False := fun w hw =>
    (PiuStep.quiet x fun p => { p with rudders := updAt p.rudders i ({ · with deviation := w }) }).congr
      (congrArg (fun v => { x.piu with rudders := v }) (updAt_congr _ (by rw [← hw]; rfl))) fun _ _ => Iff.rfl
  have kept : deviationAt x.now x.piu.rudders[i] = x.piu.rudders[i].deviation →
      PiuStep x x { x.piu with rudders := updAt x.piu.rudders i (evaluated x.now) } fun _ _ => False := fun hw =>
    (PiuStep.quiet x id).congr
      (congrArg (fun v => { x.piu with rudders := v }) (updAt_eq_self _ (by unfold evaluated; rw [hw])).symm) fun _ _ => Iff.rfl
  unfold evalDeviation
  dsimp only
  split
  · rename_i a fb hv ha hf
    have hdev := deviationAt_compared (now := x.now) hv ha hf
    have hset := settled_compared hv ha hf
    by_cases far : 50 < absInt (a - fb.angle)
    · have unsettled : ¬Settled x.piu.rudders[i] := by rw [hset]; exact Nat.not_le.2 far
      rw [if_pos far] at hdev ⊢
      split
      · rename_i hd
        rw [hd] at hdev
        exact (timed _ hdev).congr rfl fun _ _ => ⟨False.elim, fun h => unsettled h.2.2⟩
      · rename_i hd
        obtain ⟨w, hw⟩ := Option.ne_none_iff_exists'.1 hd
        rw [hw] at hdev
        exact (kept (hdev.trans hw.symm)).congr rfl fun _ _ => ⟨False.elim, fun h => unsettled h.2.2⟩
    · have settled : Settled x.piu.rudders[i] := hset.2 (Nat.not_lt.1 far)
      rw [if_neg far] at hdev ⊢
      have clears := (timed none hdev).trans (PiuStep.cleared _ .rudderFault (.rudder i))
      exact clears.congr ((timed none hdev).piu) fun a j =>
        ⟨fun h => h.elim False.elim fun ⟨h1, h2⟩ => ⟨h1, h2, settled⟩, fun ⟨h1, h2, _⟩ => .inr ⟨h1, h2⟩⟩
  · rename_i hno
    have uncompared : ∀ a fb, ¬(x.piu.rudders[i].avail = .available ∧ x.piu.rudders[i].angle = some a ∧
        x.piu.rudders[i].feedback = some fb) := fun a fb ⟨hv, ha, hf⟩ => hno a fb hv ha hf
    refine (kept ?_).congr rfl fun _ _ => ⟨False.elim, fun ⟨_, _, a, fb, hv, ha, hf, _⟩ => uncompared a fb ⟨hv, ha, hf⟩⟩
    unfold deviationAt
    split
    · rename_i a fb hv ha hf
      exact absurd ⟨hv, ha, hf⟩ (uncompared a fb)
    · rfl

/-! ## A group written -/

/-- The record of a group whose slot is written (R52, R62). -/
def angleWritten (now : Nat) (v : Int) (r : RudderRec) : RudderRec := evaluated now { r with angle := some v, fresh := true }

theorem writeAngle_step (i : Fin 3) (v : Int) (x : State) : PiuStep x (writeAngle i v x)
    { x.piu with rudders := updAt x.piu.rudders i (angleWritten x.now v) }
    fun a j => a = .rudderFault ∧ j = .rudder i ∧ Settled (angleWritten x.now v x.piu.rudders[i]) := by
  have written := PiuStep.quiet x fun p => { p with rudders := updAt p.rudders i fun r => { r with angle := some v, fresh := true } }
  have evaluates := evalDeviation_step i (onRudder i (fun r => { r with angle := some v, fresh := true }) x)
  have hrec : (onRudder i (fun r => { r with angle := some v, fresh := true }) x).piu.rudders[i] =
      { x.piu.rudders[i] with angle := some v, fresh := true } := updAt_getFin_same ..
  rw [hrec] at evaluates
  refine (written.trans evaluates).congr ?_ fun a j => ?_
  · exact congrArg (fun w => { x.piu with rudders := w }) (updAt_updAt ..)
  · rw [false_or]; rfl

/-- Which groups a cycle writes, the angles wanted of them and their slews. -/
structure Steering where
  moves : Fin 3 → Bool
  wanted : Fin 3 → Int
  slew : Fin 3 → Nat

/-- The record of a group that a cycle has steered (R39). -/
def Steering.steered (g : Steering) (i : Fin 3) (now : Nat) (r : RudderRec) : RudderRec :=
  if g.moves i then angleWritten now (moveAngle (startAngle r) (g.wanted i) (g.slew i)) r else r

/-- One group steered. -/
def Steering.steer (g : Steering) (x : State) (i : Fin 3) : State :=
  if g.moves i then writeAngle i (moveAngle (startAngle x.piu.rudders[i]) (g.wanted i) (g.slew i)) x else x

/-- The write of a group clears its RUDDER-FAULT. -/
def Steering.settles (g : Steering) (i : Fin 3) (now : Nat) (r : RudderRec) : Prop :=
  g.moves i = true ∧ Settled (g.steered i now r)

section Steer
variable (g : Steering)

theorem steer_step (x : State) (i : Fin 3) : PiuStep x (g.steer x i)
    { x.piu with rudders := updAt x.piu.rudders i (g.steered i x.now) }
    fun a j => a = .rudderFault ∧ j = .rudder i ∧ g.settles i x.now x.piu.rudders[i] := by
  unfold Steering.steer Steering.settles
  cases hm : g.moves i with
  | true =>
    have hs : g.steered i x.now x.piu.rudders[i] =
        angleWritten x.now (moveAngle (startAngle x.piu.rudders[i]) (g.wanted i) (g.slew i)) x.piu.rudders[i] := by
      unfold Steering.steered; exact if_pos hm
    rw [if_pos rfl]
    refine (writeAngle_step i _ x).congr ?_ fun a j => ?_
    · exact congrArg (fun w => { x.piu with rudders := w }) (updAt_congr _ hs.symm)
    · rw [hs]; tauto
  | false =>
    have hs : g.steered i x.now x.piu.rudders[i] = x.piu.rudders[i] := by
      unfold Steering.steered; rw [hm]; rfl
    refine (PiuStep.quiet x id).congr ?_ fun a j => ?_
    · exact congrArg (fun w => { x.piu with rudders := w }) (updAt_eq_self _ hs).symm
    · simp

/-- Some groups steered, one after the other. -/
theorem steers_step (l : List (Fin 3)) (hd : l.Nodup) (x : State) : PiuStep x (l.foldl g.steer x)
    { x.piu with rudders := l.foldl (fun v i => updAt v i (g.steered i x.now)) x.piu.rudders }
    fun a j => ∃ i ∈ l, a = .rudderFault ∧ j = .rudder i ∧ g.settles i x.now x.piu.rudders[i] := by
  induction l generalizing x with
  | nil => exact (PiuStep.quiet x id).congr rfl fun a j => by simp
  | cons i l ih =>
    obtain ⟨hi, hd⟩ := List.nodup_cons.1 hd
    have first := steer_step g x i
    have rest := ih hd (g.steer x i)
    have hother : ∀ k ∈ l, (g.steer x i).piu.rudders[k] = x.piu.rudders[k] := fun k hk => by
      rw [first.piu]
      exact updAt_getFin_other _ (by rintro rfl; exact hi hk) _
    refine (first.trans rest).congr ?_ fun a j => ?_
    · rw [first.now, first.piu]; rfl
    · simp only [List.mem_cons, exists_eq_or_imp, first.now]
      refine or_congr_right (exists_congr fun k => and_congr_right fun hk => ?_)
      rw [hother k hk]

end Steer

/-- What a cycle on the own station steers (R37, R38). -/
def ownSteering (t : AllocTable) (d turn : Int) : Steering where
  moves i := t.rudders[i].configured
  wanted i := wantedAngle t.rudders[i] i d turn
  slew i := t.rudders[i].slew

/-- What a cycle of a JOINED helper steers (R41). -/
def joinedSteering (t : AllocTable) : Steering where
  moves i := t.rudders[i].configured && !(i == rs && t.rudders[i].fromXs)
  wanted _ := 0
  slew i := t.rudders[i].slew

theorem joinedRudder_eq_steer (t : AllocTable) : joinedRudder t = (joinedSteering t).steer := by
  funext x i
  by_cases h : i = rs ∧ t.rudders[i].fromXs = true
  · have left : (joinedSteering t).moves i = false := by
      show (t.rudders[i].configured && !(i == rs && t.rudders[i].fromXs)) = false
      rw [h.2, beq_iff_eq.2 h.1, Bool.and_true, Bool.not_true, Bool.and_false]
    unfold joinedRudder Steering.steer
    rw [if_pos h, left]
    rfl
  · have moved : (joinedSteering t).moves i = t.rudders[i].configured := by
      have : (i == rs && t.rudders[i].fromXs) = false := by
        rw [Bool.and_eq_false_iff, beq_eq_false_iff_ne, ← Bool.not_eq_true, ← not_and_or]; exact h
      show (t.rudders[i].configured && !(i == rs && t.rudders[i].fromXs)) = _
      rw [this, Bool.not_false, Bool.and_true]
    unfold joinedRudder Steering.steer
    rw [if_neg h, moved]
    rfl

end Sys2Proof.Machine

/-! # What one allocation cycle does (R20, R25 to R42) -/

namespace Sys2Proof.Machine

/-! ## The demands and the writes of a cycle -/

/-- D_eff and T_eff after a cycle on the table `x`. -/
def cycleDemand (s : State) (x : AllocTable) : Int := stepThrust (ratesOf s x) s.tau.dEff (targetClamp s x).1
def cycleTurn (s : State) (x : AllocTable) : Int := stepTurn x.rTurn s.tau.tEff (targetClamp s x).2

/-- A JOINED helper, whose mapped slots the lead drives. -/
def followsLead (s : State) : Bool := s.role == .helper && isJoined s

theorem followsLead_iff (s : State) : followsLead s = true ↔ s.role = .helper ∧ isJoined s = true := by
  simp [followsLead]

def cycleSteering (s : State) (x : AllocTable) : Steering :=
  if followsLead s then joinedSteering x else ownSteering x (cycleDemand s x) (cycleTurn s x)

/-- The record of an engine that a cycle has written. -/
def cycleEngineRec (s : State) (x : AllocTable) (i : Fin 6) (r : EngineRec) : EngineRec :=
  if followsLead s then joinedEngine s x i r else fullEngine s x (cycleDemand s x) (cycleTurn s x) i r

theorem cycleEngineRec_sameEngine (s : State) (x : AllocTable) (i : Fin 6) (r : EngineRec) :
    SameEngine r (cycleEngineRec s x i r) := by
  unfold cycleEngineRec
  split
  · exact joinedEngine_sameEngine ..
  · exact fullEngine_sameEngine ..

/-- From `s`, a cycle has run on the table `x` in force, ending in `t`. -/
structure CycleRan (x : AllocTable) (s t : State) : Prop where
  told : Told { s with tau := { s.tau with dEff := cycleDemand s x, tEff := cycleTurn s x },
                       piu := { s.piu with engines := t.piu.engines, rudders := t.piu.rudders } } t
  engines : ∀ i : Fin 6, t.piu.engines[i] = cycleEngineRec s x i s.piu.engines[i]
  rudders : ∀ i : Fin 3, t.piu.rudders[i] = (cycleSteering s x).steered i s.now s.piu.rudders[i]
  faults : ∀ i : Fin 3, isRaised .rudderFault (.rudder i) t = true ↔
    isRaised .rudderFault (.rudder i) s = true ∧ ¬(cycleSteering s x).settles i s.now s.piu.rudders[i]
  propulsion : followsLead s = false → isRaised .noPropulsion .none t = (anyConfigured x && wAv s x == 0)
  joined : followsLead s = true → ∀ j, isRaised .noPropulsion j t = isRaised .noPropulsion j s

section Ran
variable {x : AllocTable} {s t : State}

theorem CycleRan.dEff (h : CycleRan x s t) : t.tau.dEff = cycleDemand s x := by rw [h.told.rest]
theorem CycleRan.tEff (h : CycleRan x s t) : t.tau.tEff = cycleTurn s x := by rw [h.told.rest]

end Ran

/-! ## The stages -/

/-- The state in which the stages of a cycle write: the demands moved. -/
def demandsMoved (s : State) (x : AllocTable) : State :=
  s.onTau fun u => { u with dEff := cycleDemand s x, tEff := cycleTurn s x }

/-- The engine records of a cycle written. -/
def enginesWritten (s : State) (x : AllocTable) : State :=
  (demandsMoved s x).onPiu fun p => { p with engines := Vector.ofFn fun i => cycleEngineRec s x i p.engines[i] }

/-- The engines written and the groups steered. -/
def groupsSteered (s : State) (x : AllocTable) : State :=
  (List.finRange 3).foldl (cycleSteering s x).steer (enginesWritten s x)

section Stages
variable {x : AllocTable} {s : State}

theorem runCycle_eq (h : allocOf s = some x) :
    runCycle s = if followsLead s then groupsSteered s x else noPropulsion x (groupsSteered s x) := by
  have hrun : runCycle s = if s.role = .helper ∧ isJoined s = true then joinedStages x (demandsMoved s x)
      else fullStages x (cycleDemand s x) (cycleTurn s x) (demandsMoved s x) := by
    unfold runCycle; rw [h]; rfl
  rw [hrun]
  unfold groupsSteered enginesWritten cycleSteering cycleEngineRec
  by_cases hf : followsLead s = true
  · rw [if_pos ((followsLead_iff s).1 hf)]
    simp only [hf, if_true]
    rw [← joinedRudder_eq_steer]
    rfl
  · rw [if_neg fun e => hf ((followsLead_iff s).2 e)]
    simp only [hf, Bool.false_eq_true, if_false]
    rfl

theorem groupsSteered_step (s : State) (x : AllocTable) : PiuStep (demandsMoved s x) (groupsSteered s x)
    { s.piu with
      engines := Vector.ofFn fun i => cycleEngineRec s x i s.piu.engines[i],
      rudders := (List.finRange 3).foldl (fun v i => updAt v i ((cycleSteering s x).steered i s.now)) s.piu.rudders }
    fun a j => ∃ i, a = .rudderFault ∧ j = .rudder i ∧ (cycleSteering s x).settles i s.now s.piu.rudders[i] := by
  have written := PiuStep.quiet (demandsMoved s x) fun p =>
    { p with engines := Vector.ofFn fun i => cycleEngineRec s x i p.engines[i] }
  have steered := steers_step (cycleSteering s x) (List.finRange 3) (List.nodup_finRange 3) (enginesWritten s x)
  refine (written.trans steered).congr rfl fun a j => ?_
  simp only [false_or, List.mem_finRange, true_and]
  rfl

theorem groupsSteered_engine (i : Fin 6) : (groupsSteered s x).piu.engines[i] = cycleEngineRec s x i s.piu.engines[i] := by
  rw [(groupsSteered_step s x).piu]
  exact Vector.getElem_ofFn ..

theorem groupsSteered_rudder (i : Fin 3) :
    (groupsSteered s x).piu.rudders[i] = (cycleSteering s x).steered i s.now s.piu.rudders[i] := by
  rw [(groupsSteered_step s x).piu]
  show (List.foldl _ _ _ : Vector RudderRec 3)[i] = _
  rw [foldl_updAt_get _ _ (List.nodup_finRange 3), if_pos (List.mem_finRange i)]

theorem groupsSteered_wAv (s : State) (x : AllocTable) : wAv (groupsSteered s x) x = wAv s x := by
  have havail : ∀ i : Fin 6, (groupsSteered s x).piu.engines[i].avail = s.piu.engines[i].avail := fun i => by
    rw [groupsSteered_engine]; exact (cycleEngineRec_sameEngine ..).avail
  have hrole : (groupsSteered s x).role = s.role := by rw [(groupsSteered_step s x).told.rest]; rfl
  have hcsu : (groupsSteered s x).csu = s.csu := by rw [(groupsSteered_step s x).told.rest]; rfl
  unfold wAv countsAvailable
  simp only [havail, hrole, hcsu]

/-- The alarm at the end of a full cycle. -/
theorem noPropulsion_groupsSteered (s : State) (x : AllocTable) : noPropulsion x (groupsSteered s x) =
    syncAlarm .noPropulsion .none (anyConfigured x && wAv s x == 0) (groupsSteered s x) := by
  unfold noPropulsion; rw [groupsSteered_wAv]

theorem runCycle_ran (h : allocOf s = some x) : CycleRan x s (runCycle s) := by
  have step := groupsSteered_step s x
  have other : ∀ a j, a ≠ .rudderFault → isRaised a j (groupsSteered s x) = isRaised a j s := fun a j ha => by
    rw [Bool.eq_iff_iff, step.alarms]
    exact and_iff_left fun ⟨_, e, _⟩ => ha e
  have fault : ∀ i : Fin 3, isRaised .rudderFault (.rudder i) (groupsSteered s x) = true ↔
      isRaised .rudderFault (.rudder i) s = true ∧ ¬(cycleSteering s x).settles i s.now s.piu.rudders[i] := fun i => by
    rw [step.alarms]
    refine and_congr_right fun _ => not_congr ⟨?_, fun e => ⟨i, rfl, rfl, e⟩⟩
    rintro ⟨k, -, e, hk⟩
    obtain rfl : i = k := by simpa using e
    exact hk
  have rest : groupsSteered s x = { s with
      tau := { s.tau with dEff := cycleDemand s x, tEff := cycleTurn s x },
      piu := { s.piu with engines := (groupsSteered s x).piu.engines, rudders := (groupsSteered s x).piu.rudders },
      pcw := (groupsSteered s x).pcw, mgu := (groupsSteered s x).mgu } := by
    rw [step.piu]; exact step.told.rest
  have told : Told { s with
      tau := { s.tau with dEff := cycleDemand s x, tEff := cycleTurn s x },
      piu := { s.piu with engines := (groupsSteered s x).piu.engines, rudders := (groupsSteered s x).piu.rudders } }
      (groupsSteered s x) := ⟨rest, step.told.port, step.told.queues, step.told.unit⟩
  rw [runCycle_eq h]
  cases hf : followsLead s with
  | true =>
    rw [if_pos rfl]
    exact ⟨told, fun _ => groupsSteered_engine _, fun _ => groupsSteered_rudder _, fault, fun e => (nomatch hf.symm.trans e),
      fun _ j => other _ j (by decide)⟩
  | false =>
    rw [if_neg Bool.false_ne_true, noPropulsion_groupsSteered]
    refine ⟨?_, fun i => ?_, fun i => ?_, fun i => ?_, fun _ => isRaised_synced .., fun e => (nomatch hf.symm.trans e)⟩
    · rw [syncAlarm_piu]; exact told.trans (syncAlarm_told ..)
    · rw [syncAlarm_piu]; exact groupsSteered_engine i
    · rw [syncAlarm_piu]; exact groupsSteered_rudder i
    · rw [isRaised_synced_of_ne _ (by simp)]; exact fault i

theorem exec_cycleRan {d : Nat} (hr : s.power = .run) (ht : s.tau.timer = some d) (hw : s.tau.swapWaiting = false)
    (h : allocOf s = some x) : ∃ t, exec .allocationCycle s = .next t ∧ CycleRan x (cycleBegun d s) t := by
  refine ⟨runCycle (cycleBegun d s), ?_, runCycle_ran h⟩
  rw [exec_allocationCycle hr ht, hw]
  rfl

end Stages

/-! ## The steps of the demands (R25 to R28) -/

theorem targetClamp_fst (s : State) (x : AllocTable) : (targetClamp s x).1 =
    if s.csu.allStop ≠ none then 0
    else if makeupFault s then max (-(x.cF : Int)) (min s.csu.dStar x.cF) else s.csu.dStar := by
  unfold targetClamp
  cases s.csu.allStop with
  | some c => rfl
  | none => cases makeupFault s <;> rfl

theorem targetClamp_snd (s : State) (x : AllocTable) :
    (targetClamp s x).2 = if s.csu.allStop ≠ none then 0 else s.csu.tStar := by
  unfold targetClamp
  cases s.csu.allStop with
  | some c => rfl
  | none => cases makeupFault s <;> rfl

theorem makeupFault_iff (s : State) : makeupFault s = true ↔ s.cmu.causes.breakaway = true ∨
    s.cmu.causes.makeupCommit = true ∨ s.cmu.causes.couplingCommit = true := by
  simp [makeupFault, or_assoc]

/-- A step never leaves the greater of where it was and where it goes (R27). -/
theorem natAbs_stepThrust_le (r : Rates) (d target : Int) :
    (stepThrust r d target).natAbs ≤ max d.natAbs target.natAbs := by
  unfold stepThrust
  split
  · omega
  · split
    · omega
    · split
      · omega
      · split <;> omega

theorem natAbs_stepTurn_le (rate : Nat) (d target : Int) : (stepTurn rate d target).natAbs ≤ max d.natAbs target.natAbs := by
  unfold stepTurn
  split
  · omega
  · split <;> omega

theorem limitAlloc_cF_le {s : State} {x : AllocTable} (h : allocOf s = some x) : x.cF ≤ 1000 := by
  obtain ⟨y, -, rfl⟩ := Option.map_eq_some_iff.1 h
  show limitNat y.cF 0 1000 ≤ 1000
  unfold limitNat; omega

/-- Settles O22. -/
theorem cycleStepsDemands : Obligations.CycleStepsDemands := by
  unfold Obligations.CycleStepsDemands
  refine ⟨fun s d hr ht ha hw => ?_, fun s d x hr ht hw hx => ?_⟩
  · rw [exec_allocationCycle hr ht, hw]
    have unloaded : allocOf (cycleBegun d s) = none := congrArg (Option.map limitAlloc) ha
    exact congrArg Host.Outcome.next (show runCycle (cycleBegun d s) = _ by unfold runCycle; rw [unloaded]; rfl)
  · intro fault dt tt n k down ahead astern e r
    obtain ⟨t, ht', ran⟩ := exec_cycleRan hr ht hw hx
    have hdt : (targetClamp (cycleBegun d s) x).1 = dt :=
      (targetClamp_fst _ x).trans (if_congr Iff.rfl rfl (if_congr (makeupFault_iff s) rfl rfl))
    have htt : (targetClamp (cycleBegun d s) x).2 = tt := targetClamp_snd _ x
    have hdown : ((ratesOf (cycleBegun d s) x).down : Int) = down := by
      show ((if s.csu.allStop.isSome then x.rStop else x.rDown : Nat) : Int) = if s.csu.allStop ≠ none then (x.rStop : Int) else x.rDown
      cases s.csu.allStop <;> rfl
    have hthrust : t.tau.dEff = if dt = e then e
        else if 0 < e ∧ dt < e then max (max (e - down) dt) 0
        else if e < 0 ∧ e < dt then min (min (e + down) dt) 0
        else if e < dt then min (e + ahead) dt else max (e - astern) dt := by
      rw [ran.dEff, cycleDemand, hdt, ← hdown]; rfl
    have hturn : t.tau.tEff = if r < tt then min (r + x.rTurn) tt else if tt < r then max (r - x.rTurn) tt else r := by
      rw [ran.tEff, cycleTurn, htt]; rfl
    refine ⟨t, ht', fun h => ?_, fun h h' => ?_, fun h h' => ?_, fun h h' => ?_, fun h h' => ?_, fun h => ?_, fun h => ?_,
      fun h => ?_, ?_⟩
    · rw [hthrust, if_pos h]
    · rw [hthrust, if_neg (by omega), if_pos ⟨h, h'⟩]
    · rw [hthrust, if_neg (by omega), if_neg (by omega), if_pos ⟨h, h'⟩]
    · rw [hthrust, if_neg (by omega), if_neg (by omega), if_neg (by omega), if_pos h']
    · rw [hthrust, if_neg (by omega), if_neg (by omega), if_neg (by omega), if_neg (by omega)]
    · rw [hturn, if_pos h]
    · rw [hturn, if_neg (by omega), if_pos h]
    · rw [hturn, if_neg (by omega), if_neg (by omega)]
    · rw [ran.dEff, ran.tEff]
      exact ran.told

/-- Settles O23: D_eff and T_eff end between where they were and their clamped targets. -/
theorem demandsStayBounded : Obligations.DemandsStayBounded := by
  unfold Obligations.DemandsStayBounded
  intro s t x hr ht hw hx he
  obtain ⟨d, hd⟩ := Option.ne_none_iff_exists'.1 ht
  obtain ⟨u, hu, ran⟩ := exec_cycleRan hr hd hw hx
  obtain rfl : u = t := by rw [he] at hu; injection hu with e; exact e.symm
  have thrust : u.tau.dEff.natAbs ≤ max s.tau.dEff.natAbs (targetClamp (cycleBegun d s) x).1.natAbs := by
    rw [ran.dEff]; exact natAbs_stepThrust_le ..
  have turn : u.tau.tEff.natAbs ≤ max s.tau.tEff.natAbs (targetClamp (cycleBegun d s) x).2.natAbs := by
    rw [ran.tEff]; exact natAbs_stepTurn_le ..
  have hcF := limitAlloc_cF_le hx
  rw [targetClamp_fst] at thrust
  rw [targetClamp_snd] at turn
  refine ⟨fun h1 h2 => thrust.trans (max_le h2 ?_), fun h1 h2 => turn.trans (max_le h2 ?_), fun hs => ?_, fun hf => ?_⟩
  · split
    · decide
    · split
      · omega
      · exact h1
  · split
    · decide
    · exact h1
  · have stopped : (cycleBegun d s).csu.allStop ≠ none := hs
    rw [if_pos stopped] at thrust
    exact thrust.trans (max_le (le_refl _) (Nat.zero_le _))
  · refine thrust.trans (max_le_max_left _ ?_)
    have faulted : makeupFault (cycleBegun d s) = true := hf
    rw [if_pos faulted]
    split
    · exact Nat.zero_le _
    · omega

end Sys2Proof.Machine

/-! # What a cycle writes into the engine slots and the rudder groups (R29 to R35, R37 to R41, R46, R51) -/

namespace Sys2Proof.Machine

/-! ## The groups -/

theorem moveAngle_up {prev wanted : Int} (h : prev < wanted) (slew : Nat) :
    moveAngle prev wanted slew = min (prev + slew) wanted := if_pos h

theorem moveAngle_down {prev wanted : Int} (h : wanted ≤ prev) (slew : Nat) :
    moveAngle prev wanted slew = max (prev - slew) wanted := if_neg (by omega)

theorem startAngle_eq (r : RudderRec) : startAngle r = match r.angle with
    | some a => a
    | none => match r.feedback with | some fb => fb.angle | none => 0 := by
  unfold startAngle
  cases r.angle with
  | some a => rfl
  | none => cases r.feedback <;> rfl

section Groups
variable {x : AllocTable} {s t : State}

/-- A group that the cycle does not steer. -/
theorem CycleRan.left (h : CycleRan x s t) {i : Fin 3} (hm : (cycleSteering s x).moves i = false) :
    t.piu.rudders[i] = s.piu.rudders[i] := by
  rw [h.rudders, Steering.steered, hm]
  rfl

/-- A group that the cycle steers. -/
theorem CycleRan.moved (h : CycleRan x s t) {i : Fin 3} (hm : (cycleSteering s x).moves i = true) :
    t.piu.rudders[i] = angleWritten s.now
      (moveAngle (startAngle s.piu.rudders[i]) ((cycleSteering s x).wanted i) ((cycleSteering s x).slew i)) s.piu.rudders[i] := by
  rw [h.rudders, Steering.steered, if_pos hm]

/-- Its RUDDER-FAULT stays exactly when the deviation has not settled. -/
theorem CycleRan.fault (h : CycleRan x s t) {i : Fin 3} (hm : (cycleSteering s x).moves i = true) :
    isRaised .rudderFault (.rudder i) t = true ↔
      isRaised .rudderFault (.rudder i) s = true ∧ ¬Settled t.piu.rudders[i] := by
  rw [h.faults, h.rudders, Steering.settles, hm]
  simp only [true_and]

end Groups

theorem cycleSteering_slew (s : State) (x : AllocTable) (i : Fin 3) : (cycleSteering s x).slew i = x.rudders[i].slew := by
  unfold cycleSteering; split <;> rfl

theorem cycleSteering_moves (s : State) (x : AllocTable) (i : Fin 3) : (cycleSteering s x).moves i = true ↔
    x.rudders[i].configured = true ∧ ¬(followsLead s = true ∧ i = 0 ∧ x.rudders[i].fromXs = true) := by
  unfold cycleSteering
  cases followsLead s with
  | true =>
    show (x.rudders[i].configured && !(i == rs && x.rudders[i].fromXs)) = true ↔ _
    rw [Bool.and_eq_true, Bool.not_eq_true', ← Bool.not_eq_true, Bool.and_eq_true, beq_iff_eq]
    simp only [true_and]
    rfl
  | false => simp [ownSteering]

theorem cycleSteering_wanted (s : State) (x : AllocTable) (i : Fin 3) : (cycleSteering s x).wanted i =
    if followsLead s then 0 else wantedAngle x.rudders[i] i (cycleDemand s x) (cycleTurn s x) := by
  unfold cycleSteering; split <;> rfl

/-- Settles O26. -/
theorem cycleSteersRudders : Obligations.CycleSteersRudders := by
  unfold Obligations.CycleSteersRudders
  intro s d x i hr ht hw hx joined
  obtain ⟨t, ht', ran⟩ := exec_cycleRan hr ht hw hx
  refine ⟨t, ht', ?_⟩
  intro r c z k wanted prev
  have hjoined : followsLead (cycleBegun d s) = true ↔ joined := by
    rw [followsLead_iff, isJoined_iff]; rfl
  have hmoves := cycleSteering_moves (cycleBegun d s) x i
  rw [hjoined] at hmoves
  have hwanted : (cycleSteering (cycleBegun d s) x).wanted i = wanted := by
    rw [cycleSteering_wanted]
    refine if_congr hjoined rfl ?_
    show wantedAngle c i _ _ = max (-(c.limit : Int)) (min ((k * t.tau.tEff).tdiv 1000) c.limit)
    simp only [k, ran.dEff, ran.tEff]
    rfl
  have hleft : (cycleSteering (cycleBegun d s) x).moves i = false → z = r := fun h => ran.left h
  refine ⟨fun hc => hleft ?_, fun hj hi hxs => hleft ?_, fun hc hn => ?_⟩
  · rw [Bool.eq_false_iff, ne_eq, hmoves]
    exact fun h => Bool.false_ne_true (hc.symm.trans h.1)
  · rw [Bool.eq_false_iff, ne_eq, hmoves]
    exact fun h => h.2 ⟨hj, hi, hxs⟩
  · have hm := hmoves.2 ⟨hc, hn⟩
    have hz : z = angleWritten (max s.now d) (moveAngle prev wanted c.slew) r := by
      have := ran.moved hm
      rw [hwanted, cycleSteering_slew, startAngle_eq] at this
      exact this
    have hangle : z.angle = some (moveAngle prev wanted c.slew) := by rw [hz]; rfl
    have hfault := ran.fault hm
    have hfault' : ¬Settled z → isRaised .rudderFault (.rudder i) t = isRaised .rudderFault (.rudder i) s := fun h => by
      rw [Bool.eq_iff_iff, hfault, and_iff_left h]; rfl
    refine ⟨fun h => ?_, fun h => ?_, fun fb v hv hfb hav => ?_, fun h => ?_, ?_⟩
    · rw [hangle, moveAngle_up h]
    · rw [hangle, moveAngle_down h]
    · have hset : Settled z ↔ (v - fb.angle).natAbs ≤ 50 :=
        settled_compared (r := z) (by rw [hz]; exact hv) hav (by rw [hz]; exact hfb)
      have hmv : moveAngle prev wanted c.slew = v := Option.some.inj (hangle.symm.trans hav)
      have hdev : z.deviation = if 50 < (v - fb.angle).natAbs
          then some (r.deviation.getD (max s.now d + 2000 * Config.usPerMs)) else none := by
        rw [hz, hmv]
        exact deviationAt_compared (r := { r with angle := some v, fresh := true }) hv rfl hfb
      refine ⟨fun h => ⟨?_, hfault' ?_⟩, fun h => ⟨?_, ?_⟩⟩
      · rw [hdev, if_pos h]
        cases r.deviation <;> rfl
      · rw [hset]; omega
      · rw [hdev]
        exact if_neg (Nat.not_lt.2 h)
      · rw [Bool.eq_false_iff, ne_eq, hfault]
        exact fun e => e.2 (hset.2 h)
    · obtain ⟨hdev, hset⟩ := evaluated_uncompared (now := max s.now d)
        (r := { r with angle := some (moveAngle prev wanted c.slew), fresh := true }) h
      exact ⟨by rw [hz]; exact hdev, hfault' (by rw [hz]; exact hset)⟩
    · rw [hz]
      exact ⟨rfl, rfl, rfl, rfl, rfl⟩

/-! ## The engines of a JOINED helper -/

/-- Settles O27. -/
theorem joinedCycleLeavesMapped : Obligations.JoinedCycleLeavesMapped := by
  unfold Obligations.JoinedCycleLeavesMapped
  intro s d x i hr ht hw hx hh hj
  obtain ⟨t, ht', ran⟩ := exec_cycleRan hr ht hw hx
  have follows : followsLead (cycleBegun d s) = true := (followsLead_iff _).2 ⟨hh, (isJoined_iff _).2 hj⟩
  refine ⟨t, ht', ran.joined follows, ?_⟩
  intro r c z neutral
  have hz : z = joinedEngine (cycleBegun d s) x i r := by
    show t.piu.engines[i] = _
    rw [ran.engines, cycleEngineRec, if_pos follows]
    rfl
  have hneutral : ∀ e, neutralWritten e (max s.now d) r = neutral e.idle := fun e => neutralWritten_eq e _ r
  have hnone : r.retiring = none → z = if c.configured && !mappedSlot x i then neutral c.idle else r := fun h => by
    rw [hz, joinedEngine, h, ← hneutral]
    rfl
  have hmapped : mappedSlot x i = true ↔ i.val < 4 ∧ c.source ≠ .own := by
    simp [mappedSlot, c]
  refine ⟨fun old h => ?_, fun h hc => ?_, fun h hc hi hs => ?_, fun h hc hs => ?_⟩
  · rw [hz, joinedEngine, h]
    exact hneutral old
  · rw [hnone h, hc]
    rfl
  · rw [hnone h, hmapped.2 ⟨hi, hs⟩, Bool.not_true, Bool.and_false]
    rfl
  · have own : mappedSlot x i = false := by
      rw [Bool.eq_false_iff, ne_eq, hmapped]
      exact fun e => hs.elim (fun h4 => by omega) e.2
    rw [hnone h, hc, own]
    rfl

/-! ## The shares of the engines (R29, R30) -/

theorem weightSum_eq (t : AllocTable) (p : Fin 6 → Bool) :
    weightSum t p = ∑ i : Fin 6, if p i then t.engines[i].wt else 0 := by
  have key : ∀ l : List (Fin 6), ((l.filter p).map fun i => t.engines[i].wt).sum =
      (l.map fun i => if p i then t.engines[i].wt else 0).sum := fun l => by
    induction l with
    | nil => rfl
    | cons i l ih =>
      rw [List.map_cons, List.sum_cons, ← ih]
      cases hp : p i with
      | true => rw [List.filter_cons_of_pos hp]; rfl
      | false => rw [List.filter_cons_of_neg (Bool.not_eq_true _ ▸ hp)]; exact (Nat.zero_add _).symm
  rw [Fin.sum_univ_def]
  exact key _

/-! ## The gear machine and the slot (R32 to R35, R51) -/

theorem engages_iff (e : EngineEntry) (r : EngineRec) (now : Nat) : engages e r now = true ↔
    ∃ fb, r.feedback = some fb ∧ fb.rpm ≤ e.shiftLimit ∧ r.neutralSince + e.shiftDwell * Config.usPerMs ≤ now := by
  unfold engages
  cases r.feedback with
  | none => simp
  | some fb =>
    rw [Bool.and_eq_true, decide_eq_true_eq, decide_eq_true_eq]
    exact ⟨fun h => ⟨fb, rfl, h⟩, fun ⟨_, e, h⟩ => Option.some.inj e ▸ h⟩

section Gears
variable {e : EngineEntry} {r : EngineRec} {now : Nat} {g : Gear}

/-- A slot already in the wanted gear stays in it, and one in NEUTRAL that may be engaged enters it. -/
theorem gearMachine_driven (hg : g ≠ .neutral) (h : r.gear = g ∨ (r.gear = .neutral ∧ engages e r now = true)) :
    gearMachine e r g now = (g, r.neutralSince) := by
  unfold gearMachine
  rcases h with h | ⟨h, he⟩
  · rw [h]
    cases g <;> rfl
  · rw [h, he]
    cases g with
    | neutral => exact absurd rfl hg
    | ahead => rfl
    | astern => rfl

/-- A slot in the opposite gear goes to NEUTRAL, and one in NEUTRAL that may not be engaged stays there. -/
theorem gearMachine_held (h : (r.gear ≠ g ∧ r.gear ≠ .neutral) ∨ (r.gear = .neutral ∧ ¬engages e r now = true)) :
    gearMachine e r g now = gearMachine e r .neutral now := by
  unfold gearMachine
  rcases h with ⟨h, h'⟩ | ⟨h, he⟩
  · cases hr : r.gear with
    | neutral => exact absurd hr h'
    | ahead => cases g with | ahead => exact absurd hr h | _ => rfl
    | astern => cases g with | astern => exact absurd hr h | _ => rfl
  · rw [h, Bool.eq_false_iff.2 he]
    cases g <;> rfl

end Gears

section Slot
variable {b : Nat} {c : EngineEntry} {share : Int} {now : Nat} {r : EngineRec}

theorem idle_le_prevRpm (c : EngineEntry) (r : EngineRec) : c.idle ≤ prevRpm c r := by
  unfold prevRpm; split
  · exact le_max_right _ _
  · exact le_refl _

/-- A share whose gear machine answers NEUTRAL leaves the slot NEUTRAL at idle. -/
theorem cycleEngine_neutral (h : gearMachine c r (wantedGear b share) now = gearMachine c r .neutral now) :
    cycleEngine b c share now r = madeNeutral now c.idle r := by
  have hrpm : min c.idle (prevRpm c r + c.slew) = c.idle := by
    have := idle_le_prevRpm c r
    omega
  unfold cycleEngine slotWritten madeNeutral
  dsimp only
  rw [h, gearMachine_neutral]
  simp only [hrpm]

/-- A share whose gear machine answers a gear drives the slot toward its target, under the cap and the slew. -/
theorem cycleEngine_driven {g : Gear} (hg : g ≠ .neutral)
    (h : gearMachine c r (wantedGear b share) now = (g, r.neutralSince)) :
    cycleEngine b c share now r = { r with
      gear := g, filled := true, fresh := true, rpm := min (underCap c r g (rpmTarget b c g share)) (prevRpm c r + c.slew) } := by
  unfold cycleEngine slotWritten
  dsimp only
  rw [h]
  cases g with
  | neutral => exact absurd rfl hg
  | ahead => rfl
  | astern => rfl

theorem wantedGear_neutral (h : share.natAbs < b) : wantedGear b share = .neutral := if_pos h

theorem wantedGear_ahead (h : (b : Int) ≤ share) : wantedGear b share = .ahead :=
  (if_neg (by unfold absInt; omega)).trans (if_pos h)

theorem wantedGear_astern (h : share ≤ -(b : Int)) (h0 : share ≠ 0) : wantedGear b share = .astern :=
  (if_neg (by unfold absInt; omega)).trans (if_neg (by omega))

end Slot

/-! ## A full cycle at an engine -/

theorem anyConfigured_iff (x : AllocTable) : anyConfigured x = true ↔ ∃ i : Fin 6, x.engines[i].configured = true := by
  simp [anyConfigured, List.any_eq_true]

theorem takesShare_iff (s : State) (x : AllocTable) (i : Fin 6) :
    takesShare s x i = true ↔ countsAvailable s x i = true ∧ wAv s x ≠ 0 := by
  rw [takesShare, Bool.and_eq_true, decide_eq_true_eq, Nat.pos_iff_ne_zero]

section Full
variable {s : State} {x : AllocTable} {d turn : Int} {i : Fin 6} {r : EngineRec}

theorem fullEngine_shares (hr : r.retiring = none) (h : takesShare s x i = true) : fullEngine s x d turn i r =
    cycleEngine x.deadband x.engines[i] (clampSym (((x.engines[i].wt : Int) * d * (shareFactor x (wCfg x) (wAv s x) : Nat)).tdiv
      1000000 + (x.engines[i].wr * turn).tdiv 1000) 1000) s.now r := by
  unfold fullEngine shareOf
  rw [hr]
  simp only [h, if_true]

theorem fullEngine_idles (hr : r.retiring = none) (hc : x.engines[i].configured = true) (h : ¬takesShare s x i = true) :
    fullEngine s x d turn i r = madeNeutral s.now x.engines[i].idle r := by
  unfold fullEngine
  rw [hr]
  simp only [h, hc, if_true]
  exact neutralWritten_eq ..

theorem fullEngine_unconfigured (hr : r.retiring = none) (hc : x.engines[i].configured = false) :
    fullEngine s x d turn i r = r := by
  have h : takesShare s x i = false := by
    unfold takesShare countsAvailable; rw [hc]; rfl
  unfold fullEngine
  rw [hr]
  simp only [h, hc]
  rfl

end Full

/-- Settles O24. -/
theorem cycleWritesEngines : Obligations.CycleWritesEngines := by
  unfold Obligations.CycleWritesEngines
  intro s d x hr ht hw hx hown now counts cfg av
  obtain ⟨t, ht', ran⟩ := exec_cycleRan hr ht hw hx
  have own : followsLead (cycleBegun d s) = false := by
    rw [Bool.eq_false_iff, ne_eq, followsLead_iff, isJoined_iff]
    rintro ⟨h1, h2⟩
    have h2' : s.csu.join = .joined ∨ s.csu.join = .holding := h2
    have h1' : s.role = .helper := h1
    rcases hown with h | h | h <;> simp_all
  have hcfg : wCfg x = cfg := weightSum_eq x _
  have hav : wAv (cycleBegun d s) x = av := weightSum_eq x _
  refine ⟨t, ht', ?_, fun i hret => ?_⟩
  · rw [ran.propulsion own, hav, Bool.and_eq_true, beq_iff_eq, anyConfigured_iff]
  intro r c z share may neutral prev driven
  have hz : z = fullEngine (cycleBegun d s) x t.tau.dEff t.tau.tEff i r := by
    show t.piu.engines[i] = _
    rw [ran.engines, cycleEngineRec, own, ran.dEff, ran.tEff]
    rfl
  have htakes : takesShare (cycleBegun d s) x i = true ↔ counts i = true ∧ av ≠ 0 := by
    rw [takesShare_iff, hav]; rfl
  have hidle : c.configured = true → ¬takesShare (cycleBegun d s) x i = true → z = neutral := fun hc h => by
    rw [hz]; exact fullEngine_idles hret hc h
  have hshare : counts i = true → av ≠ 0 → z = cycleEngine x.deadband c share now r := fun h1 h2 => by
    rw [hz, fullEngine_shares hret (htakes.2 ⟨h1, h2⟩), hcfg, hav]
    rfl
  have hmay : engages c r now = true ↔ may := engages_iff c r now
  have hheld : ∀ g, wantedGear x.deadband share = g → counts i = true → av ≠ 0 →
      (r.gear ≠ g ∧ r.gear ≠ .neutral) ∨ (r.gear = .neutral ∧ ¬may) → z = neutral := fun g hg h1 h2 h => by
    rw [hshare h1 h2]
    refine cycleEngine_neutral ?_
    rw [hg]
    exact gearMachine_held (by rw [hmay]; exact h)
  have hdriven : ∀ g, g ≠ .neutral → wantedGear x.deadband share = g → counts i = true → av ≠ 0 →
      r.gear = g ∨ (r.gear = .neutral ∧ may) → z = { r with
        gear := g, filled := true, fresh := true,
        rpm := min (underCap c r g (rpmTarget x.deadband c g share)) (prevRpm c r + c.slew) } := fun g hn hg h1 h2 h => by
    rw [hshare h1 h2]
    refine cycleEngine_driven hn ?_
    rw [hg]
    exact gearMachine_driven hn (by rw [hmay]; exact h)
  refine ⟨fun hc => ?_, fun hc h => ?_, fun h1 h2 hs => ?_, fun h1 h2 hs => ⟨fun h => ?_, fun h => ?_⟩,
    fun h1 h2 hs h0 => ⟨fun h => ?_, fun h => ?_⟩⟩
  · rw [hz]; exact fullEngine_unconfigured hret hc
  · refine hidle hc ?_
    rw [htakes]
    rintro ⟨h1, h2⟩
    exact h.elim (fun e => Bool.false_ne_true (e.symm.trans h1)) h2
  · rw [hshare h1 h2]
    exact cycleEngine_neutral (by rw [wantedGear_neutral hs])
  · exact hdriven .ahead (by decide) (wantedGear_ahead hs) h1 h2 h
  · exact hheld .ahead (wantedGear_ahead hs) h1 h2 (h.imp_left fun e => by rw [e]; decide)
  · exact hdriven .astern (by decide) (wantedGear_astern hs h0) h1 h2 h
  · exact hheld .astern (wantedGear_astern hs h0) h1 h2 (h.imp_left fun e => by rw [e]; decide)

end Sys2Proof.Machine

/-! # What a booking does to the accounts, the tanks and the caps (R36, R104, R108, R109, R115) -/

namespace Sys2Proof.Machine

/-! ## Fuel effects: the accounts, the engine records, and what is told -/

/-- From `s` to `t` nothing has changed but the accounting unit, the engine records, and what was told. -/
def FuelTold (s t : State) : Prop := Told { s with fau := t.fau, piu := { s.piu with engines := t.piu.engines } } t

section FuelTold
variable {s t u : State}

theorem Told.fuelTold (h : Told s t) : FuelTold s t := by
  have hf : t.fau = s.fau := by rw [h.rest]
  have hp : t.piu = s.piu := by rw [h.rest]
  unfold FuelTold
  rw [hf, hp]
  exact h

theorem FuelTold.trans (h : FuelTold s t) (k : FuelTold t u) : FuelTold s u :=
  (Told.beside h (fun w => { w with fau := u.fau, piu := { w.piu with engines := u.piu.engines } })
    (fun _ _ _ => rfl) (fun _ => rfl) (fun _ => rfl)).trans k

theorem FuelTold.onFau (s : State) (f : Fau → Fau) : FuelTold s (s.onFau f) := Told.refl _

theorem FuelTold.tau (h : FuelTold s t) : t.tau = s.tau := by rw [Told.rest h]
theorem FuelTold.now (h : FuelTold s t) : t.now = s.now := by rw [Told.rest h]
theorem FuelTold.nvs (h : FuelTold s t) : t.nvs = s.nvs := by rw [Told.rest h]

end FuelTold

/-! ## The 48-bit limits (R115) -/

theorem limitAccount_eq (v : Int) : limitAccount v = max (-140737488355328) (min v 140737488355327) := rfl

/-- A sum lies beyond a 48-bit limit. -/
def beyond (v : Int) : Bool := decide (limitAccount v ≠ v)

theorem saturated_beyond (v : Int) (s : State) : saturated v s =
    if beyond v then raiseAlarm .fuelSat .none (s.onFau ({ · with sat := true })) else s := by
  unfold saturated beyond
  by_cases h : limitAccount v = v <;> simp [h]

theorem saturated_fau_eq (v : Int) (s : State) : (saturated v s).fau = { s.fau with sat := s.fau.sat || beyond v } := by
  rw [saturated_beyond]
  cases beyond v with
  | true => rw [if_pos rfl, raiseAlarm_fau, Bool.or_true]; rfl
  | false => rw [if_neg Bool.false_ne_true, Bool.or_false]

theorem saturated_piu (v : Int) (s : State) : (saturated v s).piu = s.piu := by
  rw [saturated_beyond]; split
  · exact raiseAlarm_piu ..
  · rfl

theorem saturated_fuelTold (v : Int) (s : State) : FuelTold s (saturated v s) := by
  rw [saturated_beyond]; split
  · exact (FuelTold.onFau s _).trans (raiseAlarm_told ..).fuelTold
  · exact (Told.refl s).fuelTold

theorem isRaised_saturated (v : Int) (s : State) (a : Alarm) (j : Subject) :
    isRaised a j (saturated v s) = (isRaised a j s || (beyond v && decide (a = .fuelSat ∧ j = .none))) := by
  rw [saturated_beyond, Bool.eq_iff_iff, Bool.or_eq_true, Bool.and_eq_true, decide_eq_true_eq]
  cases beyond v with
  | true => rw [if_pos rfl, isRaised_raiseAlarm]; simp only [true_and]; rfl
  | false => simp

/-! ## The caps -/

theorem updateCaps_fau (s : State) : (updateCaps s).fau = s.fau := by rw [updateCaps_piu]
theorem updateCaps_mgu (s : State) : (updateCaps s).mgu = s.mgu := by rw [updateCaps_piu]

theorem isRaised_updateCaps (a : Alarm) (j : Subject) (s : State) : isRaised a j (updateCaps s) = isRaised a j s :=
  isRaised_congr (congrArg Mgu.raised (updateCaps_mgu s)) a j

/-- `b` is the record `a` but for its cap, and the rpm and the fresh flag of a slot in gear. -/
structure SameButCap (a b : EngineRec) : Prop where
  rest : b = { a with rpm := b.rpm, fresh := b.fresh, cap := b.cap }
  neutral : a.gear = .neutral → b.rpm = a.rpm ∧ b.fresh = a.fresh

theorem SameButCap.refl (r : EngineRec) : SameButCap r r := ⟨rfl, fun _ => ⟨rfl, rfl⟩⟩

theorem cappedRec_sameButCap (x : EngineEntry) (c : Option Nat) (r : EngineRec) : SameButCap r (cappedRec x c r) := by
  unfold cappedRec
  split
  · exact ⟨rfl, fun _ => ⟨rfl, rfl⟩⟩
  · split
    · rename_i h
      exact ⟨rfl, fun e => absurd e h.2.1⟩
    · exact ⟨rfl, fun _ => ⟨rfl, rfl⟩⟩

theorem cappedRec_cap (x : EngineEntry) (c : Option Nat) (r : EngineRec) : (cappedRec x c r).cap = c := by
  unfold cappedRec
  split
  · rfl
  · split <;> rfl

theorem updateCaps_sameButCap (s : State) (i : Fin 6) : SameButCap s.piu.engines[i] (updateCaps s).piu.engines[i] := by
  have main : ∀ e : Fin 4, SameButCap s.piu.engines[engineIx e] (updateCaps s).piu.engines[engineIx e] := fun e => by
    rw [updateCaps_at]
    split
    · exact .refl _
    · exact cappedRec_sameButCap ..
  by_cases h : i.val < 4
  · exact main ⟨i.val, h⟩
  · rw [updateCaps_other s i (by omega)]; exact .refl _

/-- After an update the cap of E1 to E4 is the one that the tanks and the lineup give. -/
theorem updateCaps_cap (s : State) (e : Fin 4) : (updateCaps s).piu.engines[engineIx e].cap = capOf s e := by
  rw [updateCaps_at]
  split
  · rename_i h; exact h.symm
  · exact cappedRec_cap ..

theorem updateCaps_fuelTold (s : State) : FuelTold s (updateCaps s) := by
  have hp : (updateCaps s).piu = { s.piu with engines := (updateCaps s).piu.engines } := by
    have step : ∀ a e, (capStep s a e).piu = { a.piu with engines := (capStep s a e).piu.engines } := fun a e => by
      unfold capStep; split
      · rfl
      · rw [writeCap_eq]
    rw [updateCaps_eq]
    show (capStep s (capStep s (capStep s (capStep s s 0) 1) 2) 3).piu =
      { s.piu with engines := (capStep s (capStep s (capStep s (capStep s s 0) 1) 2) 3).piu.engines }
    rw [step, step (capStep s (capStep s s 0) 1), step (capStep s s 0), step s]
  unfold FuelTold
  rw [← hp, updateCaps_piu]
  exact Told.refl _

section Follow
variable {every : Bool} {a b t u : State}

/-- Whether the caps follow is a matter of the engine records and the table of the one state, and of the records and the accounts of
the other. -/
theorem CapsFollow.congr (h : CapsFollow every a t) (hp : b.piu = a.piu) (ht : b.tau = a.tau) (hq : u.piu = t.piu)
    (hf : u.fau = t.fau) : CapsFollow every b u := by
  have hb : b = { b with piu := a.piu, tau := a.tau } := by rw [← hp, ← ht]
  have hu : u = { u with piu := t.piu, fau := t.fau } := by rw [← hq, ← hf]
  rw [hb, hu]
  exact ⟨h.others, h.same, h.lifted, h.bounded⟩

end Follow

/-! ## A tank evaluated (R108) -/

theorem tankAlarms_told (i : Fin 8) (s : State) : Told s (tankAlarms i s) :=
  ((syncAlarm_told ..).trans (syncAlarm_told ..)).trans (syncAlarm_told ..)

/-- The alarms of the accounts and the tanks. -/
def isFuelAlarm (a : Alarm) : Bool :=
  match a with
  | .fuelSat | .tankReserve | .tankEmpty | .tankOverfull => true
  | _ => false

theorem isRaised_tankAlarms_of_ne {a : Alarm} {j : Subject} {i : Fin 8} (s : State)
    (h : isFuelAlarm a = false ∨ a = .fuelSat ∨ j ≠ .tank i) : isRaised a j (tankAlarms i s) = isRaised a j s := by
  have ne : ∀ b, b = .tankReserve ∨ b = .tankEmpty ∨ b = .tankOverfull → ¬(a = b ∧ j = .tank i) := by
    rintro b hb ⟨rfl, rfl⟩
    rcases h with h | h | h
    · rcases hb with rfl | rfl | rfl <;> exact nomatch h
    · subst h; simp at hb
    · exact h rfl
  unfold tankAlarms
  dsimp only
  rw [isRaised_synced_of_ne _ (ne _ (by simp)), isRaised_synced_of_ne _ (ne _ (by simp)), isRaised_synced_of_ne _ (ne _ (by simp))]

/-- The alarms of a tank agree with its state and its flag. -/
theorem isRaised_tankAlarms (i : Fin 8) (s : State) :
    isRaised .tankReserve (.tank i) (tankAlarms i s) = (s.fau.tanks[i].state != .normal) ∧
    isRaised .tankEmpty (.tank i) (tankAlarms i s) = (s.fau.tanks[i].state == .empty) ∧
    isRaised .tankOverfull (.tank i) (tankAlarms i s) = s.fau.tanks[i].overfull := by
  unfold tankAlarms
  dsimp only
  refine ⟨?_, ?_, isRaised_synced ..⟩
  · rw [isRaised_synced_of_ne _ (by simp), isRaised_synced_of_ne _ (by simp), isRaised_synced]
  · rw [isRaised_synced_of_ne _ (by simp), isRaised_synced]

theorem evalTank_fau (i : Fin 8) (s : State) :
    (evalTank i s).fau = { s.fau with tanks := updAt s.fau.tanks i (tankEvaluated s i) } := by
  rw [evalTank_eq, tankAlarms_same]; rfl

theorem evalTank_piu (i : Fin 8) (s : State) : (evalTank i s).piu = s.piu := by
  rw [evalTank_eq, tankAlarms_same]; rfl

theorem evalTank_fuelTold (i : Fin 8) (s : State) : FuelTold s (evalTank i s) := by
  rw [evalTank_eq]
  exact (FuelTold.onFau s _).trans (tankAlarms_told ..).fuelTold

theorem isRaised_evalTank_of_ne {a : Alarm} {j : Subject} {i : Fin 8} (s : State)
    (h : isFuelAlarm a = false ∨ a = .fuelSat ∨ j ≠ .tank i) : isRaised a j (evalTank i s) = isRaised a j s := by
  rw [evalTank_eq, isRaised_tankAlarms_of_ne _ h]; rfl

theorem isRaised_evalTank (i : Fin 8) (s : State) :
    isRaised .tankReserve (.tank i) (evalTank i s) = ((evalTank i s).fau.tanks[i].state != .normal) ∧
    isRaised .tankEmpty (.tank i) (evalTank i s) = ((evalTank i s).fau.tanks[i].state == .empty) ∧
    isRaised .tankOverfull (.tank i) (evalTank i s) = (evalTank i s).fau.tanks[i].overfull := by
  have h := isRaised_tankAlarms i (onTank i (tankEvaluated s i) s)
  have hf : (evalTank i s).fau = (onTank i (tankEvaluated s i) s).fau := evalTank_fau i s
  rw [hf, evalTank_eq]
  exact h

end Sys2Proof.Machine

/-! # A volume moved, and a volume booked (R104, R105) -/

namespace Sys2Proof.Machine

/-! ## Caps that have followed -/

/-- From `s` to `t` the accounts have changed and the caps have followed them. -/
structure CapsMoved (s t : State) : Prop where
  told : FuelTold s t
  follow : CapsFollow false s t
  engines : ∀ i : Fin 6, SameButCap s.piu.engines[i] t.piu.engines[i]

theorem capsMoved_updateCaps {s u : State} (h : FuelTold s u) (hp : u.piu = s.piu) : CapsMoved s (updateCaps u) where
  told := h.trans (updateCaps_fuelTold u)
  follow := (updateCaps_follow u).congr hp.symm h.tau.symm rfl rfl
  engines i := by rw [← hp]; exact updateCaps_sameButCap u i

theorem CapsMoved.of_quiet {s u t : State} (h : CapsMoved u t) (hu : FuelTold s u) (hp : u.piu = s.piu) : CapsMoved s t where
  told := hu.trans h.told
  follow := h.follow.congr hp.symm hu.tau.symm rfl rfl
  engines i := by rw [← hp]; exact h.engines i

/-! ## Accounts and tanks changed in place -/

section Places
variable {s : State}

theorem onAccount_congr {e : Fin 4} {f g : Account → Account} (h : f s.fau.accounts[e] = g s.fau.accounts[e]) :
    onAccount e f s = onAccount e g s :=
  congrArg (fun v => s.onFau fun u => { u with accounts := v }) (updAt_congr _ h)

theorem onTank_congr {i : Fin 8} {f g : Tank → Tank} (h : f s.fau.tanks[i] = g s.fau.tanks[i]) : onTank i f s = onTank i g s :=
  congrArg (fun v => s.onFau fun u => { u with tanks := v }) (updAt_congr _ h)

theorem onAccount_onAccount (e : Fin 4) (f g : Account → Account) : onAccount e g (onAccount e f s) = onAccount e (g ∘ f) s :=
  congrArg (fun v => s.onFau fun u => { u with accounts := v }) (updAt_updAt s.fau.accounts e f g)

end Places

/-! ## One volume -/

section Moves
variable (s : State)

/-- A tank's record with its balance moved (R115). -/
def balanceMoved (v : Int) (k : Tank) : Tank := { k with balance := limitAccount (k.balance + v) }

/-- An account with its total increased (R115). -/
def totalMoved (v : Int) (a : Account) : Account := { a with total := limitAccount (a.total + v) }

theorem moveBalance_eq (i : Fin 8) (v : Int) :
    moveBalance i v s = saturated (s.fau.tanks[i].balance + v) (onTank i (balanceMoved v) s) := by
  exact congrArg (saturated _) (onTank_congr rfl)

theorem addTotal_eq (e : Fin 4) (v : Int) :
    addTotal e v s = saturated (s.fau.accounts[e].total + v) (onAccount e (totalMoved v) s) := by
  exact congrArg (saturated _) (onAccount_congr rfl)

theorem moveBalance_fau (i : Fin 8) (v : Int) : (moveBalance i v s).fau = { s.fau with
    tanks := updAt s.fau.tanks i (balanceMoved v), sat := s.fau.sat || beyond (s.fau.tanks[i].balance + v) } := by
  rw [moveBalance_eq, saturated_fau_eq]; rfl

theorem addTotal_fau (e : Fin 4) (v : Int) : (addTotal e v s).fau = { s.fau with
    accounts := updAt s.fau.accounts e (totalMoved v), sat := s.fau.sat || beyond (s.fau.accounts[e].total + v) } := by
  rw [addTotal_eq, saturated_fau_eq]; rfl

theorem moveBalance_fuelTold (i : Fin 8) (v : Int) : FuelTold s (moveBalance i v s) := by
  rw [moveBalance_eq]; exact (FuelTold.onFau s _).trans (saturated_fuelTold ..)

theorem addTotal_fuelTold (e : Fin 4) (v : Int) : FuelTold s (addTotal e v s) := by
  rw [addTotal_eq]; exact (FuelTold.onFau s _).trans (saturated_fuelTold ..)

theorem moveBalance_piu (i : Fin 8) (v : Int) : (moveBalance i v s).piu = s.piu := by
  rw [moveBalance_eq, saturated_piu]; rfl

theorem addTotal_piu (e : Fin 4) (v : Int) : (addTotal e v s).piu = s.piu := by
  rw [addTotal_eq, saturated_piu]; rfl

theorem isRaised_saturated_quiet (v : Int) {a : Alarm} (h : isFuelAlarm a = false) (j : Subject) :
    isRaised a j (saturated v s) = isRaised a j s := by
  have : ¬(a = .fuelSat ∧ j = .none) := by rintro ⟨rfl, -⟩; exact nomatch h
  rw [isRaised_saturated, decide_eq_false this, Bool.and_false, Bool.or_false]

theorem isRaised_moveBalance_quiet (i : Fin 8) (v : Int) {a : Alarm} (h : isFuelAlarm a = false) (j : Subject) :
    isRaised a j (moveBalance i v s) = isRaised a j s := by
  rw [moveBalance_eq, isRaised_saturated_quiet _ _ h]; rfl

theorem isRaised_addTotal_quiet (e : Fin 4) (v : Int) {a : Alarm} (h : isFuelAlarm a = false) (j : Subject) :
    isRaised a j (addTotal e v s) = isRaised a j s := by
  rw [addTotal_eq, isRaised_saturated_quiet _ _ h]; rfl

end Moves

/-! ## A booking (R104) -/

/-- An account with a volume booked, METERED or not. -/
def accountBooked (metered : Bool) (v : Int) (a : Account) : Account :=
  { a with total := limitAccount (a.total + v), metered := if metered then a.metered + v else a.metered }

/-- The accounts with a volume booked to an engine and taken from its lineup tank, which is evaluated. -/
def fauBooked (e : Fin 4) (v : Int) (s : State) : Fau :=
  { s.fau with
    accounts := updAt s.fau.accounts e (accountBooked (isMetered s.fau.meters e) v),
    tanks := updAt s.fau.tanks s.fau.lineup[e] (tankEvaluated s s.fau.lineup[e] ∘ balanceMoved (-v)),
    sat := s.fau.sat || beyond (s.fau.accounts[e].total + v) || beyond (s.fau.tanks[s.fau.lineup[e]].balance + -v) }

/-- The state in which the tank of a booking is evaluated. -/
def volumeBooked (e : Fin 4) (v : Int) (s : State) : State :=
  let moved := moveBalance s.fau.lineup[e] (-v) (addTotal e v s)
  if isMetered s.fau.meters e then onAccount e (fun a => { a with metered := a.metered + v }) moved else moved

section Booking
variable (e : Fin 4) (v : Int) (s : State)

theorem applyBooking_eq : applyBooking e v s = updateCaps (evalTank s.fau.lineup[e] (volumeBooked e v s)) := rfl

theorem volumeBooked_fau : (volumeBooked e v s).fau = { s.fau with
    accounts := updAt s.fau.accounts e (accountBooked (isMetered s.fau.meters e) v),
    tanks := updAt s.fau.tanks s.fau.lineup[e] (balanceMoved (-v)),
    sat := s.fau.sat || beyond (s.fau.accounts[e].total + v) || beyond (s.fau.tanks[s.fau.lineup[e]].balance + -v) } := by
  have moved : (moveBalance s.fau.lineup[e] (-v) (addTotal e v s)).fau = { s.fau with
      accounts := updAt s.fau.accounts e (totalMoved v),
      tanks := updAt s.fau.tanks s.fau.lineup[e] (balanceMoved (-v)),
      sat := s.fau.sat || beyond (s.fau.accounts[e].total + v) || beyond (s.fau.tanks[s.fau.lineup[e]].balance + -v) } := by
    rw [moveBalance_fau, addTotal_fau]
  unfold volumeBooked
  cases isMetered s.fau.meters e with
  | true =>
    rw [if_pos rfl]
    show ({ (moveBalance _ _ _).fau with accounts := updAt (moveBalance _ _ _).fau.accounts e _ } : Fau) = _
    rw [moved]
    dsimp only
    rw [updAt_updAt]
    rfl
  | false =>
    rw [if_neg Bool.false_ne_true, moved]
    rfl

theorem volumeBooked_fuelTold : FuelTold s (volumeBooked e v s) := by
  have moved := (addTotal_fuelTold s e v).trans (moveBalance_fuelTold _ s.fau.lineup[e] (-v))
  unfold volumeBooked
  dsimp only
  split
  · exact moved.trans (.onFau _ _)
  · exact moved

theorem volumeBooked_piu : (volumeBooked e v s).piu = s.piu := by
  have moved : (moveBalance s.fau.lineup[e] (-v) (addTotal e v s)).piu = s.piu := by rw [moveBalance_piu, addTotal_piu]
  unfold volumeBooked
  dsimp only
  split <;> exact moved

theorem applyBooking_fau : (applyBooking e v s).fau = fauBooked e v s := by
  rw [applyBooking_eq, updateCaps_fau, evalTank_fau, volumeBooked_fau]
  dsimp only
  rw [tankEvaluated_congr (s := s) (t := volumeBooked e v s) (by rw [volumeBooked_fau]), updAt_updAt]
  rfl

theorem applyBooking_moved : CapsMoved s (applyBooking e v s) := by
  rw [applyBooking_eq]
  exact capsMoved_updateCaps ((volumeBooked_fuelTold e v s).trans (evalTank_fuelTold ..))
    ((evalTank_piu ..).trans (volumeBooked_piu e v s))

theorem isRaised_applyBooking_quiet {a : Alarm} (h : isFuelAlarm a = false) (j : Subject) :
    isRaised a j (applyBooking e v s) = isRaised a j s := by
  have moved : isRaised a j (moveBalance s.fau.lineup[e] (-v) (addTotal e v s)) = isRaised a j s := by
    rw [isRaised_moveBalance_quiet _ _ _ h, isRaised_addTotal_quiet _ _ _ h]
  rw [applyBooking_eq, isRaised_updateCaps, isRaised_evalTank_of_ne _ (.inl h)]
  unfold volumeBooked
  dsimp only
  split <;> exact moved

end Booking

/-! ## The estimate of an engine's fuel (R105) -/

/-- The millionth parts of the fuel that an ENGINE-FB brings to an engine's account, with what the last one left. -/
def rateSum (a : Account) (rate now : Nat) : Nat := a.residue + rate * elapsedMs a.lastFeedback now

/-- An account with the time and the residue of an ENGINE-FB. -/
def accountRated (rate now : Nat) (a : Account) : Account :=
  { a with lastFeedback := some now, residue := rateSum a rate now % 36000 }

section Estimate
variable {e : Fin 4} {rate : Nat} {s : State}

theorem engineFuel_unloaded (h : s.fau.table = none) :
    engineFuel e rate s = onAccount e ({ · with lastFeedback := some s.now }) s := by
  unfold engineFuel; rw [h]

/-- The account of an engine rated, before its volume is booked. -/
theorem rated_eq : onAccount e ({ · with residue := rateSum s.fau.accounts[e] rate s.now % 36000 })
    (onAccount e ({ · with lastFeedback := some s.now }) s) = onAccount e (accountRated rate s.now) s := by
  rw [onAccount_onAccount]
  exact onAccount_congr rfl

/-- METERED: the volume goes to the estimate of the window alone. -/
theorem engineFuel_metered (h : s.fau.table ≠ none) (hm : isMetered s.fau.meters e = true) :
    engineFuel e rate s = onAccount e (fun a => { accountRated rate s.now a with
      estimated := a.estimated + ((rateSum a rate s.now / 36000 : Nat) : Int) }) s := by
  obtain ⟨x, hx⟩ := Option.ne_none_iff_exists'.1 h
  have : engineFuel e rate s = onAccount e (fun a => { a with
      estimated := a.estimated + ((rateSum s.fau.accounts[e] rate s.now / 36000 : Nat) : Int) })
      (onAccount e (accountRated rate s.now) s) := by
    rw [← rated_eq]
    unfold engineFuel
    rw [hx, hm]
    rfl
  rw [this, onAccount_onAccount]
  exact onAccount_congr rfl

/-- ESTIMATE: the volume is booked. -/
theorem engineFuel_booked (h : s.fau.table ≠ none) (hm : isMetered s.fau.meters e = false) :
    engineFuel e rate s = applyBooking e ((rateSum s.fau.accounts[e] rate s.now / 36000 : Nat) : Int)
      (onAccount e (accountRated rate s.now) s) := by
  obtain ⟨x, hx⟩ := Option.ne_none_iff_exists'.1 h
  rw [← rated_eq]
  unfold engineFuel
  rw [hx, hm]
  rfl

end Estimate

end Sys2Proof.Machine

/-! # ENGINE-FB taken by its record (R44, R46 to R48, R105) -/

namespace Sys2Proof.Machine

/-! ## The record of the engine -/

/-- A record with its availability and its good-feedback run set: one that leaves AVAILABLE is written NEUTRAL at idle (R50). -/
def availSet (now idle : Nat) (a : EngineAvail) (run : Nat) (r : EngineRec) : EngineRec :=
  { (if r.avail = .available ∧ a ≠ .available then madeNeutral now idle r else r) with avail := a, run := run }

theorem setAvail_eq (i : Fin 6) (a : EngineAvail) (run : Nat) (s : State) :
    setAvail i a run s = onEngine i (availSet s.now (engineOf s i).idle a run) s := by
  have h : ∀ r : EngineRec, (if r.avail = .available && a != .available then
      neutralWritten (engineOf s i) s.now { r with avail := a, run := run } else { r with avail := a, run := run }) =
        availSet s.now (engineOf s i).idle a run r := fun r => by
    rw [neutralWritten_eq]
    unfold availSet
    by_cases hc : r.avail = .available ∧ a ≠ .available
    · rw [if_pos hc, if_pos (by simpa using hc)]; rfl
    · rw [if_neg hc, if_neg (by simpa using hc)]
  exact congrArg (onEngine i · s) (funext h)

/-- The rows of R48: the availability and the good-feedback run after a taken frame. -/
def availAfter (a : EngineAvail) (run : Nat) (shutdown neutral : Bool) : EngineAvail × Nat :=
  match a with
  | .unconfigured => (.unconfigured, run)
  | .lost => if shutdown then (.faulted, 0) else (.rejoining, if neutral then 1 else 0)
  | .faulted => if shutdown then (.faulted, run) else (.rejoining, if neutral then 1 else 0)
  | .rejoining =>
    if shutdown then (.faulted, 0)
    else if neutral then (if run + 1 < 3 then (.rejoining, run + 1) else (.available, 3))
    else (.rejoining, 0)
  | .available => if shutdown then (.faulted, 0) else (.available, run)

/-- A record moved by the rows of R48. -/
def availMoved (now idle : Nat) (shutdown neutral : Bool) (r : EngineRec) : EngineRec :=
  availSet now idle (availAfter r.avail r.run shutdown neutral).1 (availAfter r.avail r.run shutdown neutral).2 r

/-- A record with its frame stored and its timer restarted (R47). -/
def feedbackStored (now : Nat) (fb : EngineFeedback) (r : EngineRec) : EngineRec :=
  { r with feedback := some fb, timer := some (now + 600 * Config.usPerMs) }

/-- A retiring record that has become UNCONFIGURED (R46). -/
def retired (r : EngineRec) : EngineRec :=
  { r with retiring := none, avail := .unconfigured, filled := false, fresh := false, timer := none }

/-- A retiring record leaves at its first frame in NEUTRAL (R46). -/
def leavesAt (fb : EngineFeedback) (r : EngineRec) : Bool := r.retiring.isSome && fb.gear == .neutral

/-- A record with a frame taken. -/
def feedbackTaken (now idle : Nat) (fb : EngineFeedback) (r : EngineRec) : EngineRec :=
  if leavesAt fb r then retired (feedbackStored now fb r)
  else availMoved now idle fb.shutdown (fb.gear == .neutral) (feedbackStored now fb r)

/-! ## The availability and its alarms (R48) -/

section Moves
variable {i : Fin 6} {x : State}

theorem onEngine_congr {f g : EngineRec → EngineRec} (h : f x.piu.engines[i] = g x.piu.engines[i]) :
    onEngine i f x = onEngine i g x :=
  congrArg (fun v => x.onPiu fun p => { p with engines := v }) (updAt_congr _ h)

theorem setAvail_self {a : EngineAvail} (h : x.piu.engines[i].avail = a) : setAvail i a x.piu.engines[i].run x = x := by
  have same : availSet x.now (engineOf x i).idle a x.piu.engines[i].run x.piu.engines[i] = id x.piu.engines[i] := by
    unfold availSet
    rw [if_neg fun e => e.2 (h.symm.trans e.1), ← h]
    rfl
  rw [setAvail_eq, onEngine_congr same, onEngine_id]

/-- The alarms of R48 at a record that was in an availability. -/
def availAlarms (i : Fin 6) (a : EngineAvail) (shutdown : Bool) (y : State) : State :=
  match a, shutdown with
  | .lost, true => raiseAlarm .engineFault (.engine i) (clearAlarm .engineLost (.engine i) y)
  | .lost, false => clearAlarm .engineLost (.engine i) y
  | .faulted, false => clearAlarm .engineFault (.engine i) y
  | .rejoining, true => raiseAlarm .engineFault (.engine i) y
  | .available, true => raiseAlarm .engineFault (.engine i) y
  | .unconfigured, _ => y
  | .faulted, true => y
  | .rejoining, false => y
  | .available, false => y

/-- The record moves, and its alarms follow. -/
theorem moveAvail_eq (i : Fin 6) (shutdown neutral : Bool) (x : State) : moveAvail i shutdown neutral x =
    availAlarms i x.piu.engines[i].avail shutdown
      (onEngine i (availMoved x.now (engineOf x i).idle shutdown neutral) x) := by
  have moved : onEngine i (availMoved x.now (engineOf x i).idle shutdown neutral) x =
      setAvail i (availAfter x.piu.engines[i].avail x.piu.engines[i].run shutdown neutral).1
        (availAfter x.piu.engines[i].avail x.piu.engines[i].run shutdown neutral).2 x := by
    rw [setAvail_eq]
    exact onEngine_congr rfl
  rw [moved]
  unfold moveAvail availAfter
  dsimp only
  cases h : x.piu.engines[i].avail with
  | unconfigured => exact (setAvail_self h).symm
  | lost => cases shutdown <;> rfl
  | faulted =>
    cases shutdown with
    | true => exact (setAvail_self h).symm
    | false => rfl
  | rejoining =>
    cases shutdown with
    | true => rfl
    | false =>
      cases neutral with
      | true => exact (apply_ite (fun p : EngineAvail × Nat => setAvail i p.1 p.2 x) (x.piu.engines[i].run + 1 < 3)
          (.rejoining, x.piu.engines[i].run + 1) (.available, 3)).symm
      | false => rfl
  | available =>
    cases shutdown with
    | true => rfl
    | false => exact (setAvail_self h).symm

theorem availAlarms_told (i : Fin 6) (a : EngineAvail) (shutdown : Bool) (y : State) : Told y (availAlarms i a shutdown y) := by
  unfold availAlarms
  split
  · exact (clearAlarm_told ..).trans (raiseAlarm_told ..)
  · exact clearAlarm_told ..
  · exact clearAlarm_told ..
  · exact raiseAlarm_told ..
  · exact raiseAlarm_told ..
  all_goals exact Told.refl _

theorem availAlarms_fault {a : EngineAvail} (y : State) (hu : a ≠ .unconfigured) (hf : a ≠ .faulted) :
    isRaised .engineFault (.engine i) (availAlarms i a true y) = true := by
  cases a with
  | unconfigured => exact absurd rfl hu
  | faulted => exact absurd rfl hf
  | lost => exact isRaised_raised ..
  | rejoining => exact isRaised_raised ..
  | available => exact isRaised_raised ..

theorem availAlarms_recovered (y : State) : isRaised .engineFault (.engine i) (availAlarms i .faulted false y) = false :=
  not_isRaised_cleared ..

theorem availAlarms_found (shutdown : Bool) (y : State) :
    isRaised .engineLost (.engine i) (availAlarms i .lost shutdown y) = false := by
  cases shutdown with
  | true => exact (isRaised_raiseAlarm_of_ne (by simp)).trans (not_isRaised_cleared ..)
  | false => exact not_isRaised_cleared ..

end Moves

/-! ## The frame at its record (R46, R47) -/

section Record
variable {i : Fin 6} {fb : EngineFeedback} {s : State}

theorem engineOf_storeFeedback (i : Fin 6) (fb : EngineFeedback) (s : State) :
    engineOf (storeFeedback i fb s) i = engineOf s i := by
  have h : (storeFeedback i fb s).piu.engines[i] = feedbackStored s.now fb s.piu.engines[i] := updAt_getFin_same ..
  unfold engineOf
  rw [h]
  rfl

/-- The state in which the frame is handed on to the accounts. -/
def recordActed (i : Fin 6) (fb : EngineFeedback) (s : State) : State := actOnFeedback i fb (storeFeedback i fb s)

theorem recordActed_leaves (h : leavesAt fb s.piu.engines[i] = true) : recordActed i fb s =
    clearAlarm .engineWarning (.engine i) (clearAlarm .engineFault (.engine i) (clearAlarm .engineLost (.engine i)
      (onEngine i (feedbackTaken s.now (engineOf s i).idle fb) s))) := by
  have acts : recordActed i fb s = unconfigureEngine i (storeFeedback i fb s) := by
    refine if_pos ?_
    have hrec : (storeFeedback i fb s).piu.engines[i] = feedbackStored s.now fb s.piu.engines[i] := updAt_getFin_same ..
    rw [hrec]
    exact h
  have hrec : onEngine i retired (storeFeedback i fb s) = onEngine i (feedbackTaken s.now (engineOf s i).idle fb) s :=
    (onEngine_onEngine ..).trans (onEngine_congr (if_pos h).symm)
  rw [acts, ← hrec]
  rfl

theorem recordActed_stays (h : leavesAt fb s.piu.engines[i] = false) : recordActed i fb s =
    availAlarms i s.piu.engines[i].avail fb.shutdown (onEngine i (feedbackTaken s.now (engineOf s i).idle fb) s) := by
  have hrec : (storeFeedback i fb s).piu.engines[i] = feedbackStored s.now fb s.piu.engines[i] := updAt_getFin_same ..
  have acts : recordActed i fb s = moveAvail i fb.shutdown (fb.gear == .neutral) (storeFeedback i fb s) := by
    refine if_neg ?_
    rw [hrec, Bool.not_eq_true]
    exact h
  have moved : onEngine i (availMoved s.now (engineOf s i).idle fb.shutdown (fb.gear == .neutral)) (storeFeedback i fb s) =
      onEngine i (feedbackTaken s.now (engineOf s i).idle fb) s :=
    (onEngine_onEngine ..).trans (onEngine_congr (if_neg (by rw [h]; exact Bool.false_ne_true)).symm)
  rw [acts, moveAvail_eq, engineOf_storeFeedback, hrec, ← moved]
  rfl

theorem recordActed_told (i : Fin 6) (fb : EngineFeedback) (s : State) :
    Told (onEngine i (feedbackTaken s.now (engineOf s i).idle fb) s) (recordActed i fb s) := by
  cases h : leavesAt fb s.piu.engines[i] with
  | true =>
    rw [recordActed_leaves h]
    exact ((clearAlarm_told ..).trans (clearAlarm_told ..)).trans (clearAlarm_told ..)
  | false =>
    rw [recordActed_stays h]
    exact availAlarms_told ..

end Record

/-! ## The fuel rate handed to the accounts (R47, R105) -/

section Rate
variable (e : Fin 4) (rate : Nat) (s : State)

/-- What the accounts make of an ENGINE-FB. -/
theorem engineFuel_effect : FuelTold s (engineFuel e rate s) ∧
    (∀ i : Fin 6, SameButCap s.piu.engines[i] (engineFuel e rate s).piu.engines[i]) ∧
    ∀ a j, isFuelAlarm a = false → isRaised a j (engineFuel e rate s) = isRaised a j s := by
  by_cases ht : s.fau.table = none
  · rw [engineFuel_unloaded ht]
    exact ⟨.onFau s _, fun _ => .refl _, fun _ _ _ => rfl⟩
  · cases hm : isMetered s.fau.meters e with
    | true =>
      rw [engineFuel_metered ht hm]
      exact ⟨.onFau s _, fun _ => .refl _, fun _ _ _ => rfl⟩
    | false =>
      rw [engineFuel_booked ht hm]
      generalize ((rateSum s.fau.accounts[e] rate s.now / 36000 : Nat) : Int) = v
      have moved := (applyBooking_moved e v (onAccount e (accountRated rate s.now) s)).of_quiet (.onFau s _) rfl
      have quiet : ∀ a j, isFuelAlarm a = false →
          isRaised a j (applyBooking e v (onAccount e (accountRated rate s.now) s)) = isRaised a j s :=
        fun a j h => (isRaised_applyBooking_quiet _ _ _ h j).trans (isRaised_congr rfl a j)
      revert moved quiet
      generalize applyBooking e v (onAccount e (accountRated rate s.now) s) = t
      exact fun moved quiet => ⟨moved.told, moved.engines, quiet⟩

end Rate

theorem handFuelRate_engine (e : Fin 4) (rate : Nat) (s : State) : handFuelRate (engineIx e) rate s = engineFuel e rate s :=
  dif_pos e.isLt

theorem handFuelRate_x {i : Fin 6} (h : 4 ≤ i.val) (rate : Nat) (s : State) : handFuelRate i rate s = s :=
  dif_neg (by omega)

theorem handFuelRate_effect (i : Fin 6) (rate : Nat) (s : State) : FuelTold s (handFuelRate i rate s) ∧
    (∀ j : Fin 6, SameButCap s.piu.engines[j] (handFuelRate i rate s).piu.engines[j]) ∧
    ∀ a j, isFuelAlarm a = false → isRaised a j (handFuelRate i rate s) = isRaised a j s := by
  by_cases h : i.val < 4
  · rw [show handFuelRate i rate s = engineFuel ⟨i.val, h⟩ rate s from dif_pos h]
    exact engineFuel_effect ..
  · rw [handFuelRate_x (by omega)]
    exact ⟨(Told.refl s).fuelTold, fun _ => .refl _, fun _ _ _ => rfl⟩

end Sys2Proof.Machine

/-! # ENGINE-FB (R44, R47, R48, R105) -/

namespace Sys2Proof.Machine

/-! ## The record that a frame goes to (R44) -/

/-- The record of an engine takes the frames of a node. -/
def takesFrom (s : State) (n : Node) (i : Fin 6) : Prop :=
  ((engineEntry s i).configured = true ∨ s.piu.engines[i].retiring ≠ none) ∧ (engineOf s i).fbNode = n.toNat

theorem takesFrom_iff (s : State) (n : Node) (i : Fin 6) : takesFrom s n i ↔
    (((engineEntry s i).configured || (s.piu.engines[i].retiring).isSome) && (engineOf s i).fbNode == n.toNat) = true := by
  unfold takesFrom
  rw [Bool.and_eq_true, Bool.or_eq_true, Option.isSome_iff_ne_none, beq_iff_eq]

theorem not_takesFrom_iff (s : State) (n : Node) (i : Fin 6) : ¬takesFrom s n i ↔
    (((engineEntry s i).configured || (s.piu.engines[i].retiring).isSome) && (engineOf s i).fbNode == n.toNat) = false := by
  rw [takesFrom_iff, Bool.not_eq_true]

theorem engineByFeedback_none {s : State} {n : Node} (h : ∀ i, ¬takesFrom s n i) : engineByFeedback s n = none :=
  Fin.find?_eq_find?_finRange.symm.trans (Fin.find?_eq_none_iff.2 fun i => (not_takesFrom_iff s n i).1 (h i))

theorem engineByFeedback_first {s : State} {n : Node} {i : Fin 6} (hi : takesFrom s n i) (h : ∀ j, j < i → ¬takesFrom s n j) :
    engineByFeedback s n = some i :=
  Fin.find?_eq_find?_finRange.symm.trans
    (Fin.find?_eq_some_iff.2 ⟨(takesFrom_iff s n i).1 hi, fun j hj => (not_takesFrom_iff s n j).1 (h j hj)⟩)

theorem gearOf_none {g : Byte} (h : 2 < g.toNat) : gearOf g = none := by
  unfold gearOf
  split
  · omega
  · omega
  · omega
  · rfl

theorem gearOf_some {g : Byte} (h : g.toNat ≤ 2) : ∃ gear, gearOf g = some gear := by
  have cases : g.toNat = 0 ∨ g.toNat = 1 ∨ g.toNat = 2 := by omega
  unfold gearOf
  rcases cases with h | h | h
  · rw [h]; exact ⟨_, rfl⟩
  · rw [h]; exact ⟨_, rfl⟩
  · rw [h]; exact ⟨_, rfl⟩

/-! ## The record after the frame -/

section Record
variable {now idle : Nat} {fb : EngineFeedback} {r : EngineRec}

theorem leavesAt_iff (fb : EngineFeedback) (r : EngineRec) :
    leavesAt fb r = true ↔ r.retiring ≠ none ∧ fb.gear = .neutral := by
  unfold leavesAt
  rw [Bool.and_eq_true, Option.isSome_iff_ne_none, beq_iff_eq]

/-- What a frame that does not end the record leaves of it beside its availability, its run and its slot. -/
theorem availSet_rest (now idle : Nat) (a : EngineAvail) (run : Nat) (r : EngineRec) :
    (availSet now idle a run r).avail = a ∧ (availSet now idle a run r).run = run ∧
    (availSet now idle a run r).retiring = r.retiring ∧ (availSet now idle a run r).timer = r.timer ∧
    (availSet now idle a run r).feedback = r.feedback ∧ (availSet now idle a run r).cap = r.cap := by
  unfold availSet
  split <;> exact ⟨rfl, rfl, rfl, rfl, rfl, rfl⟩

theorem feedbackTaken_leaves (h : leavesAt fb r = true) : feedbackTaken now idle fb r = retired (feedbackStored now fb r) :=
  if_pos h

theorem feedbackTaken_stays (h : leavesAt fb r = false) : feedbackTaken now idle fb r =
    availSet now idle (availAfter r.avail r.run fb.shutdown (fb.gear == .neutral)).1
      (availAfter r.avail r.run fb.shutdown (fb.gear == .neutral)).2 (feedbackStored now fb r) :=
  if_neg (by rw [h]; exact Bool.false_ne_true)

/-- The availability never becomes UNCONFIGURED by R48. -/
theorem availAfter_configured {a : EngineAvail} (h : a ≠ .unconfigured) (run : Nat) (shutdown neutral : Bool) :
    (availAfter a run shutdown neutral).1 ≠ .unconfigured := by
  cases a with
  | unconfigured => exact absurd rfl h
  | lost => cases shutdown <;> exact nofun
  | faulted => cases shutdown <;> exact nofun
  | available => cases shutdown <;> exact nofun
  | rejoining =>
    cases shutdown with
    | true => exact nofun
    | false =>
      cases neutral with
      | false => exact nofun
      | true =>
        show (if run + 1 < 3 then (EngineAvail.rejoining, run + 1) else (EngineAvail.available, 3)).1 ≠ _
        split <;> exact nofun

theorem availAfter_shutdown {a : EngineAvail} (h : a ≠ .unconfigured) (run : Nat) (neutral : Bool) :
    (availAfter a run true neutral).1 = .faulted ∧ (a ≠ .faulted → (availAfter a run true neutral).2 = 0) := by
  cases a with
  | unconfigured => exact absurd rfl h
  | faulted => exact ⟨rfl, fun e => absurd rfl e⟩
  | lost => exact ⟨rfl, fun _ => rfl⟩
  | rejoining => exact ⟨rfl, fun _ => rfl⟩
  | available => exact ⟨rfl, fun _ => rfl⟩

/-- A record leaves AVAILABLE exactly by a shutdown. -/
theorem availAfter_available (run : Nat) (shutdown neutral : Bool) :
    (availAfter .available run shutdown neutral).1 ≠ .available ↔ shutdown = true := by
  cases shutdown
  · exact ⟨fun h => absurd rfl h, nofun⟩
  · exact ⟨fun _ => rfl, fun _ => nofun⟩

/-- The slot of a record that a shutdown takes out of AVAILABLE. -/
theorem feedbackTaken_stopped (h : leavesAt fb r = false) (ha : r.avail = .available) (hs : fb.shutdown = true) :
    feedbackTaken now idle fb r = { madeNeutral now idle (feedbackStored now fb r) with avail := .faulted, run := 0 } := by
  have leaves : (feedbackStored now fb r).avail = .available ∧ EngineAvail.faulted ≠ .available := ⟨ha, nofun⟩
  rw [feedbackTaken_stays h, ha, hs]
  exact congrArg (fun x : EngineRec => { x with avail := .faulted, run := 0 }) (if_pos leaves)

/-- The slot of every other record stays. -/
theorem feedbackTaken_slot (h : leavesAt fb r = false) (hs : fb.shutdown = false ∨ r.avail ≠ .available) :
    (feedbackTaken now idle fb r).gear = r.gear ∧ (feedbackTaken now idle fb r).neutralSince = r.neutralSince ∧
    (feedbackTaken now idle fb r).rpm = r.rpm ∧ (feedbackTaken now idle fb r).fresh = r.fresh := by
  have stays : ¬((feedbackStored now fb r).avail = .available ∧
      (availAfter r.avail r.run fb.shutdown (fb.gear == .neutral)).1 ≠ .available) := by
    rintro ⟨ha, hn⟩
    have ha' : r.avail = .available := ha
    rw [ha', availAfter_available] at hn
    exact hs.elim (fun e => Bool.false_ne_true (e.symm.trans hn)) fun e => e ha'
  rw [feedbackTaken_stays h]
  unfold availSet
  rw [if_neg stays]
  exact ⟨rfl, rfl, rfl, rfl⟩

theorem feedbackTaken_cap (now idle : Nat) (fb : EngineFeedback) (r : EngineRec) : (feedbackTaken now idle fb r).cap = r.cap := by
  unfold feedbackTaken
  split
  · rfl
  · obtain ⟨-, -, -, -, -, hc⟩ := availSet_rest now idle (availAfter r.avail r.run fb.shutdown (fb.gear == .neutral)).1
      (availAfter r.avail r.run fb.shutdown (fb.gear == .neutral)).2 (feedbackStored now fb r)
    exact hc

theorem feedbackTaken_feedback (now idle : Nat) (fb : EngineFeedback) (r : EngineRec) :
    (feedbackTaken now idle fb r).feedback = some fb := by
  unfold feedbackTaken
  split
  · rfl
  · obtain ⟨-, -, -, -, hf, -⟩ := availSet_rest now idle (availAfter r.avail r.run fb.shutdown (fb.gear == .neutral)).1
      (availAfter r.avail r.run fb.shutdown (fb.gear == .neutral)).2 (feedbackStored now fb r)
    exact hf

end Record

/-! ## The whole frame -/

/-- The state in which the warning is worked out: the record has acted and the fuel rate has been handed on. -/
def rateHanded (i : Fin 6) (fb : EngineFeedback) (s : State) : State := handFuelRate i fb.rate (recordActed i fb s)

/-- What a taken frame does, up to the rows of its record. -/
structure FrameTaken (i : Fin 6) (fb : EngineFeedback) (s t : State) : Prop where
  told : FuelTold s t
  fau : t.fau = (rateHanded i fb s).fau
  piu : t.piu = (rateHanded i fb s).piu
  record : SameButCap (feedbackTaken s.now (engineOf s i).idle fb s.piu.engines[i]) t.piu.engines[i]
  others : ∀ j : Fin 6, j ≠ i → SameButCap s.piu.engines[j] t.piu.engines[j]
  left : leavesAt fb s.piu.engines[i] = true → ∀ a, a = .engineLost ∨ a = .engineFault ∨ a = .engineWarning →
    isRaised a (.engine i) t = false
  warning : leavesAt fb s.piu.engines[i] = false → isRaised .engineWarning (.engine i) t = (fb.overspeed || fb.lowOil)
  alarms : leavesAt fb s.piu.engines[i] = false → ∀ a, a = .engineLost ∨ a = .engineFault →
    isRaised a (.engine i) t = isRaised a (.engine i) (recordActed i fb s)

section Frame
variable {i : Fin 6} {fb : EngineFeedback} {s : State}

theorem recordActed_engine (i j : Fin 6) (fb : EngineFeedback) (s : State) : (recordActed i fb s).piu.engines[j] =
    if i = j then feedbackTaken s.now (engineOf s i).idle fb s.piu.engines[j] else s.piu.engines[j] := by
  rw [(recordActed_told i fb s).rest]
  exact updAt_getFin ..

theorem isRaised_recordActed_left (h : leavesAt fb s.piu.engines[i] = true) {a : Alarm}
    (ha : a = .engineLost ∨ a = .engineFault ∨ a = .engineWarning) : isRaised a (.engine i) (recordActed i fb s) = false := by
  rw [recordActed_leaves h]
  rcases ha with rfl | rfl | rfl
  · rw [isRaised_clearAlarm_of_ne (by simp), isRaised_clearAlarm_of_ne (by simp), not_isRaised_cleared]
  · rw [isRaised_clearAlarm_of_ne (by simp), not_isRaised_cleared]
  · exact not_isRaised_cleared ..

theorem takeEngineFb_taken (hc : s.piu.engines[i].avail ≠ .unconfigured) : FrameTaken i fb s (takeEngineFb i fb s) := by
  obtain ⟨htold, hengines, hquiet⟩ := handFuelRate_effect i fb.rate (recordActed i fb s)
  have taken : takeEngineFb i fb s = if (rateHanded i fb s).piu.engines[i].avail = .unconfigured
      then rateHanded i fb s else warnEngine i fb (rateHanded i fb s) := rfl
  rw [taken]
  have hacted : FuelTold s (recordActed i fb s) := by
    have acted := recordActed_told i fb s
    unfold FuelTold
    rw [acted.rest]
    rw [acted.rest] at acted
    exact acted
  have hself : SameButCap (feedbackTaken s.now (engineOf s i).idle fb s.piu.engines[i]) (rateHanded i fb s).piu.engines[i] := by
    have := hengines i
    rw [recordActed_engine, if_pos rfl] at this
    exact this
  have hother : ∀ j : Fin 6, j ≠ i → SameButCap s.piu.engines[j] (rateHanded i fb s).piu.engines[j] := fun j hj => by
    have := hengines j
    rw [recordActed_engine, if_neg fun e => hj e.symm] at this
    exact this
  have havail : (rateHanded i fb s).piu.engines[i].avail = (feedbackTaken s.now (engineOf s i).idle fb s.piu.engines[i]).avail := by
    rw [hself.rest]
  have hhanded : FuelTold s (rateHanded i fb s) := hacted.trans htold
  have halarm : ∀ a, a = .engineLost ∨ a = .engineFault ∨ a = .engineWarning →
      isRaised a (.engine i) (rateHanded i fb s) = isRaised a (.engine i) (recordActed i fb s) := fun a ha =>
    hquiet a _ (by rcases ha with rfl | rfl | rfl <;> rfl)
  cases h : leavesAt fb s.piu.engines[i] with
  | true =>
    rw [feedbackTaken_leaves h] at havail
    have gone : (rateHanded i fb s).piu.engines[i].avail = .unconfigured := havail
    rw [if_pos gone]
    exact ⟨hhanded, rfl, rfl, hself, hother, fun _ a ha => (halarm a ha).trans (isRaised_recordActed_left h ha),
      fun e => (nomatch h.symm.trans e), fun e => (nomatch h.symm.trans e)⟩
  | false =>
    obtain ⟨hset, -⟩ := availSet_rest s.now (engineOf s i).idle
      (availAfter s.piu.engines[i].avail s.piu.engines[i].run fb.shutdown (fb.gear == .neutral)).1
      (availAfter s.piu.engines[i].avail s.piu.engines[i].run fb.shutdown (fb.gear == .neutral)).2
      (feedbackStored s.now fb s.piu.engines[i])
    rw [feedbackTaken_stays h, hset] at havail
    rw [if_neg fun e => availAfter_configured hc _ _ _ (havail.symm.trans e)]
    have hwarn : warnEngine i fb (rateHanded i fb s) =
        syncAlarm .engineWarning (.engine i) (fb.overspeed || fb.lowOil) (rateHanded i fb s) := rfl
    rw [hwarn]
    refine ⟨hhanded.trans (syncAlarm_told ..).fuelTold, syncAlarm_fau .., syncAlarm_piu .., ?_, fun j hj => ?_,
      fun e => (nomatch h.symm.trans e), fun _ => isRaised_synced .., fun _ a ha => ?_⟩
    · rw [syncAlarm_piu]; exact hself
    · rw [syncAlarm_piu]; exact hother j hj
    · rw [isRaised_synced_of_ne _ (by rcases ha with rfl | rfl <;> simp)]
      exact halarm a (ha.imp_right .inl)

end Frame

end Sys2Proof.Machine

/-! # ENGINE-FB, settled (R44, R47, R48, R105) -/

namespace Sys2Proof.Machine

/-! ## The account of the engine -/

section Account
variable {e : Fin 4} {rate : Nat} {s : State}

theorem rateSum_eq (a : Account) (rate now : Nat) : rateSum a rate now =
    a.residue + rate * (match a.lastFeedback with | none => 0 | some l => min 1000 (now / 1000 - l / 1000)) := by
  unfold rateSum elapsedMs
  cases a.lastFeedback <;> rfl

theorem engineFuel_lastFeedback (e : Fin 4) (rate : Nat) (s : State) :
    (engineFuel e rate s).fau.accounts[e].lastFeedback = some s.now := by
  by_cases ht : s.fau.table = none
  · rw [engineFuel_unloaded ht]
    exact congrArg Account.lastFeedback (updAt_getFin_same ..)
  · cases hm : isMetered s.fau.meters e with
    | true =>
      rw [engineFuel_metered ht hm]
      exact congrArg Account.lastFeedback (updAt_getFin_same ..)
    | false =>
      rw [engineFuel_booked ht hm, applyBooking_fau]
      refine (congrArg Account.lastFeedback (updAt_getFin_same ..)).trans ?_
      exact congrArg Account.lastFeedback (updAt_getFin_same ..)

theorem engineFuel_residue (ht : s.fau.table ≠ none) :
    (engineFuel e rate s).fau.accounts[e].residue = rateSum s.fau.accounts[e] rate s.now % 36000 := by
  cases hm : isMetered s.fau.meters e with
  | true =>
    rw [engineFuel_metered ht hm]
    exact congrArg Account.residue (updAt_getFin_same ..)
  | false =>
    rw [engineFuel_booked ht hm, applyBooking_fau]
    refine (congrArg Account.residue (updAt_getFin_same ..)).trans ?_
    exact congrArg Account.residue (updAt_getFin_same ..)

theorem engineFuel_estimated (ht : s.fau.table ≠ none) (hm : isMetered s.fau.meters e = true) :
    (engineFuel e rate s).fau.accounts[e].total = s.fau.accounts[e].total ∧
    (engineFuel e rate s).fau.accounts[e].estimated =
      s.fau.accounts[e].estimated + ((rateSum s.fau.accounts[e] rate s.now / 36000 : Nat) : Int) := by
  rw [engineFuel_metered ht hm]
  exact ⟨(congrArg Account.total (updAt_getFin_same ..)).trans rfl, congrArg Account.estimated (updAt_getFin_same ..)⟩

theorem engineFuel_taken (ht : s.fau.table ≠ none) (hm : isMetered s.fau.meters e = false) :
    (engineFuel e rate s).fau.accounts[e].total =
      limitAccount (s.fau.accounts[e].total + ((rateSum s.fau.accounts[e] rate s.now / 36000 : Nat) : Int)) ∧
    (engineFuel e rate s).fau.accounts[e].estimated = s.fau.accounts[e].estimated ∧
    (engineFuel e rate s).fau.tanks[s.fau.lineup[e]].balance =
      limitAccount (s.fau.tanks[s.fau.lineup[e]].balance - ((rateSum s.fau.accounts[e] rate s.now / 36000 : Nat) : Int)) := by
  rw [engineFuel_booked ht hm, applyBooking_fau]
  generalize ((rateSum s.fau.accounts[e] rate s.now / 36000 : Nat) : Int) = v
  have rated : (onAccount e (accountRated rate s.now) s).fau.accounts[e] = accountRated rate s.now s.fau.accounts[e] :=
    updAt_getFin_same ..
  refine ⟨?_, ?_, ?_⟩
  · refine (congrArg Account.total (updAt_getFin_same ..)).trans ?_
    rw [rated]; rfl
  · refine (congrArg Account.estimated (updAt_getFin_same ..)).trans ?_
    rw [rated]; rfl
  · refine (congrArg Tank.balance (updAt_getFin_same ..)).trans ?_
    exact tankEvaluated_balance ..

/-- Only a booking changes the engine records. -/
theorem engineFuel_piu (h : s.fau.table = none ∨ isMetered s.fau.meters e = true) : (engineFuel e rate s).piu = s.piu := by
  by_cases ht : s.fau.table = none
  · rw [engineFuel_unloaded ht]; rfl
  · rw [engineFuel_metered ht (h.resolve_left ht)]; rfl

/-- By a booking the caps follow. -/
theorem engineFuel_caps (ht : s.fau.table ≠ none) (hm : isMetered s.fau.meters e = false) :
    CapsFollow false s (engineFuel e rate s) := by
  rw [engineFuel_booked ht hm]
  have moved := applyBooking_moved e ((rateSum s.fau.accounts[e] rate s.now / 36000 : Nat) : Int)
    (onAccount e (accountRated rate s.now) s)
  exact moved.follow.congr rfl rfl rfl rfl

end Account

/-! ## The rows of R48 at the record -/

section Rows
variable {i : Fin 6} {fb : EngineFeedback} {s t : State}

theorem FrameTaken.leftRow (h : FrameTaken i fb s t) (hl : leavesAt fb s.piu.engines[i] = true) :
    t.piu.engines[i].avail = .unconfigured ∧ t.piu.engines[i].retiring = none ∧ t.piu.engines[i].filled = false ∧
    t.piu.engines[i].timer = none := by
  have hrec := h.record.rest
  rw [feedbackTaken_leaves hl] at hrec
  rw [hrec]
  exact ⟨rfl, rfl, rfl, rfl⟩

theorem FrameTaken.stayRow (h : FrameTaken i fb s t) (hl : leavesAt fb s.piu.engines[i] = false) :
    t.piu.engines[i].avail =
      (availAfter s.piu.engines[i].avail s.piu.engines[i].run fb.shutdown (fb.gear == .neutral)).1 ∧
    t.piu.engines[i].run =
      (availAfter s.piu.engines[i].avail s.piu.engines[i].run fb.shutdown (fb.gear == .neutral)).2 ∧
    t.piu.engines[i].retiring = s.piu.engines[i].retiring ∧
    t.piu.engines[i].timer = some (s.now + 600 * Config.usPerMs) := by
  have hrec := h.record.rest
  obtain ⟨havail, hrun, hret, htimer, -, -⟩ := availSet_rest s.now (engineOf s i).idle
    (availAfter s.piu.engines[i].avail s.piu.engines[i].run fb.shutdown (fb.gear == .neutral)).1
    (availAfter s.piu.engines[i].avail s.piu.engines[i].run fb.shutdown (fb.gear == .neutral)).2
    (feedbackStored s.now fb s.piu.engines[i])
  rw [feedbackTaken_stays hl] at hrec
  rw [hrec]
  exact ⟨havail, hrun, hret, htimer⟩

theorem FrameTaken.stoppedSlot (h : FrameTaken i fb s t) (hl : leavesAt fb s.piu.engines[i] = false)
    (ha : s.piu.engines[i].avail = .available) (hs : fb.shutdown = true) :
    t.piu.engines[i].gear = .neutral ∧ t.piu.engines[i].rpm = (engineOf s i).idle ∧ t.piu.engines[i].filled = true ∧
    t.piu.engines[i].fresh = true ∧ t.piu.engines[i].neutralSince =
      if s.piu.engines[i].gear = .neutral then s.piu.engines[i].neutralSince else s.now := by
  have hrec := h.record
  rw [feedbackTaken_stopped hl ha hs] at hrec
  obtain ⟨hrpm, hfresh⟩ := hrec.neutral rfl
  refine ⟨?_, hrpm, ?_, hfresh, ?_⟩
  · rw [hrec.rest]; rfl
  · rw [hrec.rest]; rfl
  · rw [hrec.rest]; rfl

theorem FrameTaken.keptSlot (h : FrameTaken i fb s t) (hl : leavesAt fb s.piu.engines[i] = false)
    (hs : fb.shutdown = false ∨ s.piu.engines[i].avail ≠ .available) :
    t.piu.engines[i].gear = s.piu.engines[i].gear ∧ t.piu.engines[i].neutralSince = s.piu.engines[i].neutralSince := by
  obtain ⟨hgear, hsince, -, -⟩ := feedbackTaken_slot (now := s.now) (idle := (engineOf s i).idle) hl hs
  rw [h.record.rest]
  exact ⟨hgear, hsince⟩

theorem FrameTaken.faultRaised (h : FrameTaken i fb s t) (hl : leavesAt fb s.piu.engines[i] = false)
    (hc : s.piu.engines[i].avail ≠ .unconfigured) (hf : s.piu.engines[i].avail ≠ .faulted) (hs : fb.shutdown = true) :
    isRaised .engineFault (.engine i) t = true := by
  rw [h.alarms hl _ (.inr rfl), recordActed_stays hl, hs]
  exact availAlarms_fault _ hc hf

theorem FrameTaken.faultCleared (h : FrameTaken i fb s t) (hl : leavesAt fb s.piu.engines[i] = false)
    (hf : s.piu.engines[i].avail = .faulted) (hs : fb.shutdown = false) : isRaised .engineFault (.engine i) t = false := by
  rw [h.alarms hl _ (.inr rfl), recordActed_stays hl, hs, hf]
  exact availAlarms_recovered _

theorem FrameTaken.lostCleared (h : FrameTaken i fb s t) (hl : leavesAt fb s.piu.engines[i] = false)
    (ha : s.piu.engines[i].avail = .lost) : isRaised .engineLost (.engine i) t = false := by
  rw [h.alarms hl _ (.inl rfl), recordActed_stays hl, ha]
  exact availAlarms_found _ _

end Rows

/-! ## The caps and the accounts -/

section Fuel
variable {i : Fin 6} {fb : EngineFeedback} {s t : State}

/-- The record of the engine as it stands before the caps follow. -/
def withRecord (i : Fin 6) (z : EngineRec) (s : State) : State := { s with piu := { s.piu with engines := s.piu.engines.set i z } }

theorem recordActed_units (i : Fin 6) (fb : EngineFeedback) (s : State) :
    (recordActed i fb s).fau = s.fau ∧ (recordActed i fb s).now = s.now ∧ (recordActed i fb s).tau = s.tau ∧
    (recordActed i fb s).piu = (withRecord i (feedbackTaken s.now (engineOf s i).idle fb s.piu.engines[i]) s).piu := by
  rw [(recordActed_told i fb s).rest]
  exact ⟨rfl, rfl, rfl, rfl⟩

theorem FrameTaken.follows (h : FrameTaken i fb s t) {e : Fin 4} (he : e.val = i.val) (ht : s.fau.table ≠ none)
    (hm : isMetered s.fau.meters e = false) :
    CapsFollow false (withRecord i (feedbackTaken s.now (engineOf s i).idle fb s.piu.engines[i]) s) t := by
  obtain rfl : engineIx e = i := Fin.ext he
  obtain ⟨hfau, -, htau, hpiu⟩ := recordActed_units (engineIx e) fb s
  have handed : rateHanded (engineIx e) fb s = engineFuel e fb.rate (recordActed (engineIx e) fb s) := handFuelRate_engine ..
  have hq := h.piu
  have hf := h.fau
  rw [handed] at hq hf
  have caps : CapsFollow false (recordActed (engineIx e) fb s) (engineFuel e fb.rate (recordActed (engineIx e) fb s)) :=
    engineFuel_caps (by rw [hfau]; exact ht) (by rw [hfau]; exact hm)
  exact caps.congr hpiu.symm htau.symm hq hf

theorem FrameTaken.unbooked (h : FrameTaken i fb s t)
    (hq : ∀ e : Fin 4, e.val = i.val → s.fau.table = none ∨ isMetered s.fau.meters e = true) :
    t.piu = (withRecord i (feedbackTaken s.now (engineOf s i).idle fb s.piu.engines[i]) s).piu := by
  obtain ⟨hfau, -, -, hpiu⟩ := recordActed_units i fb s
  rw [h.piu, ← hpiu]
  by_cases hi : i.val < 4
  · have handed : rateHanded i fb s = engineFuel ⟨i.val, hi⟩ fb.rate (recordActed i fb s) := dif_pos hi
    rw [handed]
    exact engineFuel_piu (by rw [hfau]; exact hq ⟨i.val, hi⟩ rfl)
  · rw [show rateHanded i fb s = recordActed i fb s from dif_neg hi]

theorem FrameTaken.fau_x (h : FrameTaken i fb s t) (hi : 4 ≤ i.val) : t.fau = s.fau := by
  rw [h.fau, show rateHanded i fb s = recordActed i fb s from handFuelRate_x hi _ _]
  exact (recordActed_units i fb s).1

/-- The accounts after the frame are those that the fuel rate gives from the accounts before. -/
theorem FrameTaken.fau_engine (h : FrameTaken i fb s t) {e : Fin 4} (he : e.val = i.val) :
    ∃ u : State, u.fau = s.fau ∧ u.now = s.now ∧ t.fau = (engineFuel e fb.rate u).fau := by
  obtain rfl : engineIx e = i := Fin.ext he
  obtain ⟨hfau, hnow, -, -⟩ := recordActed_units (engineIx e) fb s
  refine ⟨recordActed (engineIx e) fb s, hfau, hnow, ?_⟩
  rw [h.fau, show rateHanded (engineIx e) fb s = engineFuel e fb.rate (recordActed (engineIx e) fb s) from handFuelRate_engine ..]

end Fuel

/-- Settles O29. -/
theorem engineFeedbackTaken : Obligations.EngineFeedbackTaken := by
  unfold Obligations.EngineFeedbackTaken
  intro s n rpm g rate x hr takes
  have hexec : exec (.engineFb n rpm g rate x) s = .next (engineFbFrame n rpm.toNat g rate.toNat x s) :=
    congrArg Host.Outcome.next (whenRunning_run hr _)
  refine ⟨fun hg => ?_, fun hg hn => ?_, fun i gear hi hfirst hgear hc => ?_⟩
  · rw [hexec, engineFbFrame, gearOf_none hg]; rfl
  · obtain ⟨gear, hgear⟩ := gearOf_some hg
    rw [hexec, engineFbFrame, hgear]
    dsimp only
    rw [engineFrame, engineByFeedback_none hn]
    rfl
  intro r fb leaves run1
  have htaken : exec (.engineFb n rpm g rate x) s = .next (takeEngineFb i fb s) := by
    rw [hexec, engineFbFrame, hgear]
    dsimp only
    rw [engineFrame, engineByFeedback_first hi hfirst]
    rfl
  have frame := takeEngineFb_taken (fb := fb) hc
  revert htaken frame
  generalize takeEngineFb i fb s = t
  intro htaken frame
  have hleaves : leavesAt fb r = true ↔ leaves := leavesAt_iff fb r
  have hstays : ¬leaves → leavesAt fb r = false := fun h => by
    rw [Bool.eq_false_iff, ne_eq, hleaves]; exact h
  have hneutral : (fb.gear == .neutral) = true ↔ gear = .neutral := beq_iff_eq
  refine ⟨t, htaken, frame.told, ⟨?_, fun hl => ?_, fun hl => ?_⟩, ?_, fun j hj => ?_, frame.fau_x, fun e he => ?_⟩
  · rw [frame.record.rest]
    exact feedbackTaken_feedback ..
  · obtain ⟨havail, hret, hfilled, htimer⟩ := frame.leftRow (hleaves.2 hl)
    exact ⟨havail, hret, hfilled, htimer, frame.left (hleaves.2 hl) _ (.inl rfl), frame.left (hleaves.2 hl) _ (.inr (.inl rfl)),
      frame.left (hleaves.2 hl) _ (.inr (.inr rfl))⟩
  · have hl := hstays hl
    obtain ⟨havail, hrun, hret, htimer⟩ := frame.stayRow hl
    refine ⟨htimer, hret, frame.warning hl, fun hs => ?_, fun hs ha => ?_, frame.lostCleared hl,
      fun hs ha => frame.faultCleared hl ha hs, fun hs ha hg => ?_, fun hs ha hg => ⟨fun h3 => ?_, fun h2 => ?_⟩,
      fun hs ha => ?_, fun hs ha => frame.stoppedSlot hl ha hs, frame.keptSlot hl⟩
    · obtain ⟨hf, hz⟩ := availAfter_shutdown hc s.piu.engines[i].run (fb.gear == .neutral)
      rw [havail, hrun, hs]
      exact ⟨hf, hz, fun hf => frame.faultRaised hl hc hf hs⟩
    · have hrun1 : (if (fb.gear == .neutral) = true then 1 else 0) = run1 := if_congr hneutral rfl rfl
      rw [havail, hrun, hs]
      rcases ha with ha | ha
      · rw [ha]; exact ⟨rfl, hrun1⟩
      · rw [ha]; exact ⟨rfl, hrun1⟩
    · rw [havail, hrun, hs, ha, Bool.eq_false_iff.2 (mt hneutral.1 hg)]
      exact ⟨rfl, rfl⟩
    · rw [havail, hrun, hs, ha, hneutral.2 hg]
      unfold availAfter
      rw [if_neg Bool.false_ne_true, if_pos rfl, if_pos h3]
      exact ⟨rfl, rfl⟩
    · have h3 : ¬s.piu.engines[i].run + 1 < 3 := Nat.not_lt.2 (Nat.succ_le_succ h2)
      rw [havail, hrun, hs, ha, hneutral.2 hg]
      unfold availAfter
      rw [if_neg Bool.false_ne_true, if_pos rfl, if_neg h3]
      exact ⟨rfl, rfl⟩
    · rw [havail, hs, ha]; rfl
  · refine ⟨feedbackTaken s.now (engineOf s i).idle fb r, feedbackTaken_cap .., ?_, frame.record.rest, fun hl hs => ?_,
      fun e => frame.follows, frame.unbooked⟩
    · rw [frame.record.rest]
    · obtain ⟨-, -, hrpm, hfresh⟩ := feedbackTaken_slot (now := s.now) (idle := (engineOf s i).idle) (hstays hl) hs
      exact ⟨hrpm, hfresh⟩
  · rw [(frame.others j hj).rest]
    exact ⟨rfl, rfl, rfl, rfl⟩
  · intro a b num
    obtain ⟨u, hfau, hnow, hf⟩ := frame.fau_engine he
    have hnum : rateSum u.fau.accounts[e] fb.rate u.now = num := by
      rw [hfau, hnow]
      exact rateSum_eq ..
    have hb : b = (engineFuel e fb.rate u).fau.accounts[e] := congrArg (fun w : Fau => w.accounts[e]) hf
    refine ⟨?_, fun ht => ?_, fun ht => ⟨?_, fun hm => ?_, fun hm => ?_⟩⟩
    · rw [hb, engineFuel_lastFeedback, hnow]
    · rw [hf, engineFuel_unloaded (by rw [hfau]; exact ht), ← hnow, ← hfau]
      rfl
    · rw [hb, engineFuel_residue (by rw [hfau]; exact ht), hnum]
    · have := engineFuel_estimated (e := e) (rate := fb.rate) (s := u) (by rw [hfau]; exact ht) (by rw [hfau]; exact hm)
      rw [hnum] at this
      rw [hb]
      simp only [hfau] at this
      exact this
    · have := engineFuel_taken (e := e) (rate := fb.rate) (s := u) (by rw [hfau]; exact ht) (by rw [hfau]; exact hm)
      rw [hnum] at this
      simp only [← hf, hfau] at this
      exact this

end Sys2Proof.Machine

/-! # METER: the volume of an accepted delta and what it books (R97 to R106, R115) -/

namespace Sys2Proof.Machine

/-! ## The modes of the engines (R101) -/

/-- What the mode of an engine reads of a meter. -/
def modeKey (m : Meter) : Bool × MeterRole × MeterState := (m.unused, m.entry.role, m.state)

theorem meterOfDuty_state (l : List Meter) (r : MeterRole) : (meterOfDuty l r).map (·.state) =
    ((l.map modeKey).find? fun k => !k.1 && k.2.1 == r).map (·.2.2) := by
  rw [List.find?_map, Option.map_map]
  rfl

theorem isMetered_eq (l : List Meter) (e : Fin 4) : isMetered l e =
    (((meterOfDuty l (.supply e)).map (·.state)).elim false (· == .running) &&
      ((meterOfDuty l (.ret e)).map (·.state)).elim true (· == .running)) := by
  unfold isMetered
  cases meterOfDuty l (.supply e) with
  | none => rfl
  | some m => cases meterOfDuty l (.ret e) <;> rfl

theorem isMetered_congr {l k : List Meter} (h : l.map modeKey = k.map modeKey) (e : Fin 4) : isMetered l e = isMetered k e := by
  simp only [isMetered_eq, meterOfDuty_state, h]

/-- A record replaced by one of the same mode leaves every engine in its mode. -/
theorem isMetered_set {l : List Meter} {i : Nat} {m r : Meter} (h : l[i]? = some m) (hr : modeKey r = modeKey m) (e : Fin 4) :
    isMetered (l.set i r) e = isMetered l e := by
  refine isMetered_congr ?_ e
  rw [List.map_set, hr]
  refine List.ext_getElem? fun j => ?_
  by_cases hj : i = j
  · subst hj
    rw [List.getElem?_set_self (by rw [List.length_map]; exact (List.getElem?_eq_some_iff.1 h).1), List.getElem?_map, h]
    rfl
  · rw [List.getElem?_set_ne hj]

/-- With the modes as they were nothing is settled. -/
theorem settleModes_same {old : List Meter} {s : State} (h : ∀ e, isMetered s.fau.meters e = isMetered old e) :
    settleModes old s = s := by
  have accounts : (Vector.ofFn fun e : Fin 4 => if isMetered old e && !isMetered s.fau.meters e
      then { s.fau.accounts[e] with pendingSupply := 0, pendingReturn := 0, void := true } else s.fau.accounts[e]) =
      s.fau.accounts := row_ext fun e => by
    refine (Vector.getElem_ofFn ..).trans (if_neg ?_)
    rw [h, Bool.and_not_self]
    exact Bool.false_ne_true
  show s.onFau (fun u => { u with accounts := Vector.ofFn fun e : Fin 4 => if isMetered old e && !isMetered s.fau.meters e
    then { u.accounts[e] with pendingSupply := 0, pendingReturn := 0, void := true } else u.accounts[e] }) = s
  exact congrArg (fun v => s.onFau fun u => { u with accounts := v }) accounts

/-! ## The record of the meter -/

section Record
variable {s : State} {i : Nat} {m : Meter}

theorem onMeter_eq_set (h : s.fau.meters[i]? = some m) (f : Meter → Meter) :
    onMeter i f s = s.onFau fun u => { u with meters := s.fau.meters.set i (f m) } := by
  have : s.fau.meters.modify i f = s.fau.meters.set i (f m) := by
    rw [List.modify_eq_set_getElem?, h]; rfl
  exact congrArg (fun l => s.onFau fun u => { u with meters := l }) this

theorem onMeter_onMeter (i : Nat) (f g : Meter → Meter) (s : State) : onMeter i g (onMeter i f s) = onMeter i (g ∘ f) s :=
  congrArg (fun l => s.onFau fun u => { u with meters := l }) (List.modify_modify_eq ..)

/-- The record whose node reports is the first of that node. -/
theorem meterOfNode_first {n : Node} (h : s.fau.meters[i]? = some m) (hm : m.unused = false ∧ m.entry.node = n.toNat)
    (hf : ∀ (j : Nat) (z : Meter), j < i → s.fau.meters[j]? = some z → ¬(z.unused = false ∧ z.entry.node = n.toNat)) :
    meterOfNode s n = some i := by
  obtain ⟨hi, he⟩ := List.getElem?_eq_some_iff.1 h
  have mine : ∀ z : Meter, (!z.unused && z.entry.node == n.toNat) = true ↔
      z.unused = false ∧ z.entry.node = n.toNat := fun z => by
    rw [Bool.and_eq_true, Bool.not_eq_true', beq_iff_eq]
  refine List.findIdx?_eq_some_iff_getElem.2 ⟨hi, ?_, fun j hj => ?_⟩
  · rw [mine, he]; exact hm
  · rw [mine]
    exact hf j _ hj (List.getElem?_eq_getElem _)

/-- A record with a report taken (R97). -/
def reported (totalizer now : Nat) (m : Meter) : Meter :=
  { m with baseline := some totalizer, lastReport := some now, silence := some (now + 5000 * Config.usPerMs) }

/-- The temperature clamps counted after a report (R100). -/
def clampsAfter (t : Int) (count : Nat) : Nat := if t < -200 ∨ 900 < t then min 65535 (count + 1) else count

/-- The state in which the volume of a report is placed. -/
def reportTaken (i : Nat) (totalizer : Nat) (t : Int) (m : Meter) (s : State) : State :=
  s.onFau fun u => { u with
    meters := s.fau.meters.set i (reported totalizer s.now m), temperatureClamp := clampsAfter t s.fau.temperatureClamp }

/-- The volume of a delta, corrected to 15 degrees (R100). -/
def volumeOf (delta : Nat) (t : Int) : Int := delta * (1000000 - 84 * (max (-200) (min t 900) - 150))

theorem jumpLimit_eq (s : State) :
    jumpLimit s = match s.fau.table with | none => 20000 | some t => max 1 (min t.jMax 1000000) := by
  unfold jumpLimit
  cases s.fau.table <;> rfl

theorem reportTaken_meter (h : s.fau.meters[i]? = some m) (totalizer : Nat) (t : Int) :
    (reportTaken i totalizer t m s).fau.meters[i]? = some (reported totalizer s.now m) :=
  List.getElem?_set_self (List.getElem?_eq_some_iff.1 h).1

/-- An accepted delta of a RUNNING meter is a volume placed by the meter's role. -/
theorem matchedReport_accepted {totalizer b : Nat} {t : Int} {x : Byte} (h : s.fau.meters[i]? = some m)
    (hx : x.getLsbD 0 = false) (hy : x.getLsbD 1 = false) (hs : m.state = .running) (hb : m.baseline = some b)
    (hd : (totalizer + 4294967296 - b) % 4294967296 ≤ jumpLimit s) : matchedReport i m totalizer t x s =
      placeVolume i m (volumeOf ((totalizer + 4294967296 - b) % 4294967296) t) (reportTaken i totalizer t m s) := by
  have clean : matchedReport i m totalizer t x s = cleanReport i m totalizer t (onMeter i (fun m =>
      { m with lastReport := some s.now, silence := timerFor s Config.silenceTime }) s) := by
    unfold matchedReport flag
    dsimp only
    rw [hx, hy, hs]
    rfl
  have based : onMeter i ({ · with baseline := some totalizer }) (onMeter i (fun m =>
      { m with lastReport := some s.now, silence := timerFor s Config.silenceTime }) s) =
      s.onFau fun u => { u with meters := s.fau.meters.set i (reported totalizer s.now m) } := by
    rw [onMeter_onMeter, onMeter_eq_set h]
    rfl
  have accepted : cleanReport i m totalizer t (onMeter i (fun m =>
      { m with lastReport := some s.now, silence := timerFor s Config.silenceTime }) s) =
      acceptVolume i m ((totalizer + 4294967296 - b) % 4294967296) t
        (s.onFau fun u => { u with meters := s.fau.meters.set i (reported totalizer s.now m) }) := by
    unfold cleanReport deltaOf
    rw [hb, ← based]
    dsimp only
    rw [hs]
    exact if_neg (Nat.not_lt.2 hd)
  have clamped : clampInt t (-200) 900 = t ↔ ¬(t < -200 ∨ 900 < t) := by unfold clampInt; omega
  rw [clean, accepted]
  unfold acceptVolume reportTaken clampsAfter
  dsimp only
  by_cases hc : t < -200 ∨ 900 < t
  · rw [if_neg fun e => clamped.1 e hc, if_pos hc]
    rfl
  · rw [if_pos (clamped.2 hc), if_neg hc]
    rfl

end Record

end Sys2Proof.Machine

/-! # The volume of a METER placed by the meter's role (R102 to R104, R106) -/

namespace Sys2Proof.Machine

/-! ## A SUPPLY report (R103) -/

/-- An account with a SUPPLY volume gathered. -/
def supplied (v : Int) (a : Account) : Account := { a with pendingSupply := a.pendingSupply + v }

/-- An account with a RETURN volume gathered. -/
def returned (v : Int) (a : Account) : Account := { a with pendingReturn := a.pendingReturn + v }

/-- The net volume of a SUPPLY report. -/
def netOf (v : Int) (a : Account) : Int := a.pendingSupply + v - a.pendingReturn + a.carry

/-- An account with both pendings worked off and a carry kept. -/
def netTaken (carry : Int) (a : Account) : Account := { a with pendingSupply := 0, pendingReturn := 0, carry := carry }

/-- The least carry (R103). -/
def leastCarry (s : State) : Int := -((jumpLimit s : Int) * 1000000)

section Supply
variable {e : Fin 4} {v : Int} {u : State}

theorem onAccount_accounts (f : Account → Account) : (onAccount e f u).fau.accounts[e] = f u.fau.accounts[e] :=
  updAt_getFin_same ..

/-- The account that `bookNet` writes, after a SUPPLY volume was gathered. -/
theorem netTaken_supplied (c : Int) : onAccount e (netTaken c) (onAccount e (supplied v) u) = onAccount e (netTaken c) u := by
  rw [onAccount_onAccount]
  exact onAccount_congr rfl

/-- A net volume that is not negative is booked. -/
theorem bookNet_forward (h : 0 ≤ netOf v u.fau.accounts[e]) : bookNet e (onAccount e (supplied v) u) =
    applyBooking e (netOf v u.fau.accounts[e] / 1000000) (onAccount e (netTaken (netOf v u.fau.accounts[e] % 1000000)) u) := by
  unfold bookNet
  dsimp only
  rw [onAccount_accounts]
  exact (if_pos h).trans (congrArg (applyBooking e _) (netTaken_supplied _))

/-- A negative net volume is carried, up to a bound. -/
theorem bookNet_back (h : netOf v u.fau.accounts[e] < 0) : bookNet e (onAccount e (supplied v) u) =
    (onAccount e (netTaken (max (netOf v u.fau.accounts[e]) (leastCarry u))) u).onFau fun w => { w with
      carryBound := if netOf v u.fau.accounts[e] < leastCarry u then satInc u.fau.carryBound else u.fau.carryBound } := by
  have carried : onAccount e (netTaken (max (netOf v u.fau.accounts[e]) (leastCarry u))) (onAccount e (supplied v) u) =
      onAccount e (netTaken (max (netOf v u.fau.accounts[e]) (leastCarry u))) u := netTaken_supplied _
  unfold bookNet
  dsimp only
  rw [onAccount_accounts]
  refine (if_neg (Int.not_le.2 h)).trans ?_
  by_cases hb : netOf v u.fau.accounts[e] < leastCarry u
  · refine (if_pos hb).trans ?_
    rw [if_pos hb, ← carried]
    rfl
  · refine (if_neg hb).trans ?_
    rw [if_neg hb, ← carried]
    rfl

end Supply

/-! ## A TRANSFER (R106) -/

/-- A whole volume moved from one tank to another, both evaluated. -/
def transferred (a d : Fin 8) (q : Int) (s : State) : State :=
  updateCaps (evalTank d (evalTank a (moveBalance d q (moveBalance a (-q) s))))

section Transfer
variable (a d : Fin 8) (q : Int) (s : State)

theorem transferred_moved : CapsMoved s (transferred a d q s) :=
  capsMoved_updateCaps
    ((((moveBalance_fuelTold ..).trans (moveBalance_fuelTold ..)).trans (evalTank_fuelTold ..)).trans (evalTank_fuelTold ..))
    (by rw [evalTank_piu, evalTank_piu, moveBalance_piu, moveBalance_piu])

theorem transferred_fau : (transferred a d q s).fau =
    { s.fau with tanks := (transferred a d q s).fau.tanks, sat := (transferred a d q s).fau.sat } := by
  unfold transferred
  rw [updateCaps_fau, evalTank_fau, evalTank_fau, moveBalance_fau, moveBalance_fau]

theorem transferred_tanks_of_ne {k : Fin 8} (ha : k ≠ a) (hd : k ≠ d) :
    (transferred a d q s).fau.tanks[k] = s.fau.tanks[k] := by
  unfold transferred
  rw [updateCaps_fau, evalTank_fau, updAt_getFin_other _ hd.symm, evalTank_fau, updAt_getFin_other _ ha.symm, moveBalance_fau,
    updAt_getFin_other _ hd.symm, moveBalance_fau, updAt_getFin_other _ ha.symm]

theorem evalTank_balance (i k : Fin 8) : (evalTank i s).fau.tanks[k].balance = s.fau.tanks[k].balance := by
  rw [evalTank_fau, updAt_getFin]
  split
  · exact tankEvaluated_balance ..
  · rfl

theorem moveBalance_balance (i : Fin 8) : (moveBalance i q s).fau.tanks[i].balance = limitAccount (s.fau.tanks[i].balance + q) := by
  rw [moveBalance_fau, updAt_getFin_same]; rfl

theorem moveBalance_balance_of_ne {i k : Fin 8} (h : k ≠ i) :
    (moveBalance i q s).fau.tanks[k].balance = s.fau.tanks[k].balance := by
  rw [moveBalance_fau, updAt_getFin_other _ h.symm]

theorem transferred_balances (h : a ≠ d) :
    (transferred a d q s).fau.tanks[a].balance = limitAccount (s.fau.tanks[a].balance - q) ∧
    (transferred a d q s).fau.tanks[d].balance = limitAccount (s.fau.tanks[d].balance + q) := by
  unfold transferred
  rw [updateCaps_fau, evalTank_balance, evalTank_balance, evalTank_balance, evalTank_balance]
  rw [moveBalance_balance_of_ne _ _ h, moveBalance_balance, moveBalance_balance, moveBalance_balance_of_ne _ _ h.symm]
  exact ⟨rfl, rfl⟩

end Transfer

/-! ## The volume placed -/

/-- The meter of an engine. -/
def IsMeterOf (e : Fin 4) (m : Meter) : Prop := m.entry.role = .supply e ∨ m.entry.role = .ret e

section Placed
variable {i : Nat} {m : Meter} {v : Int} {u : State} {e : Fin 4}

theorem placeVolume_estimate (h : IsMeterOf e m) (hm : isMetered u.fau.meters e = false) : placeVolume i m v u = u := by
  unfold placeVolume
  rcases h with h | h
  · rw [h]
    exact if_neg (by rw [hm]; exact Bool.false_ne_true)
  · rw [h]
    exact if_neg (by rw [hm]; exact Bool.false_ne_true)

theorem placeVolume_ret (h : m.entry.role = .ret e) (hm : isMetered u.fau.meters e = true) :
    placeVolume i m v u = onAccount e (returned v) u := by
  unfold placeVolume
  rw [h]
  exact if_pos hm

theorem placeVolume_supply (h : m.entry.role = .supply e) (hm : isMetered u.fau.meters e = true) :
    placeVolume i m v u = bookNet e (onAccount e (supplied v) u) := by
  unfold placeVolume
  rw [h]
  exact if_pos hm

theorem placeVolume_transfer {a d : Fin 8} (h : m.entry.role = .transfer a d) : placeVolume i m v u =
    if a = d then onMeter i ({ · with carry := ((v + m.carry) % 1000000).toNat }) u
    else transferred a d ((v + m.carry) / 1000000) (onMeter i ({ · with carry := ((v + m.carry) % 1000000).toNat }) u) := by
  unfold placeVolume
  rw [h]
  rfl

/-- What every placed volume keeps, whatever the role of its meter. -/
structure Placed (i : Nat) (u t : State) : Prop where
  told : FuelTold u t
  clamp : t.fau.temperatureClamp = u.fau.temperatureClamp
  voyage : t.fau.voyage = u.fau.voyage
  jump : t.fau.jump = u.fau.jump
  meters : t.fau.meters = u.fau.meters ∨ ∃ c, t.fau.meters = u.fau.meters.modify i ({ · with carry := c })

theorem bookNet_placed : Placed i u (bookNet e (onAccount e (supplied v) u)) := by
  by_cases h : 0 ≤ netOf v u.fau.accounts[e]
  · rw [bookNet_forward h]
    have hfau := applyBooking_fau e (netOf v u.fau.accounts[e] / 1000000)
      (onAccount e (netTaken (netOf v u.fau.accounts[e] % 1000000)) u)
    have hmoved := (applyBooking_moved e (netOf v u.fau.accounts[e] / 1000000)
      (onAccount e (netTaken (netOf v u.fau.accounts[e] % 1000000)) u)).of_quiet (FuelTold.onFau u _) rfl
    revert hfau hmoved
    generalize applyBooking e _ _ = t
    intro hfau hmoved
    exact ⟨hmoved.told, by rw [hfau]; rfl, by rw [hfau]; rfl, by rw [hfau]; rfl, .inl (by rw [hfau]; rfl)⟩
  · rw [bookNet_back (Int.not_le.1 h)]
    exact ⟨Told.refl _, rfl, rfl, rfl, .inl rfl⟩

theorem placeVolume_placed (i : Nat) (m : Meter) (v : Int) (u : State) : Placed i u (placeVolume i m v u) := by
  have same : Placed i u u := ⟨(Told.refl u).fuelTold, rfl, rfl, rfl, .inl rfl⟩
  cases h : m.entry.role with
  | supply e =>
    cases hm : isMetered u.fau.meters e with
    | true => rw [placeVolume_supply h hm]; exact bookNet_placed
    | false => rw [placeVolume_estimate (.inl h) hm]; exact same
  | ret e =>
    cases hm : isMetered u.fau.meters e with
    | true => rw [placeVolume_ret h hm]; exact ⟨Told.refl _, rfl, rfl, rfl, .inl rfl⟩
    | false => rw [placeVolume_estimate (.inr h) hm]; exact same
  | transfer a d =>
    rw [placeVolume_transfer h]
    split
    · exact ⟨Told.refl _, rfl, rfl, rfl, .inr ⟨_, rfl⟩⟩
    · have hfau := transferred_fau a d ((v + m.carry) / 1000000)
        (onMeter i ({ · with carry := ((v + m.carry) % 1000000).toNat }) u)
      have hmoved := (transferred_moved a d ((v + m.carry) / 1000000)
        (onMeter i ({ · with carry := ((v + m.carry) % 1000000).toNat }) u)).of_quiet (FuelTold.onFau u _) rfl
      exact ⟨hmoved.told, by rw [hfau]; rfl, by rw [hfau]; rfl, by rw [hfau]; rfl, .inr ⟨_, by rw [hfau]; rfl⟩⟩

end Placed

/-! ## A report whose delta is accepted -/

section Accepted
variable {s : State} {i : Nat} {m : Meter}

theorem isMetered_reportTaken (h : s.fau.meters[i]? = some m) (totalizer : Nat) (t : Int) (e : Fin 4) :
    isMetered (reportTaken i totalizer t m s).fau.meters e = isMetered s.fau.meters e :=
  isMetered_set (r := reported totalizer s.now m) h rfl e

/-- No report that is accepted changes the mode of an engine. -/
theorem isMetered_placeVolume (h : s.fau.meters[i]? = some m) (totalizer : Nat) (t v : Int) (e : Fin 4) :
    isMetered (placeVolume i m v (reportTaken i totalizer t m s)).fau.meters e = isMetered s.fau.meters e := by
  rw [← isMetered_reportTaken h totalizer t e]
  rcases (placeVolume_placed i m v (reportTaken i totalizer t m s)).meters with hk | ⟨c, hk⟩
  · rw [hk]
  · have hr := reportTaken_meter h totalizer t
    rw [hk, List.modify_eq_set_getElem?, hr]
    exact isMetered_set (r := { reported totalizer s.now m with carry := c }) hr rfl e

theorem meterFrame_accepted {n : Node} {totalizer b : Nat} {t : Int} {x : Byte} (h : s.fau.meters[i]? = some m)
    (hm : m.unused = false ∧ m.entry.node = n.toNat)
    (hf : ∀ (j : Nat) (z : Meter), j < i → s.fau.meters[j]? = some z → ¬(z.unused = false ∧ z.entry.node = n.toNat))
    (hx : x.getLsbD 0 = false) (hy : x.getLsbD 1 = false) (hs : m.state = .running) (hb : m.baseline = some b)
    (hd : (totalizer + 4294967296 - b) % 4294967296 ≤ jumpLimit s) : meterFrame n totalizer t x s =
      placeVolume i m (volumeOf ((totalizer + 4294967296 - b) % 4294967296) t) (reportTaken i totalizer t m s) := by
  unfold meterFrame withModes
  rw [meterOfNode_first h hm hf]
  dsimp only
  rw [h]
  dsimp only
  rw [matchedReport_accepted h hx hy hs hb hd]
  exact settleModes_same fun e => isMetered_placeVolume h ..

/-- The record of a transfer meter after its report. -/
theorem transfer_meters (h : s.fau.meters[i]? = some m) (totalizer c : Nat) (t : Int) :
    (onMeter i ({ · with carry := c }) (reportTaken i totalizer t m s)).fau.meters =
      s.fau.meters.set i { reported totalizer s.now m with carry := c } := by
  rw [onMeter_eq_set (reportTaken_meter h totalizer t)]
  exact List.set_set ..

end Accepted

end Sys2Proof.Machine

/-! # MeterVolumes (O44) -/

namespace Sys2Proof.Machine

section Metered
variable {i : Nat} {m : Meter} {v : Int} {u t : State} {e : Fin 4}

/-- The meters, and the accounts of the other engines, at a report of an engine's meter. -/
theorem placeVolume_engineMeter (h : IsMeterOf e m) (ht : t = placeVolume i m v u) :
    t.fau.meters = u.fau.meters ∧ ∀ f : Fin 4, f ≠ e → t.fau.accounts[f] = u.fau.accounts[f] := by
  cases hm : isMetered u.fau.meters e with
  | false =>
    rw [ht, placeVolume_estimate h hm]
    exact ⟨rfl, fun _ _ => rfl⟩
  | true =>
    rcases h with h | h
    · rw [placeVolume_supply h hm] at ht
      by_cases hn : 0 ≤ netOf v u.fau.accounts[e]
      · have hfau := applyBooking_fau e (netOf v u.fau.accounts[e] / 1000000)
          (onAccount e (netTaken (netOf v u.fau.accounts[e] % 1000000)) u)
        rw [← bookNet_forward hn, ← ht] at hfau
        rw [hfau]
        exact ⟨rfl, fun f hf => (updAt_getFin_other _ hf.symm _).trans (updAt_getFin_other _ hf.symm _)⟩
      · rw [bookNet_back (Int.not_le.1 hn)] at ht
        rw [ht]
        exact ⟨rfl, fun f hf => updAt_getFin_other _ hf.symm _⟩
    · rw [ht, placeVolume_ret h hm]
      exact ⟨rfl, fun f hf => updAt_getFin_other _ hf.symm _⟩

/-- A net volume that is not negative, booked (R103, R104). -/
theorem placeVolume_forward {net : Int} {l : Fin 8} (h : m.entry.role = .supply e) (hm : isMetered u.fau.meters e = true)
    (hnet : netOf v u.fau.accounts[e] = net) (hn : 0 ≤ net) (hl : u.fau.lineup[e] = l) (ht : t = placeVolume i m v u) :
    CapsMoved u t ∧
    t.fau.accounts[e] = { netTaken (net % 1000000) u.fau.accounts[e] with
      total := limitAccount (u.fau.accounts[e].total + net / 1000000)
      metered := u.fau.accounts[e].metered + net / 1000000 } ∧
    t.fau.tanks[l].balance = limitAccount (u.fau.tanks[l].balance - net / 1000000) ∧
    (∀ k : Fin 8, k ≠ l → t.fau.tanks[k] = u.fau.tanks[k]) ∧
    (beyond (u.fau.accounts[e].total + net / 1000000) = true → t.fau.sat = true) := by
  rw [placeVolume_supply h hm, bookNet_forward (by rw [hnet]; exact hn), hnet] at ht
  revert ht
  generalize net / 1000000 = q
  generalize net % 1000000 = c
  intro ht
  have hfau := applyBooking_fau e q (onAccount e (netTaken c) u)
  have hmoved := (applyBooking_moved e q (onAccount e (netTaken c) u)).of_quiet (FuelTold.onFau u _) rfl
  rw [← ht] at hfau hmoved
  have hkept : (onAccount e (netTaken c) u).fau.accounts[e] = netTaken c u.fau.accounts[e] := onAccount_accounts _
  subst hl
  refine ⟨hmoved, ?_, ?_, fun k hk => ?_, fun hb => ?_⟩
  · rw [hfau]
    refine (updAt_getFin_same ..).trans ?_
    rw [hkept]
    show accountBooked (isMetered u.fau.meters e) _ _ = _
    rw [hm]
    rfl
  · rw [hfau]
    exact (congrArg Tank.balance (updAt_getFin_same ..)).trans (tankEvaluated_balance ..)
  · rw [hfau]
    exact updAt_getFin_other _ hk.symm _
  · have hb' : beyond ((onAccount e (netTaken c) u).fau.accounts[e].total + q) = true := by rw [hkept]; exact hb
    rw [hfau]
    unfold fauBooked
    rw [hb', Bool.or_true, Bool.true_or]

theorem carried_account (c : Int) (k : Nat)
    (ht : t = (onAccount e (netTaken c) u).onFau fun w => { w with carryBound := k }) :
    t.fau.accounts[e] = netTaken c u.fau.accounts[e] ∧ t.fau.tanks = u.fau.tanks ∧ t.piu = u.piu ∧ t.fau.carryBound = k := by
  subst ht
  exact ⟨onAccount_accounts _, rfl, rfl, rfl⟩

theorem placeVolume_carried {net : Int} (h : m.entry.role = .supply e) (hm : isMetered u.fau.meters e = true)
    (hnet : netOf v u.fau.accounts[e] = net) (hn : net < 0) : placeVolume i m v u =
      (onAccount e (netTaken (max net (leastCarry u))) u).onFau fun w => { w with
        carryBound := if net < leastCarry u then satInc u.fau.carryBound else u.fau.carryBound } := by
  subst hnet
  rw [placeVolume_supply h hm, bookNet_back hn]

/-- A negative net volume, carried (R103). -/
theorem placeVolume_back {net : Int} (h : m.entry.role = .supply e) (hm : isMetered u.fau.meters e = true)
    (hnet : netOf v u.fau.accounts[e] = net) (hn : net < 0) (ht : t = placeVolume i m v u) :
    t.fau.accounts[e] = netTaken (max net (leastCarry u)) u.fau.accounts[e] ∧
    t.fau.tanks = u.fau.tanks ∧ t.piu = u.piu ∧
    t.fau.carryBound = if net < leastCarry u then satInc u.fau.carryBound else u.fau.carryBound := by
  rw [placeVolume_carried h hm hnet hn] at ht
  exact carried_account _ _ ht

/-- A whole volume moved between two tanks (R106). -/
theorem placeVolume_transferred {a d : Fin 8} {q : Int} {c : Nat} (h : m.entry.role = .transfer a d) (had : a ≠ d)
    (hq : (v + m.carry) / 1000000 = q) (hc : ((v + m.carry) % 1000000).toNat = c) (ht : t = placeVolume i m v u) :
    CapsMoved u t ∧ t.fau.meters = (onMeter i ({ · with carry := c }) u).fau.meters ∧ t.fau.accounts = u.fau.accounts ∧
    t.fau.tanks[a].balance = limitAccount (u.fau.tanks[a].balance - q) ∧
    t.fau.tanks[d].balance = limitAccount (u.fau.tanks[d].balance + q) ∧
    ∀ k : Fin 8, k ≠ a → k ≠ d → t.fau.tanks[k] = u.fau.tanks[k] := by
  rw [placeVolume_transfer h, if_neg had, hq, hc] at ht
  obtain ⟨w, hw⟩ : ∃ w, w = onMeter i ({ · with carry := c }) u := ⟨_, rfl⟩
  have htanks : w.fau.tanks = u.fau.tanks := by rw [hw]; rfl
  have haccounts : w.fau.accounts = u.fau.accounts := by rw [hw]; rfl
  have hquiet : FuelTold u w := by rw [hw]; exact FuelTold.onFau ..
  rw [← hw] at ht ⊢
  have hrest := transferred_fau a d q w
  have hbal := transferred_balances a d q w had
  rw [← ht] at hrest hbal
  rw [htanks] at hbal
  refine ⟨?_, by rw [hrest], by rw [hrest]; exact haccounts, hbal.1, hbal.2, fun k ha hd => ?_⟩
  · rw [ht]
    exact (transferred_moved a d q w).of_quiet hquiet (by rw [hw]; rfl)
  · rw [ht, transferred_tanks_of_ne _ _ _ _ ha hd, htanks]

end Metered

/-- Settles O44: an accepted report is a record written (`reportTaken`) and a volume placed (`placeVolume`), in each role in turn. -/
theorem meterVolumes : Obligations.MeterVolumes := by
  unfold Obligations.MeterVolumes
  intro s n tot temp x i m b hr mine most delta hi hmine hfirst hx hy hs hb hd scaled within r
  have hmost : jumpLimit s = most := jumpLimit_eq s
  obtain ⟨u, hu⟩ : ∃ u, u = reportTaken i tot.toNat temp.toInt m s := ⟨_, rfl⟩
  obtain ⟨t, ht⟩ : ∃ t, t = placeVolume i m scaled u := ⟨_, rfl⟩
  have hexec : exec (.meter n tot temp x) s = .next t := by
    refine (congrArg Host.Outcome.next (whenRunning_run hr _)).trans (congrArg Host.Outcome.next ?_)
    rw [ht, hu]
    exact meterFrame_accepted hi hmine hfirst hx hy hs hb (hd.trans_eq hmost.symm)
  have placed : Placed i u t := ht ▸ placeVolume_placed i m scaled u
  have told : FuelTold s u := hu ▸ FuelTold.onFau s _
  have hpiu : u.piu = s.piu := by rw [hu]; rfl
  have hfau : u.fau = { s.fau with
      meters := s.fau.meters.set i r, temperatureClamp := clampsAfter temp.toInt s.fau.temperatureClamp } := by rw [hu]; rfl
  have hmode : ∀ e, isMetered u.fau.meters e = isMetered s.fau.meters e := fun e => by rw [hu]; exact isMetered_reportTaken hi ..
  have haccounts : u.fau.accounts = s.fau.accounts := by rw [hfau]
  have htanks : u.fau.tanks = s.fau.tanks := by rw [hfau]
  have hline : u.fau.lineup = s.fau.lineup := by rw [hfau]
  have hleast : leastCarry u = -(most * 1000000 : Int) := by rw [hu, ← hmost]; rfl
  refine ⟨t, hexec, told.trans placed.told, ?_, ?_, ?_, fun e he => ?_, fun e he => ?_, fun e he hm => ?_, fun e he hm => ?_,
    fun e he hm => ?_, fun a d hrole => ?_⟩
  · rw [placed.clamp, hfau]; rfl
  · rw [placed.voyage, hfau]
  · rw [placed.jump, hfau]
  · rcases he with he | ⟨he, hm⟩
    · cases hm : isMetered u.fau.meters e with
      | true => rw [ht, placeVolume_ret he hm]; exact hpiu
      | false => rw [ht, placeVolume_estimate (.inr he) hm]; exact hpiu
    · rw [ht, placeVolume_estimate (.inl he) ((hmode e).trans hm)]; exact hpiu
  · obtain ⟨hmeters, hothers⟩ := placeVolume_engineMeter he ht
    refine ⟨by rw [hmeters, hfau], fun f hf => ?_⟩
    rw [hothers f hf, haccounts]
  · rw [ht, placeVolume_estimate he ((hmode e).trans hm)]
    exact ⟨haccounts, htanks⟩
  · rw [ht, placeVolume_ret he ((hmode e).trans hm)]
    refine ⟨htanks, (onAccount_accounts _).trans ?_⟩
    rw [haccounts]
    rfl
  · intro a net l
    have hnet : netOf scaled u.fau.accounts[e] = net := by rw [haccounts]; rfl
    have hl : u.fau.lineup[e] = l := by rw [hline]
    refine ⟨fun hn => ?_, fun hn => ?_⟩
    · obtain ⟨moved, hacc, hbal, hother, hsat⟩ := placeVolume_forward he ((hmode e).trans hm) hnet hn hl ht
      rw [haccounts] at hacc hsat
      rw [htanks] at hbal hother
      exact ⟨hacc, hbal, hother, (moved.of_quiet told hpiu).follow, fun hw => hsat (decide_eq_true hw)⟩
    · obtain ⟨hacc, hsame, hkept, hbound⟩ := placeVolume_back he ((hmode e).trans hm) hnet hn ht
      rw [hleast] at hacc hbound
      rw [haccounts] at hacc
      refine ⟨hacc, hsame.trans htanks, hkept.trans hpiu, hbound.trans ?_⟩
      rw [hfau]
      rfl
  · intro sum
    have hmeters : (onMeter i ({ · with carry := (sum % 1000000).toNat }) u).fau.meters =
        s.fau.meters.set i { r with carry := (sum % 1000000).toNat } := by rw [hu]; exact transfer_meters hi ..
    by_cases had : a = d
    · rw [placeVolume_transfer hrole, if_pos had] at ht
      rw [ht]
      exact ⟨hmeters, haccounts, fun _ => ⟨htanks, hpiu⟩, fun h => absurd had h⟩
    · obtain ⟨moved, hkept, hacc, hsource, hdest, hother⟩ := placeVolume_transferred hrole had rfl rfl ht
      rw [htanks] at hsource hdest hother
      exact ⟨hkept.trans hmeters, hacc.trans haccounts, fun h => absurd h had,
        fun _ => ⟨(moved.of_quiet told hpiu).follow, hsource, hdest, hother⟩⟩

end Sys2Proof.Machine

/-! # A checkpoint asked for (R124 to R128) -/

namespace Sys2Proof.Machine

/-! ## What no request changes but the store -/

/-- From `s` to `t` the store has changed; an answer went out only where the request owed one. -/
structure BesideStore (owed : Bool) (s t : State) : Prop where
  fau : t.fau = s.fau
  piu : t.piu = s.piu
  now : t.now = s.now
  told : owed = false → Told { s with nvs := t.nvs } t
  raised : ∀ a j, a ≠ .storeFail → isRaised a j t = isRaised a j s

section BesideStore
variable {owed : Bool} {s t u : State}

theorem BesideStore.trans (h : BesideStore owed s t) (k : BesideStore owed t u) : BesideStore owed s u where
  fau := k.fau.trans h.fau
  piu := k.piu.trans h.piu
  now := k.now.trans h.now
  told ho := (Told.beside (h.told ho) (fun w => { w with nvs := u.nvs })
    (fun _ _ _ => rfl) (fun _ => rfl) (fun _ => rfl)).trans (k.told ho)
  raised a j ha := (k.raised a j ha).trans (h.raised a j ha)

theorem BesideStore.onNvs (s : State) (f : Nvs → Nvs) : BesideStore owed s (s.onNvs f) :=
  ⟨rfl, rfl, rfl, fun _ => Told.refl _, fun _ _ _ => rfl⟩

theorem isRaised_finishLong (a : Answer) (data : List Byte) (b : Alarm) (j : Subject) (s : State) :
    isRaised b j (finishLong a data s) = isRaised b j s := by
  unfold finishLong
  split
  · rfl
  · exact isRaised_respond ..

theorem isRaised_tellClose (owed written : Bool) (b : Alarm) (j : Subject) (s : State) :
    isRaised b j (tellClose owed written s) = isRaised b j s := by
  unfold tellClose
  split
  · exact isRaised_finishLong ..
  · rfl

theorem tellClose_nvs (owed written : Bool) (s : State) : (tellClose owed written s).nvs = s.nvs := by
  unfold tellClose
  split
  · exact finishLong_nvs ..
  · rfl

end BesideStore

/-! ## A checkpoint that starts -/

/-- The checkpoint of a request that starts at once (R127). -/
def checkpointOf (n : Nvs) (p : Snapshot) (owed : Bool) : Checkpoint :=
  { snapshot := p, owed := owed, slot := nextSlot n.newest, seq := n.newest.elim 0 (·.seq) + 1, failures := 0 }

/-- The sequence numbers are used up (R127). -/
def sequencesSpent (n : Nvs) : Prop := n.newest.elim 0 (·.seq) = Config.sequenceMax

/-- A checkpoint that ends unwritten as it starts. -/
def unwritten (owed : Bool) (s : State) : State :=
  tellClose owed false (raiseAlarm .storeFail (.slot (nextSlot s.nvs.newest)) s)

section Start
variable {p : Snapshot} {owed : Bool} {s : State}

theorem startCheckpoint_runs (h : ¬sequencesSpent s.nvs) : startCheckpoint { snapshot := p, owed := owed } s =
    s.onNvs fun n => { n with
      checkpoint := some (checkpointOf s.nvs p owed), current := some { op := .slotErase, deadline := s.now + 60000 } } :=
  if_neg h

theorem startCheckpoint_spent (h : sequencesSpent s.nvs) :
    startCheckpoint { snapshot := p, owed := owed } s = unwritten owed s := if_pos h

theorem unwritten_nvs : (unwritten owed s).nvs = s.nvs := (tellClose_nvs ..).trans (raiseAlarm_nvs ..)

theorem isRaised_unwritten : isRaised .storeFail (.slot (nextSlot s.nvs.newest)) (unwritten owed s) = true :=
  (isRaised_tellClose ..).trans (isRaised_raised ..)

theorem unwritten_beside : BesideStore owed s (unwritten owed s) where
  fau := by unfold unwritten tellClose; split <;> simp
  piu := by unfold unwritten tellClose; split <;> simp
  now := by unfold unwritten tellClose; split <;> simp
  told ho := by
    rw [unwritten_nvs, ho]
    exact raiseAlarm_told ..
  raised a j ha := (isRaised_tellClose ..).trans (isRaised_raiseAlarm_of_ne fun h => ha h.1)

/-- The long request's slot when a checkpoint that owes the close answer ends unwritten. -/
theorem unwritten_slot : (unwritten true s).mgu.slot = none := by
  show (finishLong .programFailed [] _).mgu.slot = none
  unfold finishLong
  split
  · assumption
  · rw [(respond_told ..).unit]
    rfl

end Start

/-! ## The request -/

/-- What a request with the snapshot `p`, made at the time `now` of the store `n`, leaves (R124 to R127). -/
structure Asked (n : Nvs) (now : Nat) (p : Snapshot) (owed : Bool) (t : State) : Prop where
  replaced : ∀ w, n.waiting = some w → t.nvs =
    { n with replacedSnapshot := satInc n.replacedSnapshot, waiting := some (replaceWaiting w p owed) }
  starts : n.waiting = none → n.current = none → ¬sequencesSpent n → t.nvs =
    { n with checkpoint := some (checkpointOf n p owed), current := some { op := .slotErase, deadline := now + 60000 } }
  spent : n.waiting = none → n.current = none → sequencesSpent n →
    t.nvs = n ∧ isRaised .storeFail (.slot (nextSlot n.newest)) t = true
  suspends : ∀ b d, n.waiting = none → n.current = some ⟨.bankErase b, d⟩ → ¬sequencesSpent n → t.nvs =
    { n with
      checkpoint := some (checkpointOf n p owed), current := some { op := .slotErase, deadline := now + 60000 }
      suspended := some { bank := b, remaining := d - now }, eraseSuspend := satInc n.eraseSuspend }
  resumes : ∀ b d, n.waiting = none → n.current = some ⟨.bankErase b, d⟩ → sequencesSpent n →
    isRaised .storeFail (.slot (nextSlot n.newest)) t = true ∧ t.nvs =
      { n with current := some ⟨.bankErase b, now + (d - now)⟩, suspended := none, eraseSuspend := satInc n.eraseSuspend }
  waits : ∀ o, n.waiting = none → n.current = some o → (∀ b, o.op ≠ .bankErase b) → t.nvs =
    { n with waiting := some { snapshot := p, owed := owed } }

theorem Asked.congr {n : Nvs} {now : Nat} {p : Snapshot} {owed : Bool} {t u : State} (h : Asked n now p owed t)
    (hn : u.nvs = t.nvs) (hu : ∀ j, isRaised .storeFail j u = isRaised .storeFail j t) : Asked n now p owed u where
  replaced := by rw [hn]; exact h.replaced
  starts := by rw [hn]; exact h.starts
  spent := by rw [hn, hu]; exact h.spent
  suspends := by rw [hn]; exact h.suspends
  resumes := by rw [hn, hu]; exact h.resumes
  waits := by rw [hn]; exact h.waits

section Request
variable {p : Snapshot} {owed : Bool} {s : State}

theorem requestCheckpoint_replaces {w : WaitingCheckpoint} (h : s.nvs.waiting = some w) : requestCheckpoint p owed s =
    s.onNvs fun n => { n with
      waiting := some (replaceWaiting w p owed), replacedSnapshot := satInc n.replacedSnapshot } := by
  unfold requestCheckpoint
  rw [h]

theorem requestCheckpoint_free (h : s.nvs.waiting = none) (hc : s.nvs.current = none) :
    requestCheckpoint p owed s = startCheckpoint { snapshot := p, owed := owed } s := by
  unfold requestCheckpoint
  rw [h, hc]

theorem requestCheckpoint_erase {b : BankId} {d : Nat} (h : s.nvs.waiting = none) (hc : s.nvs.current = some ⟨.bankErase b, d⟩) :
    requestCheckpoint p owed s = resumeIfFree (startCheckpoint { snapshot := p, owed := owed } (suspendErase b d s)) := by
  unfold requestCheckpoint
  rw [h, hc]

theorem requestCheckpoint_waits {o : RunningOp} (h : s.nvs.waiting = none) (hc : s.nvs.current = some o)
    (ho : ∀ b, o.op ≠ .bankErase b) :
    requestCheckpoint p owed s = s.onNvs ({ · with waiting := some { snapshot := p, owed := owed } }) := by
  unfold requestCheckpoint
  rw [h, hc]
  obtain ⟨op, d⟩ := o
  cases op with
  | bankErase b => exact absurd rfl (ho b)
  | _ => rfl

/-- A suspended erase goes on where the checkpoint ended as it started. -/
theorem resumeIfFree_suspended {x : State} {b : BankId} {r : Nat} (hc : x.nvs.current = none)
    (hs : x.nvs.suspended = some { bank := b, remaining := r }) : resumeIfFree x = x.onNvs fun n => { n with
      suspended := none, current := some { op := .bankErase b, deadline := x.now + r } } := by
  unfold resumeIfFree resumeErase
  rw [hc, hs]

/-- A checkpoint that has started keeps the store. -/
theorem requestCheckpoint_suspends {b : BankId} {d : Nat} (h : s.nvs.waiting = none)
    (hc : s.nvs.current = some ⟨.bankErase b, d⟩) (hn : ¬sequencesSpent s.nvs) : requestCheckpoint p owed s =
      (suspendErase b d s).onNvs fun n => { n with
        checkpoint := some (checkpointOf s.nvs p owed), current := some { op := .slotErase, deadline := s.now + 60000 } } := by
  rw [requestCheckpoint_erase h hc]
  exact congrArg resumeIfFree (startCheckpoint_runs (s := suspendErase b d s) hn)

/-- A checkpoint that ends unwritten gives the store back to the erase. -/
theorem requestCheckpoint_resumes {b : BankId} {d : Nat} (h : s.nvs.waiting = none)
    (hc : s.nvs.current = some ⟨.bankErase b, d⟩) (hn : sequencesSpent s.nvs) : requestCheckpoint p owed s =
      (unwritten owed (suspendErase b d s)).onNvs fun n => { n with
        suspended := none, current := some { op := .bankErase b, deadline := s.now + (d - s.now) } } := by
  have hsuspended : (unwritten owed (suspendErase b d s)).nvs = (suspendErase b d s).nvs := unwritten_nvs
  have hnow : (unwritten owed (suspendErase b d s)).now = s.now := unwritten_beside.now
  rw [requestCheckpoint_erase h hc, startCheckpoint_spent (s := suspendErase b d s) hn,
    resumeIfFree_suspended (b := b) (r := d - s.now) (by rw [hsuspended]; rfl) (by rw [hsuspended]; rfl), hnow]

theorem requestCheckpoint_asked (p : Snapshot) (owed : Bool) (s : State) :
    Asked s.nvs s.now p owed (requestCheckpoint p owed s) where
  replaced w h := by rw [requestCheckpoint_replaces h]; rfl
  starts h hc hn := by rw [requestCheckpoint_free h hc, startCheckpoint_runs hn]; rfl
  spent h hc hn := by
    rw [requestCheckpoint_free h hc, startCheckpoint_spent hn]
    exact ⟨unwritten_nvs, isRaised_unwritten⟩
  suspends b d h hc hn := by rw [requestCheckpoint_suspends h hc hn]; rfl
  resumes b d h hc hn := by
    rw [requestCheckpoint_resumes h hc hn]
    refine ⟨isRaised_unwritten (s := suspendErase b d s), ?_⟩
    show ({ (unwritten owed (suspendErase b d s)).nvs with suspended := none, current := _ } : Nvs) = _
    rw [unwritten_nvs]
    rfl
  waits o h hc ho := by rw [requestCheckpoint_waits h hc ho]; rfl

theorem requestCheckpoint_beside (p : Snapshot) (owed : Bool) (s : State) : BesideStore owed s (requestCheckpoint p owed s) := by
  cases h : s.nvs.waiting with
  | some w => rw [requestCheckpoint_replaces h]; exact .onNvs ..
  | none =>
    cases hc : s.nvs.current with
    | none =>
      rw [requestCheckpoint_free h hc]
      by_cases hn : sequencesSpent s.nvs
      · rw [startCheckpoint_spent hn]; exact unwritten_beside
      · rw [startCheckpoint_runs hn]; exact .onNvs ..
    | some o =>
      by_cases ho : ∃ b, o.op = .bankErase b
      · obtain ⟨b, hb⟩ := ho
        have hc' : s.nvs.current = some ⟨.bankErase b, o.deadline⟩ := by rw [hc, ← hb]
        by_cases hn : sequencesSpent s.nvs
        · rw [requestCheckpoint_resumes h hc' hn]
          exact ((BesideStore.onNvs s _).trans unwritten_beside).trans (.onNvs ..)
        · rw [requestCheckpoint_suspends h hc' hn]
          exact (BesideStore.onNvs s _).trans (.onNvs ..)
      · rw [requestCheckpoint_waits h hc fun b hb => ho ⟨b, hb⟩]; exact .onNvs ..

end Request

end Sys2Proof.Machine

/-! # SET-LINEUP and BUNKER (R110, R111) -/

namespace Sys2Proof.Machine

theorem whenServing_serving {s : State} (hr : s.power = .run) (hs : s.mgu.resetting = false) (k : State → State) :
    whenServing s k = k s := by
  unfold whenServing
  rw [whenRunning_run hr]
  exact if_neg (by rw [hs]; exact Bool.false_ne_true)

/-! ## The caps as the tanks give them (R109) -/

/-- The cap of E1 to E4 is the one that the tanks and the lineup give. -/
def CapsAre (t : State) : Prop := ∀ e : Fin 4, t.piu.engines[engineIx e].cap = capOf t e

section Caps
variable {s t u : State}

theorem capsAre_updateCaps (s : State) : CapsAre (updateCaps s) := fun e => by
  rw [updateCaps_cap, capOf_eq, capOf_eq]
  simp only [updateCaps_fau]

theorem CapsAre.congr (h : CapsAre t) (hp : u.piu = t.piu) (hf : u.fau = t.fau) : CapsAre u := fun e => by
  rw [hp, h e, capOf_eq, capOf_eq]
  simp only [hf]

end Caps

/-! ## SET-LINEUP -/

section Lineup
variable {i : Fin 4} {j : Fin 8} {s : State}

/-- The state in which the caps of a new lineup are worked out. -/
def linedUp (i : Fin 4) (j : Fin 8) (s : State) : State :=
  writeLineup (engineIx i) j (s.onFau fun u => { u with lineup := u.lineup.set i j })

theorem setLineup_caps : setLineup i j s = updateCaps (linedUp i j s) := rfl

theorem linedUp_fau : (linedUp i j s).fau = { s.fau with lineup := s.fau.lineup.set i j } := rfl

theorem linedUp_fuelTold : FuelTold s (linedUp i j s) := Told.refl _

theorem setLineup_fau : (setLineup i j s).fau = { s.fau with lineup := s.fau.lineup.set i j } := by
  rw [setLineup_caps, updateCaps_fau, linedUp_fau]

theorem setLineup_told : Told { s with
    fau := { s.fau with lineup := s.fau.lineup.set i j }, piu := { s.piu with engines := (setLineup i j s).piu.engines } }
    (setLineup i j s) := by
  have h : FuelTold s (setLineup i j s) := linedUp_fuelTold.trans (updateCaps_fuelTold _)
  unfold FuelTold at h
  rwa [setLineup_fau] at h

theorem setLineup_lineup : (setLineup i j s).piu.engines[engineIx i].lineup = j := by
  have h := (updateCaps_sameButCap (linedUp i j s) (engineIx i)).rest
  rw [setLineup_caps, h]
  exact congrArg EngineRec.lineup (updAt_getFin_same s.piu.engines (engineIx i) _)

theorem setLineup_follow : CapsFollow false
    { s with piu := { s.piu with engines := updAt s.piu.engines (engineIx i) ({ · with lineup := j }) } } (setLineup i j s) :=
  (updateCaps_follow (linedUp i j s)).congr rfl rfl rfl rfl

end Lineup

/-! ## A request that asks for a checkpoint, answered -/

/-- The answer to an account request, behind its checkpoint request. -/
def answered (node : Node) (kind : Nat) (z : State) : State :=
  respond node kind .ok [] (requestCheckpoint (snapshotOf z.fau false) false z)

/-- What an account request leaves that moved the state from `s` to `z`, asked for a checkpoint and was answered. -/
structure RequestAnswered (node : Node) (kind : Nat) (s z t : State) : Prop where
  fau : t.fau = z.fau
  caps : CapsAre t
  follow : CapsFollow false s t
  behind : ∃ u, t = respond node kind .ok [] u ∧
    Told { s with fau := t.fau, piu := { s.piu with engines := t.piu.engines }, nvs := t.nvs } u
  told : Told { s with fau := t.fau, piu := { s.piu with engines := t.piu.engines }, nvs := t.nvs } t
  asked : Asked s.nvs s.now (snapshotOf t.fau false) false t
  raised : ∀ a j, a ≠ .storeFail → isRaised a j t = isRaised a j z

theorem requestAnswered {s z t : State} {node : Node} {kind : Nat} (h : CapsMoved s z) (hc : CapsAre z)
    (ht : t = answered node kind z) : RequestAnswered node kind s z t := by
  have beside := requestCheckpoint_beside (snapshotOf z.fau false) false z
  have asked := requestCheckpoint_asked (snapshotOf z.fau false) false z
  unfold answered at ht
  revert ht beside asked
  generalize requestCheckpoint (snapshotOf z.fau false) false z = u
  intro ht beside asked
  have hfau : t.fau = u.fau := by rw [ht]; exact respond_fau ..
  have hpiu : t.piu = u.piu := by rw [ht]; exact respond_piu ..
  have hnvs : t.nvs = u.nvs := by rw [ht]; exact respond_nvs ..
  have hraised : ∀ a j, isRaised a j t = isRaised a j u := fun a j => by rw [ht]; exact isRaised_respond ..
  have told : Told { s with fau := t.fau, piu := { s.piu with engines := t.piu.engines }, nvs := t.nvs } u := by
    rw [hfau, hpiu, hnvs, beside.fau, beside.piu]
    exact (Told.beside h.told (fun w => { w with nvs := u.nvs }) (fun _ _ _ => rfl) (fun _ => rfl) (fun _ => rfl)).trans
      (beside.told rfl)
  exact
    { fau := hfau.trans beside.fau
      caps := hc.congr (hpiu.trans beside.piu) (hfau.trans beside.fau)
      follow := h.follow.congr rfl rfl (hpiu.trans beside.piu) (hfau.trans beside.fau)
      behind := ⟨u, ht, told⟩
      told := told.trans (ht ▸ respond_told ..)
      asked := by
        rw [hfau, beside.fau, ← h.told.nvs, ← h.told.now]
        exact asked.congr hnvs fun j => hraised _ _
      raised := fun a j ha => (hraised a j).trans (beside.raised a j ha) }

/-! ## BUNKER -/

/-- The voyage with a volume bunkered. -/
def bunkeredBy (v : Int) (w : Voyage) : Voyage := { w with bunkered := limitAccount (w.bunkered + v) }

/-- The state in which the tank of a bunkering is evaluated. -/
def bunkerMoved (j : Fin 8) (v : Int) (s : State) : State :=
  saturated (s.fau.voyage.bunkered + v)
    ((moveBalance j v s).onFau fun u => { u with
      voyage := { u.voyage with bunkered := limitAccount (s.fau.voyage.bunkered + v) } })

/-- The state in which the checkpoint of a bunkering is asked for. -/
def bunkerTaken (j : Fin 8) (v : Int) (s : State) : State := updateCaps (evalTank j (bunkerMoved j v s))

/-- A bunkering meets a 48-bit limit. -/
def bunkerBeyond (j : Fin 8) (v : Int) (s : State) : Bool :=
  beyond (s.fau.tanks[j].balance + v) || beyond (s.fau.voyage.bunkered + v)

section Bunker
variable (j : Fin 8) (v : Int) (s : State)

theorem bunkerMoved_fau : (bunkerMoved j v s).fau = { s.fau with
    tanks := updAt s.fau.tanks j (balanceMoved v), voyage := bunkeredBy v s.fau.voyage,
    sat := s.fau.sat || bunkerBeyond j v s } := by
  unfold bunkerMoved
  rw [saturated_fau_eq]
  show ({ (moveBalance j v s).fau with
    voyage := { (moveBalance j v s).fau.voyage with bunkered := limitAccount (s.fau.voyage.bunkered + v) }, sat := (moveBalance j v s).fau.sat || _ } : Fau) = _
  rw [moveBalance_fau]
  unfold bunkerBeyond
  rw [Bool.or_assoc]
  rfl

theorem bunkerMoved_fuelTold : FuelTold s (bunkerMoved j v s) :=
  ((moveBalance_fuelTold ..).trans (.onFau ..)).trans (saturated_fuelTold ..)

theorem bunkerMoved_piu : (bunkerMoved j v s).piu = s.piu := (saturated_piu ..).trans (moveBalance_piu ..)

theorem bunkerTaken_fau : (bunkerTaken j v s).fau = { s.fau with
    tanks := updAt s.fau.tanks j (tankEvaluated s j ∘ balanceMoved v), voyage := bunkeredBy v s.fau.voyage,
    sat := s.fau.sat || bunkerBeyond j v s } := by
  unfold bunkerTaken
  rw [updateCaps_fau, evalTank_fau, tankEvaluated_congr (s := s) (t := bunkerMoved j v s) (by rw [bunkerMoved_fau]),
    bunkerMoved_fau]
  dsimp only
  rw [updAt_updAt]

theorem bunkerTaken_moved : CapsMoved s (bunkerTaken j v s) :=
  capsMoved_updateCaps ((bunkerMoved_fuelTold ..).trans (evalTank_fuelTold ..)) ((evalTank_piu ..).trans (bunkerMoved_piu ..))

theorem isRaised_bunkerTaken_fuelSat :
    isRaised .fuelSat .none (bunkerTaken j v s) = (isRaised .fuelSat .none s || bunkerBeyond j v s) := by
  have sat : ∀ (x : Int) (u : State), isRaised .fuelSat .none (saturated x u) = (isRaised .fuelSat .none u || beyond x) :=
    fun x u => by rw [isRaised_saturated, decide_eq_true ⟨rfl, rfl⟩, Bool.and_true]
  unfold bunkerTaken bunkerMoved bunkerBeyond
  rw [isRaised_updateCaps, isRaised_evalTank_of_ne _ (.inr (.inl rfl)), sat]
  show (isRaised .fuelSat .none (moveBalance j v s) || _) = _
  rw [moveBalance_eq, sat, Bool.or_assoc]
  rfl

theorem isRaised_bunkerTaken_tank :
    isRaised .tankReserve (.tank j) (bunkerTaken j v s) = decide ((bunkerTaken j v s).fau.tanks[j].state ≠ .normal) ∧
    isRaised .tankEmpty (.tank j) (bunkerTaken j v s) = decide ((bunkerTaken j v s).fau.tanks[j].state = .empty) ∧
    isRaised .tankOverfull (.tank j) (bunkerTaken j v s) = (bunkerTaken j v s).fau.tanks[j].overfull := by
  unfold bunkerTaken
  rw [isRaised_updateCaps, isRaised_updateCaps, isRaised_updateCaps, updateCaps_fau]
  obtain ⟨hreserve, hempty, hfull⟩ := isRaised_evalTank j (bunkerMoved j v s)
  refine ⟨hreserve.trans ?_, hempty.trans ?_, hfull⟩
  · generalize (evalTank j (bunkerMoved j v s)).fau.tanks[j].state = x
    cases x <;> rfl
  · generalize (evalTank j (bunkerMoved j v s)).fau.tanks[j].state = x
    cases x <;> rfl

/-- The tank of a bunkering. -/
theorem bunkerTaken_tank : (bunkerTaken j v s).fau.tanks[j] = tankEvaluated s j (balanceMoved v s.fau.tanks[j]) := by
  rw [bunkerTaken_fau]
  exact updAt_getFin_same ..

end Bunker

theorem tankStateOf_eq (x : TankEntry) (b : Int) (old : TankState) : tankStateOf x b old =
    if b ≤ 0 then .empty else if b ≤ x.reserve then .reserve else if (x.reserve : Int) + x.hysteresis < b then .normal
    else if old = .empty then .reserve else old := by
  unfold tankStateOf
  cases old <;> rfl

end Sys2Proof.Machine

/-! # VOYAGE-OPEN and VOYAGE-CLOSE (R112, R113) -/

namespace Sys2Proof.Machine

/-! ## Tanks evaluated in turn -/

/-- From `s` to `t` tanks have been evaluated. -/
structure TanksJudged (s t : State) : Prop where
  told : FuelTold s t
  piu : t.piu = s.piu
  rest : t.fau = { s.fau with tanks := t.fau.tanks }
  balance : ∀ k : Fin 8, t.fau.tanks[k].balance = s.fau.tanks[k].balance
  raised : ∀ a j, isFuelAlarm a = false ∨ a = .fuelSat → isRaised a j t = isRaised a j s

section Judged
variable {s t u : State}

theorem TanksJudged.refl (s : State) : TanksJudged s s :=
  ⟨(Told.refl s).fuelTold, rfl, rfl, fun _ => rfl, fun _ _ _ => rfl⟩

theorem TanksJudged.trans (h : TanksJudged s t) (k : TanksJudged t u) : TanksJudged s u where
  told := h.told.trans k.told
  piu := k.piu.trans h.piu
  rest := by
    have := k.rest
    rwa [h.rest] at this
  balance i := (k.balance i).trans (h.balance i)
  raised a j ha := (k.raised a j ha).trans (h.raised a j ha)

theorem evalTank_judged (i : Fin 8) (s : State) : TanksJudged s (evalTank i s) where
  told := evalTank_fuelTold i s
  piu := evalTank_piu i s
  rest := by rw [evalTank_fau]
  balance k := evalTank_balance s i k
  raised _ _ ha := isRaised_evalTank_of_ne s (ha.imp_right .inl)

theorem evalTanks_judged (l : List (Fin 8)) (s : State) : TanksJudged s (l.foldl (fun s i => evalTank i s) s) := by
  induction l generalizing s with
  | nil => exact .refl s
  | cons i l ih => exact (evalTank_judged i s).trans (ih _)

end Judged

/-! ## VOYAGE-OPEN -/

/-- The accounts at the start of a voyage (R112). -/
def fauOpened (number : Nat) (l : Vector Nat 8) (w : Fau) : Fau :=
  { w with
    tanks := Vector.ofFn fun i => { w.tanks[i] with balance := (l[i] : Nat) },
    accounts := w.accounts.map fun a => { a with total := 0 },
    voyage := { number := number, isOpen := true, opening := (l.toList.sum : Nat), bunkered := 0 },
    sat := false }

/-- The state in which the tanks of a new voyage are evaluated. -/
def voyageBegun (number : Nat) (l : Vector Nat 8) (s : State) : State :=
  clearAllOf .accountGap (clearAlarm .fuelSat .none (s.onFau (fauOpened number l)))

/-- The state in which the checkpoint of a new voyage is asked for. -/
def voyageOpened (number : Nat) (l : Vector Nat 8) (s : State) : State :=
  updateCaps ((List.finRange 8).foldl (fun s i => evalTank i s) (voyageBegun number l s))

section Open
variable (number : Nat) (l : Vector Nat 8) (s : State)

theorem voyageBegun_fau : (voyageBegun number l s).fau = fauOpened number l s.fau := by
  unfold voyageBegun
  rw [clearAllOf_fau, clearAlarm_fau]
  rfl

theorem voyageBegun_piu : (voyageBegun number l s).piu = s.piu := by
  unfold voyageBegun
  rw [clearAllOf_piu, clearAlarm_piu]
  rfl

theorem voyageBegun_fuelTold : FuelTold s (voyageBegun number l s) :=
  (FuelTold.onFau s _).trans ((clearAlarm_told ..).trans (clearAllOf_told ..)).fuelTold

theorem not_isRaised_voyageBegun :
    isRaised .fuelSat .none (voyageBegun number l s) = false ∧ ∀ j, isRaised .accountGap j (voyageBegun number l s) = false := by
  refine ⟨?_, fun j => not_isRaised_clearAllOf ..⟩
  unfold voyageBegun
  rw [Bool.eq_false_iff, ne_eq, isRaised_clearAllOf, not_isRaised_cleared]
  exact fun h => Bool.false_ne_true h.1

theorem voyageOpened_judged : TanksJudged (voyageBegun number l s)
    ((List.finRange 8).foldl (fun s i => evalTank i s) (voyageBegun number l s)) := evalTanks_judged ..

theorem voyageOpened_moved : CapsMoved s (voyageOpened number l s) :=
  capsMoved_updateCaps ((voyageBegun_fuelTold ..).trans (voyageOpened_judged ..).told)
    ((voyageOpened_judged ..).piu.trans (voyageBegun_piu ..))

theorem voyageOpened_fau : (voyageOpened number l s).fau =
    { fauOpened number l s.fau with tanks := (voyageOpened number l s).fau.tanks } := by
  have h := (voyageOpened_judged number l s).rest
  rw [voyageBegun_fau] at h
  unfold voyageOpened
  rw [updateCaps_fau]
  exact h

theorem voyageOpened_balance (k : Fin 8) : (voyageOpened number l s).fau.tanks[k].balance = (l[k] : Nat) := by
  have h := (voyageOpened_judged number l s).balance k
  rw [voyageBegun_fau] at h
  unfold voyageOpened
  rw [updateCaps_fau, h]
  exact congrArg Tank.balance (Vector.getElem_ofFn ..)

theorem voyageOpened_account (e : Fin 4) :
    (voyageOpened number l s).fau.accounts[e] = { s.fau.accounts[e] with total := 0 } := by
  rw [voyageOpened_fau]
  exact Vector.getElem_map ..

theorem not_isRaised_voyageOpened :
    isRaised .fuelSat .none (voyageOpened number l s) = false ∧ ∀ j, isRaised .accountGap j (voyageOpened number l s) = false := by
  obtain ⟨hsat, hgap⟩ := not_isRaised_voyageBegun number l s
  have h := (voyageOpened_judged number l s).raised
  unfold voyageOpened
  refine ⟨?_, fun j => ?_⟩
  · rw [isRaised_updateCaps, h _ _ (.inr rfl), hsat]
  · rw [isRaised_updateCaps, h _ _ (.inl rfl), hgap]

end Open

theorem soundingsOf_toList {l : List Nat} (h : l.length = 8) : (soundingsOf l).toList = l := by
  refine List.ext_getElem (by rw [Vector.length_toList, h]) fun i hi hl => ?_
  rw [Vector.getElem_toList]
  unfold soundingsOf
  rw [Vector.getElem_ofFn, List.getD_eq_getElem _ _ hl]

theorem soundingsOf_get (l : List Nat) (i : Fin 8) : (soundingsOf l)[i] = l.getD i.val 0 := Vector.getElem_ofFn ..

/-! ## VOYAGE-CLOSE -/

/-- The voyage closed, before its checkpoint is asked for. -/
def voyageClosed (s : State) : State := s.onFau fun u => { u with voyage := { u.voyage with isOpen := false } }

theorem closeVoyage_eq (s : State) :
    closeVoyage s = requestCheckpoint (snapshotOf (voyageClosed s).fau true) true (voyageClosed s) := rfl

section Close
variable {p : Snapshot} {owed : Bool} {s : State}

/-- A request that waits keeps the long request's slot. -/
theorem requestCheckpoint_slot_waits {o : RunningOp} (h : s.nvs.waiting = none) (hc : s.nvs.current = some o)
    (ho : ∀ b, o.op ≠ .bankErase b) : (requestCheckpoint p owed s).mgu.slot = s.mgu.slot := by
  rw [requestCheckpoint_waits h hc ho]
  rfl

/-- A request that starts keeps the long request's slot. -/
theorem requestCheckpoint_slot_starts (h : s.nvs.waiting = none) (hc : s.nvs.current = none) (hn : ¬sequencesSpent s.nvs) :
    (requestCheckpoint p owed s).mgu.slot = s.mgu.slot := by
  rw [requestCheckpoint_free h hc, startCheckpoint_runs hn]
  rfl

/-- A request that ends unwritten answers the long request. -/
theorem requestCheckpoint_slot_spent (h : s.nvs.waiting = none) (hc : s.nvs.current = none) (hn : sequencesSpent s.nvs) :
    (requestCheckpoint p true s).mgu.slot = none := by
  rw [requestCheckpoint_free h hc, startCheckpoint_spent hn]
  exact unwritten_slot

/-- What a VOYAGE-CLOSE that is taken leaves (R113). -/
structure CloseAsked (node : Node) (s t : State) : Prop where
  fau : t.fau = { s.fau with voyage := { s.fau.voyage with isOpen := false } }
  asked : Asked s.nvs s.now (snapshotOf t.fau true) true t
  waits : ∀ o, s.nvs.waiting = none → s.nvs.current = some o → (∀ b, o.op ≠ .bankErase b) →
    t.mgu.slot = some { node := node, op := .voyageClose }
  starts : s.nvs.waiting = none → s.nvs.current = none → ¬sequencesSpent s.nvs →
    t.mgu.slot = some { node := node, op := .voyageClose }
  spent : s.nvs.waiting = none → s.nvs.current = none → sequencesSpent s.nvs → t.mgu.slot = none

theorem closeVoyage_asked (node : Node) (s : State) : CloseAsked node s (closeVoyage (takeSlot node .voyageClose s)) := by
  rw [closeVoyage_eq]
  have hnvs : s.nvs = (voyageClosed (takeSlot node .voyageClose s)).nvs := rfl
  have hnow : s.now = (voyageClosed (takeSlot node .voyageClose s)).now := rfl
  have hslot : (voyageClosed (takeSlot node .voyageClose s)).mgu.slot = some { node := node, op := .voyageClose } := rfl
  have hfau : (voyageClosed (takeSlot node .voyageClose s)).fau =
      { s.fau with voyage := { s.fau.voyage with isOpen := false } } := rfl
  revert hnvs hnow hslot hfau
  generalize voyageClosed (takeSlot node .voyageClose s) = u
  intro hnvs hnow hslot hfau
  have beside := requestCheckpoint_beside (snapshotOf u.fau true) true u
  exact
    { fau := beside.fau.trans hfau
      asked := by
        rw [hnvs, hnow, beside.fau]
        exact requestCheckpoint_asked ..
      waits := fun o hw hc ho => by
        rw [hnvs] at hw hc
        rw [requestCheckpoint_slot_waits hw hc ho, hslot]
      starts := fun hw hc hs => by
        rw [hnvs] at hw hc hs
        rw [requestCheckpoint_slot_starts hw hc hs, hslot]
      spent := fun hw hc hs => by
        rw [hnvs] at hw hc hs
        exact requestCheckpoint_slot_spent hw hc hs }

end Close

end Sys2Proof.Machine

/-! # AccountRequests (O46) -/

namespace Sys2Proof.Machine

/-! ## The requests as they are served (R198) -/

section Served
variable {n : Node} {s : State}

theorem serveLineup_bad {e k : Byte} (h : e.toNat < 1 ∨ 4 < e.toNat ∨ 8 ≤ k.toNat) :
    serveLineup n e k s = respond n 18 .badArgument [] s := dif_neg (by omega)

theorem serveLineup_taken {e k : Byte} {i : Fin 4} {j : Fin 8} (he : e.toNat = i.val + 1) (hk : k.toNat = j.val) :
    serveLineup n e k s = respond n 18 .ok [] (setLineup i j s) := by
  unfold serveLineup
  rw [dif_pos (by omega)]
  congr 2
  · exact Fin.ext (by simp only [he, Nat.add_sub_cancel])
  · exact Fin.ext hk

theorem serveBunker_bad {k : Byte} {v : Nat} (h : 8 ≤ k.toNat ∨ v = 0) :
    serveBunker n k v s = respond n 17 .badArgument [] s := by
  unfold serveBunker
  split
  · rw [if_pos (by omega)]
  · rfl

theorem serveBunker_taken {k : Byte} {j : Fin 8} {v : Nat} (hk : k.toNat = j.val) (hv : v ≠ 0) :
    serveBunker n k v s = answered n 17 (bunkerTaken j v s) := by
  unfold serveBunker
  have hj : (⟨k.toNat, by omega⟩ : Fin 8) = j := Fin.ext hk
  rw [dif_pos (by omega), if_neg hv, hj]
  rfl

theorem serveOpen_refused {v : Nat} (h : s.fau.voyage.isOpen = true) :
    serveOpen n 0 v s = respond n 15 .refusedState [] s := by
  unfold serveOpen
  rw [if_pos rfl, if_pos h]

theorem serveOpen_begins {v : Nat} (h : s.fau.voyage.isOpen = false) : serveOpen n 0 v s =
    respond n 15 .ok [] (s.onMgu ({ · with assembly := some { number := v % 65536, soundings := [] } })) := by
  unfold serveOpen
  rw [if_pos rfl, if_neg (by rw [h]; exact Bool.false_ne_true)]

theorem serveOpen_bad {part v : Nat} (h : 8 < part) : serveOpen n part v s = respond n 15 .badArgument [] s := by
  unfold serveOpen
  rw [if_neg (by omega), if_neg (by omega)]

theorem serveOpen_sounding {part v : Nat} (h : 1 ≤ part) (h8 : part ≤ 8) :
    serveOpen n part v s = serveSounding n part v s := by
  unfold serveOpen
  rw [if_neg (by omega), if_pos h8]

/-- The assembly dropped (R112). -/
def assemblyDropped (s : State) : State := s.onMgu ({ · with assembly := none })

theorem serveSounding_sequence {part v : Nat} (h : ∀ x, s.mgu.assembly = some x → x.soundings.length + 1 ≠ part) :
    serveSounding n part v s = respond n 15 .sequence [] (assemblyDropped s) := by
  unfold serveSounding
  cases hx : s.mgu.assembly with
  | none => rfl
  | some x => exact if_neg fun e => h x hx e.symm

section Sounding
variable {part v : Nat} {x : Assembly} (hx : s.mgu.assembly = some x) (hp : part = x.soundings.length + 1)
include hx hp

theorem serveSounding_gathers (h : part < 8) : serveSounding n part v s =
    respond n 15 .ok [] (s.onMgu ({ · with assembly := some { x with soundings := x.soundings ++ [v] } })) := by
  unfold serveSounding
  rw [hx]
  exact (if_pos hp).trans (if_pos h)

theorem serveSounding_refused (h : ¬part < 8) (ho : s.fau.voyage.isOpen = true) :
    serveSounding n part v s = respond n 15 .refusedState [] (assemblyDropped s) := by
  unfold serveSounding
  rw [hx]
  exact (if_pos hp).trans ((if_neg h).trans (if_pos ho))

theorem serveSounding_opens (h : ¬part < 8) (ho : s.fau.voyage.isOpen = false) : serveSounding n part v s =
    answered n 15 (voyageOpened x.number (soundingsOf (x.soundings ++ [v])) (assemblyDropped s)) := by
  unfold serveSounding
  rw [hx]
  exact (if_pos hp).trans ((if_neg h).trans (if_neg (by rw [ho]; exact Bool.false_ne_true)))

end Sounding

theorem serveClose_busy (h : s.mgu.slot ≠ none) : serveClose n s = respond n 16 .busy [] s := by
  obtain ⟨r, hr⟩ := Option.ne_none_iff_exists'.1 h
  unfold serveClose longRequest
  rw [hr]

theorem serveClose_refused (h : s.mgu.slot = none) (ho : s.fau.voyage.isOpen = false) :
    serveClose n s = respond n 16 .refusedState [] s := by
  unfold serveClose longRequest
  rw [h]
  exact if_neg (by rw [ho]; exact Bool.false_ne_true)

theorem serveClose_taken (h : s.mgu.slot = none) (ho : s.fau.voyage.isOpen = true) :
    serveClose n s = closeVoyage (takeSlot n .voyageClose s) := by
  unfold serveClose longRequest
  rw [h]
  exact if_pos ho

end Served

/-- Settles O46: each request is one row of `serve…`; those that ask for a checkpoint are `requestAnswered`, and the close is the
request itself, which owes the answer. -/
theorem accountRequests : Obligations.AccountRequests := by
  unfold Obligations.AccountRequests
  intro s n hr hreset drop capIs lim asked
  have serving : ∀ k : State → State, whenServing s k = k s := whenServing_serving hr hreset
  have next : ∀ (k : State → State) (t : State), k s = t →
      (Host.Outcome.next (whenServing s k) : Host.Outcome State Fault Refusal) = .next t := fun k t h => by rw [serving, h]
  have caps : ∀ t, CapsAre t → t.fau.table = s.fau.table → capIs t := fun t h ht e => by
    refine (h e).trans ((capOf_eq t e).trans ?_)
    rw [ht]
    split
    · rfl
    · cases s.fau.table with
      | none => rfl
      | some x => exact congrArg some (Nat.zero_max _).symm
  have asks : ∀ t owed closing, Asked s.nvs s.now (snapshotOf t.fau closing) owed t → asked t owed closing :=
    fun t owed closing h => by
      have hslot : nextSlot s.nvs.newest = match s.nvs.newest with | none => 0 | some x => x.slot + 1 := by
        cases s.nvs.newest <;> rfl
      have hlast : (s.nvs.newest.elim 0 (·.seq)) = match s.nvs.newest with | none => 0 | some x => x.seq := by
        cases s.nvs.newest <;> rfl
      obtain ⟨replaced, starts, spent, suspends, resumes, waits⟩ := h
      unfold sequencesSpent checkpointOf at *
      rw [hslot, hlast] at *
      exact ⟨replaced, starts, spent, suspends, resumes, waits⟩
  have limit : ∀ v, lim v = limitAccount v := fun v => by rw [limitAccount_eq, min_comm]
  refine ⟨fun e k h => next _ _ (serveLineup_bad h), fun e k i j he hk => ?_, fun k v h => next _ _ (serveBunker_bad ?_),
    fun k j v hk hv => ?_, fun v h => next _ _ (serveOpen_refused h), fun v h => next _ _ (serveOpen_begins h),
    fun k v h => next _ _ (serveOpen_bad h), fun k v h1 h8 h => next _ _ ((serveOpen_sounding h1 h8).trans (serveSounding_sequence h)),
    fun k v x hx hk => ⟨fun h => ?_, fun h8 ho => ?_, fun h8 ho => ?_⟩, fun h => next _ _ (serveClose_busy h),
    fun h ho => next _ _ (serveClose_refused h ho), fun h ho => ?_⟩
  · have hpiu := respond_piu (setLineup i j s) n 18 .ok []
    have hfau := respond_fau (setLineup i j s) n 18 .ok []
    have told := setLineup_told (i := i) (j := j) (s := s)
    refine ⟨_, next _ _ (serveLineup_taken he hk), caps _ ((capsAre_updateCaps (linedUp i j s)).congr hpiu hfau) ?_,
      setLineup_follow.congr rfl rfl hpiu hfau, ⟨_, rfl, ?_⟩, ?_, ?_⟩
    · rw [hfau, setLineup_fau]
    · rw [hpiu]; exact told
    · rw [hpiu]; exact setLineup_lineup
    · rw [hpiu]; exact told.trans (respond_told ..)
  · exact h.imp_right fun h => by rw [h]; rfl
  · intro b w past
    have hv' : v.toNat ≠ 0 := fun h => hv (BitVec.eq_of_toNat_eq h)
    obtain ⟨t, ht⟩ : ∃ t, t = answered n 17 (bunkerTaken j v.toNat s) := ⟨_, rfl⟩
    have hexec := next _ _ ((serveBunker_taken (n := n) (s := s) hk hv').trans ht.symm)
    obtain ⟨hfau, hcaps, hfollow, hbehind, htold, hasked, hraised⟩ :=
      requestAnswered (bunkerTaken_moved ..) (capsAre_updateCaps _) ht
    have hb : limitAccount (s.fau.tanks[j].balance + (v.toNat : Int)) = b := (limit _).symm
    have hw : limitAccount (s.fau.voyage.bunkered + (v.toNat : Int)) = w := (limit _).symm
    have hpast : bunkerBeyond j v.toNat s = past := by
      unfold bunkerBeyond beyond
      rw [hb, hw]
      exact (Bool.decide_or _ _).symm
    have htank : t.fau.tanks[j] = tankEvaluated s j (balanceMoved v.toNat s.fau.tanks[j]) := by
      rw [hfau]; exact bunkerTaken_tank ..
    obtain ⟨hreserve, hempty, hfull⟩ := isRaised_bunkerTaken_tank j v.toNat s
    rw [← hfau] at hreserve hempty hfull
    have hrest : t.fau = { s.fau with
        tanks := s.fau.tanks.set j t.fau.tanks[j], voyage := { s.fau.voyage with bunkered := w }, sat := s.fau.sat || past } := by
      rw [htank, hfau, bunkerTaken_fau, hpast, ← hw]
      rfl
    refine ⟨t, hexec, caps t hcaps (by rw [hrest]), hfollow, hbehind, asks t false false hasked, ?_, ?_, fun hx => ?_,
      fun x hx => ⟨?_, ?_, ?_, ?_, ?_⟩, ?_⟩
    · rw [htank, tankEvaluated_balance]; exact hb
    · rw [hraised _ _ (by decide), isRaised_bunkerTaken_fuelSat, hpast]
    · rw [htank, tankEvaluated, hx]; exact ⟨rfl, rfl⟩
    · rw [htank, tankEvaluated, hx, ← hb]; rfl
    · rw [htank, tankEvaluated, hx, ← hb]; exact tankStateOf_eq ..
    · exact (hraised _ _ (by decide)).trans hreserve
    · exact (hraised _ _ (by decide)).trans hempty
    · exact (hraised _ _ (by decide)).trans hfull
    · rw [← hrest]; exact htold
  · exact next _ _ ((serveOpen_sounding (by omega) (by omega)).trans (serveSounding_gathers hx hk h))
  · subst h8
    exact next _ _ ((serveOpen_sounding (by decide) (by decide)).trans (serveSounding_refused hx hk (by decide) ho))
  · subst h8
    obtain ⟨l, hl⟩ : ∃ l, l = x.soundings ++ [v.toNat] := ⟨_, rfl⟩
    obtain ⟨t, ht⟩ : ∃ t, t = answered n 15 (voyageOpened x.number (soundingsOf l) drop) := ⟨_, rfl⟩
    have hlength : l.length = 8 := by rw [hl, List.length_append]; exact hk.symm
    have hexec := next _ _ ((serveOpen_sounding (n := n) (by decide) (by decide)).trans
      ((serveSounding_opens hx hk (by decide) ho).trans (hl ▸ ht.symm)))
    obtain ⟨hfau, hcaps, hfollow, hbehind, htold, hasked, hraised⟩ :=
      requestAnswered (voyageOpened_moved ..) (capsAre_updateCaps _) ht
    obtain ⟨hsat, hgap⟩ := not_isRaised_voyageOpened x.number (soundingsOf l) drop
    have hrest := voyageOpened_fau x.number (soundingsOf l) drop
    rw [← hfau] at hrest
    rw [← hl]
    refine ⟨t, hexec, caps t hcaps (by rw [hrest]; rfl), hfollow.congr rfl rfl rfl rfl, hbehind, ?_, asks t false false hasked, ?_,
      fun i => ?_, ?_, ?_, ?_, fun j => ?_, fun e => ?_⟩
    · rw [htold.unit]
    · rw [hrest]; rfl
    · rw [hfau, voyageOpened_balance, soundingsOf_get]
    · rw [hrest, ← soundingsOf_toList hlength]; rfl
    · rw [hrest]; rfl
    · rw [hraised _ _ (by decide), hsat]
    · rw [hraised _ _ (by decide), hgap]
    · rw [hfau, voyageOpened_account]
  · have close := closeVoyage_asked n s
    refine ⟨_, next _ _ (serveClose_taken h ho), asks _ true true close.asked, close.fau, fun o hw hc hop => ?_,
      fun hw hc => ⟨fun hs => ?_, fun hs => ?_⟩⟩
    · exact ⟨close.waits o hw hc hop, by rw [close.asked.waits o hw hc hop]⟩
    · exact ⟨close.starts hw hc hs, _, by rw [close.asked.starts hw hc hs], rfl, rfl⟩
    · exact ⟨close.spent hw hc hs, by rw [(close.asked.spent hw hc hs).1]⟩

end Sys2Proof.Machine

/-! # What leaves the propulsion interface alone -/

namespace Sys2Proof.Machine

@[simp] theorem foldl_piu {α : Type} {f : State → α → State} (hf : ∀ s a, (f s a).piu = s.piu) (l : List α) (s : State) :
    (l.foldl f s).piu = s.piu := by
  induction l generalizing s with
  | nil => rfl
  | cons a l ih => exact (ih _).trans (hf s a)

/-! ## Shared operations -/

@[simp] theorem handPort_piu (seg f o s) : (handPort seg f o s).1.piu = s.piu := by
  obtain ⟨g, e⟩ := handPort_port s seg f o
  rw [e]
  simp

theorem piu_of_handed {seg f o s t b} (e : handPort seg f o s = (t, b)) : t.piu = s.piu :=
  (congrArg (·.1.piu) e).symm.trans (handPort_piu ..)

@[simp] theorem handLink_piu (f o s) : (handLink f o s).1.piu = s.piu := by
  obtain ⟨g, e⟩ := handLink_hlc s f o
  rw [e]
  rfl

@[simp] theorem handResponse_piu (o f s) : (handResponse o f s).1.piu = s.piu := by rw [handResponse_same]
@[simp] theorem onStation_piu (i f s) : (onStation i f s).piu = s.piu := rfl
@[simp] theorem onQueue_piu (q f s) : (onQueue q f s).piu = s.piu := rfl

@[simp] theorem onLane_piu (l f s) : (onLane l f s).piu = s.piu := by
  unfold onLane
  split <;> simp

/-! ## Tables -/

@[simp] theorem answerCommit_piu (k s) : (answerCommit k s).piu = s.piu := by simp [answerCommit]

/-! ## The coupling monitor -/

@[simp] theorem publishHeadroom_piu (s) : (publishHeadroom s).piu = s.piu := rfl
@[simp] theorem startRecompute_piu (s) : (startRecompute s).piu = s.piu := rfl

@[simp] theorem requestRecompute_piu (s) : (requestRecompute s).piu = s.piu := by
  unfold requestRecompute
  split <;> simp

@[simp] theorem breakaway_piu (u s) : (breakaway u s).piu = s.piu := by simp [breakaway]

@[simp] theorem completeRecompute_piu (s) : (completeRecompute s).piu = s.piu := by
  unfold completeRecompute
  dsimp only
  repeat' split
  all_goals simp

@[simp] theorem modCoupling_piu (i f s) : (modCoupling i f s).piu = s.piu := rfl

@[simp] theorem endArm_piu (o s) : (endArm o s).piu = s.piu := by
  unfold endArm
  split <;> simp

@[simp] theorem cancelArm_piu (s) : (cancelArm s).piu = s.piu := by simp [cancelArm]

@[simp] theorem cancelArmOf_piu (i new s) : (cancelArmOf i new s).piu = s.piu := by
  unfold cancelArmOf
  repeat' split
  all_goals simp

@[simp] theorem stateAlarms_piu (node old new s) : (stateAlarms node old new s).piu = s.piu := by
  unfold stateAlarms
  repeat' split
  all_goals simp

@[simp] theorem enterState_piu (i new s) : (enterState i new s).piu = s.piu := by
  unfold enterState
  repeat' split
  all_goals simp

@[simp] theorem takeReport_piu (i t brake hook s) : (takeReport i t brake hook s).piu = s.piu := by
  unfold takeReport
  dsimp only
  repeat' split
  all_goals simp

@[simp] theorem missedPoll_piu (i s) : (missedPoll i s).piu = s.piu := by
  unfold missedPoll
  dsimp only
  repeat' split
  all_goals simp

@[simp] theorem swapMakeup_piu (s) : (swapMakeup s).piu = s.piu := by simp [swapMakeup]
@[simp] theorem dropAlarms_piu (node s) : (dropAlarms node s).piu = s.piu := by simp [dropAlarms]

@[simp] theorem swapRelease_piu (old new s) : (swapRelease old new s).piu = s.piu := by
  unfold swapRelease
  repeat' split
  all_goals simp

@[simp] theorem swapCoupling_piu (s) : (swapCoupling s).piu = s.piu := by
  unfold swapCoupling
  dsimp only
  rw [answerCommit_piu, swapRelease_piu, cancelArm_piu, foldl_piu, State.onCmu_piu]
  intro s c
  split
  · simp
  · split <;> simp

@[simp] theorem runList_piu (l s) : (runList l s).piu = s.piu := by
  induction l generalizing s with
  | nil => simp [runList]
  | cons i rest ih =>
    unfold runList
    dsimp only
    repeat' split
    any_goals rename_i e
    all_goals simp [ih]
    all_goals simp [piu_of_handed e]

@[simp] theorem beginRound_piu (s) : (beginRound s).piu = s.piu := by simp [beginRound, apply_ite State.piu]

@[simp] theorem settleRound_piu (s) : (settleRound s).piu = s.piu := by
  unfold settleRound
  repeat' split
  all_goals simp

@[simp] theorem endPoll_piu (r s) : (endPoll r s).piu = s.piu := by simp [endPoll]

@[simp] theorem pollMissed_piu (s) : (pollMissed s).piu = s.piu := by
  unfold pollMissed
  split <;> simp

@[simp] theorem pollFailed_piu (n s) : (pollFailed n s).piu = s.piu := by
  unfold pollFailed
  repeat' split
  all_goals simp

@[simp] theorem pollSent_piu (n s) : (pollSent n s).piu = s.piu := by
  unfold pollSent
  repeat' split
  all_goals simp

@[simp] theorem reportFrame_piu (node tension flags s) : (reportFrame node tension flags s).piu = s.piu := by
  unfold reportFrame
  repeat' split
  all_goals simp

@[simp] theorem refuseRelease_piu (st o id s) : (refuseRelease st o id s).piu = s.piu := by simp [refuseRelease]

@[simp] theorem armRelease_piu (st id s) : (armRelease st id s).piu = s.piu := by
  unfold armRelease
  repeat' split
  all_goals simp

@[simp] theorem releaseFails_piu (s) : (releaseFails s).piu = s.piu := by
  unfold releaseFails
  dsimp only
  repeat' split
  all_goals simp

@[simp] theorem releaseFrameFailed_piu (n s) : (releaseFrameFailed n s).piu = s.piu := by
  unfold releaseFrameFailed
  repeat' split
  all_goals simp

@[simp] theorem enterReleasing_piu (st i c s) : (enterReleasing st i c s).piu = s.piu := by
  unfold enterReleasing
  dsimp only
  split <;> rename_i e <;> simp [piu_of_handed e]

@[simp] theorem goRelease_piu (st id complement s) : (goRelease st id complement s).piu = s.piu := by
  unfold goRelease
  repeat' split
  all_goals simp

@[simp] theorem classSix_piu (f s) : (classSix f s).piu = s.piu := by
  unfold classSix
  dsimp only
  repeat' split
  all_goals simp

@[simp] theorem lateDone_piu (node opened s) : (lateDone node opened s).piu = s.piu := by
  unfold lateDone
  repeat' split
  all_goals simp

@[simp] theorem releaseDoneFrame_piu (node result s) : (releaseDoneFrame node result s).piu = s.piu := by
  unfold releaseDoneFrame
  repeat' split
  all_goals simp

@[simp] theorem classFour_piu (f s) : (classFour f s).piu = s.piu := by
  unfold classFour
  split <;> simp

@[simp] theorem segmentKIsolated_piu (s) : (segmentKIsolated s).piu = s.piu := by simp [segmentKIsolated]
@[simp] theorem confirmMakeup_piu (s) : (confirmMakeup s).piu = s.piu := by simp [confirmMakeup]

/-! ## The command stations -/

@[simp] theorem formTargets_piu (s) : (formTargets s).piu = s.piu := by
  unfold formTargets
  repeat' split
  all_goals simp

@[simp] theorem endStale_piu (s) : (endStale s).piu = s.piu := by simp [endStale]
@[simp] theorem renewPresence_piu (i s) : (renewPresence i s).piu = s.piu := by simp [renewPresence, apply_ite State.piu]
@[simp] theorem endRequest_piu (r state s) : (endRequest r state s).piu = s.piu := rfl

@[simp] theorem presenceLost_piu (i s) : (presenceLost i s).piu = s.piu := by
  unfold presenceLost
  split <;> simp

@[simp] theorem countUnknown_piu (s) : (countUnknown s).piu = s.piu := rfl

@[simp] theorem acceptHelm_piu (i d t seq s) : (acceptHelm i d t seq s).piu = s.piu := by
  simp [acceptHelm, apply_ite State.piu]

@[simp] theorem stationHelm_piu (i d t seq s) : (stationHelm i d t seq s).piu = s.piu := by
  simp [stationHelm, apply_ite State.piu]

@[simp] theorem leaveCommand_piu (o s) : (leaveCommand o s).piu = s.piu := rfl

@[simp] theorem grant_piu (i given s) : (grant i given s).piu = s.piu := by
  unfold grant
  dsimp only
  split <;> simp

@[simp] theorem stationTake_piu (i s) : (stationTake i s).piu = s.piu := by
  unfold stationTake
  dsimp only
  repeat' split
  all_goals simp

@[simp] theorem stationGive_piu (i s) : (stationGive i s).piu = s.piu := by
  unfold stationGive
  repeat' split
  all_goals simp

@[simp] theorem stationForce_piu (i s) : (stationForce i s).piu = s.piu := by
  unfold stationForce
  dsimp only
  repeat' split
  all_goals simp

@[simp] theorem sendJoin_piu (f s) : (sendJoin f s).piu = s.piu := by simp [sendJoin]
@[simp] theorem endOffer_piu (s) : (endOffer s).piu = s.piu := rfl

@[simp] theorem stationJoinGive_piu (i s) : (stationJoinGive i s).piu = s.piu := by
  unfold stationJoinGive
  repeat' split
  all_goals simp

@[simp] theorem countIgnored_piu (s) : (countIgnored s).piu = s.piu := rfl
@[simp] theorem takeAccept_piu (s) : (takeAccept s).piu = s.piu := by simp [takeAccept, apply_ite State.piu]
@[simp] theorem setpointTaken_piu (s) : (setpointTaken s).piu = s.piu := by simp [setpointTaken, apply_ite State.piu]

@[simp] theorem stationClear_piu (i s) : (stationClear i s).piu = s.piu := by
  unfold stationClear
  dsimp only
  repeat' split
  all_goals simp

@[simp] theorem stationFrame_piu {k} (hk : ∀ i u, (k i u).piu = u.piu) (node s) : (stationFrame node k s).piu = s.piu := by
  unfold stationFrame
  split <;> simp [hk]

@[simp] theorem helmFrame_piu (node d t seq s) : (helmFrame node d t seq s).piu = s.piu := by simp [helmFrame]

@[simp] theorem removeStation_piu (i s) : (removeStation i s).piu = s.piu := by
  unfold removeStation
  dsimp only
  repeat' split
  all_goals simp

@[simp] theorem swapStation_piu (old i s) : (swapStation old i s).piu = s.piu := by simp [swapStation, apply_ite State.piu]
@[simp] theorem csuSwap_piu (old s) : (csuSwap old s).piu = s.piu := by simp [csuSwap]

/-! ## The allocation cycle -/

@[simp] theorem noPropulsion_piu (t s) : (noPropulsion t s).piu = s.piu := by simp [noPropulsion]

/-! ## The store -/

@[simp] theorem onBank_piu (b f s) : (onBank b f s).piu = s.piu := rfl
@[simp] theorem onSlot_piu (i f s) : (onSlot i f s).piu = s.piu := rfl
@[simp] theorem setLock_piu (b f locked s) : (setLock b f locked s).piu = s.piu := rfl

@[simp] theorem startEffect_piu (op s) : (startEffect op s).piu = s.piu := by
  unfold startEffect
  split <;> simp

@[simp] theorem runOp_piu (op s) : (runOp op s).piu = s.piu := rfl
@[simp] theorem startOp_piu (op s) : (startOp op s).piu = s.piu := by simp [startOp]

@[simp] theorem handOp_piu (op s) : (handOp op s).piu = s.piu := by
  unfold handOp
  split <;> simp

@[simp] theorem tellClose_piu (owed written s) : (tellClose owed written s).piu = s.piu := by
  simp [tellClose, apply_ite State.piu]

@[simp] theorem startCheckpoint_piu (w s) : (startCheckpoint w s).piu = s.piu := by
  simp [startCheckpoint, apply_ite State.piu]

@[simp] theorem suspendErase_piu (b deadline s) : (suspendErase b deadline s).piu = s.piu := rfl

@[simp] theorem resumeErase_piu (s) : (resumeErase s).piu = s.piu := by
  unfold resumeErase
  split <;> simp

@[simp] theorem resumeIfFree_piu (s) : (resumeIfFree s).piu = s.piu := by
  unfold resumeIfFree
  split <;> simp

@[simp] theorem startWaiting_piu (s) : (startWaiting s).piu = s.piu := by
  unfold startWaiting
  split <;> simp

@[simp] theorem giveStore_piu (s) : (giveStore s).piu = s.piu := by
  unfold giveStore
  split <;> simp

@[simp] theorem requestCheckpoint_piu (p owed s) : (requestCheckpoint p owed s).piu = s.piu := by
  unfold requestCheckpoint
  repeat' split
  all_goals simp

@[simp] theorem opEnded_piu (s) : (opEnded s).piu = s.piu := rfl
@[simp] theorem checkpointEnds_piu (c written s) : (checkpointEnds c written s).piu = s.piu := by simp [checkpointEnds]
@[simp] theorem slotFails_piu (c s) : (slotFails c s).piu = s.piu := by simp [slotFails, apply_ite State.piu]
@[simp] theorem slotWrittenEnd_piu (c s) : (slotWrittenEnd c s).piu = s.piu := by simp [slotWrittenEnd, apply_ite State.piu]

@[simp] theorem spoilLoad_piu (s) : (spoilLoad s).piu = s.piu := by
  unfold spoilLoad
  split <;> simp

@[simp] theorem tearErase_piu (b s) : (tearErase b s).piu = s.piu := rfl
@[simp] theorem tearProgram_piu (b a bytes s) : (tearProgram b a bytes s).piu = s.piu := rfl
@[simp] theorem tearMark_piu (b number s) : (tearMark b number s).piu = s.piu := rfl
@[simp] theorem tearSlotErase_piu (c s) : (tearSlotErase c s).piu = s.piu := rfl
@[simp] theorem tearSlotProgram_piu (c s) : (tearSlotProgram c s).piu = s.piu := rfl
@[simp] theorem cutSlotProgram_piu (c s) : (cutSlotProgram c s).piu = s.piu := rfl

@[simp] theorem interruptOp_piu (op s) : (interruptOp op s).piu = s.piu := by
  cases op with
  | slotErase | slotProgram => cases h : s.nvs.checkpoint <;> simp [interruptOp, h]
  | _ => simp [interruptOp]

/-! ## The accounts -/

@[simp] theorem onMeter_piu (i f s) : (onMeter i f s).piu = s.piu := rfl
@[simp] theorem onAccount_piu (e f s) : (onAccount e f s).piu = s.piu := rfl
@[simp] theorem onTank_piu (i f s) : (onTank i f s).piu = s.piu := rfl
@[simp] theorem settleModes_piu (old s) : (settleModes old s).piu = s.piu := rfl
@[simp] theorem withModes_piu (s f) : (withModes s f).piu = (f s).piu := by simp [withModes]
@[simp] theorem evalAllTanks_piu (s) : (evalAllTanks s).piu = s.piu := by simp [evalAllTanks, evalTank_piu]
@[simp] theorem meterFaults_piu (i node s) : (meterFaults i node s).piu = s.piu := by simp [meterFaults]

@[simp] theorem meterSilent_piu (i m s) : (meterSilent i m s).piu = s.piu := by
  unfold meterSilent
  split <;> simp

@[simp] theorem endWindow_piu (s e) : (endWindow s e).piu = s.piu := by simp [endWindow, apply_ite State.piu]
@[simp] theorem closeVoyage_piu (s) : (closeVoyage s).piu = s.piu := by simp [closeVoyage]

/-! ## The propulsion interface -/

@[simp] theorem warnEngine_piu (i fb s) : (warnEngine i fb s).piu = s.piu := by simp [warnEngine]

/-! ## The helper link -/

@[simp] theorem onLanes_piu (f s) : (onLanes f s).piu = s.piu := rfl
@[simp] theorem heardOn_piu (l s) : (heardOn l s).piu = s.piu := by simp [heardOn, apply_ite State.piu]
@[simp] theorem beginTs_piu (ts s) : (beginTs ts s).piu = s.piu := by simp [beginTs]

@[simp] theorem placeControl_piu (q f s) : (placeControl q f s).piu = s.piu := by
  unfold placeControl
  split <;> simp

@[simp] theorem placeReturn_piu (q s) : (placeReturn q s).piu = s.piu := by
  unfold placeReturn
  repeat' split
  all_goals simp

@[simp] theorem makeAnnounce_piu (q s) : (makeAnnounce q s).piu = s.piu := by simp [makeAnnounce]
@[simp] theorem addFreed_piu (q n s) : (addFreed q n s).piu = s.piu := by simp [addFreed, apply_ite State.piu]
@[simp] theorem pendQueues_piu (s) : (pendQueues s).piu = s.piu := by simp [pendQueues]
@[simp] theorem flushLink_piu (s) : (flushLink s).piu = s.piu := rfl
@[simp] theorem startTraining_piu (state s) : (startTraining state s).piu = s.piu := rfl
@[simp] theorem enterTraining_piu (s) : (enterTraining s).piu = s.piu := rfl

@[simp] theorem cutShort_piu (l s) : (cutShort l s).piu = s.piu := by
  unfold cutShort
  split <;> simp

@[simp] theorem enterRetraining_piu (s) : (enterRetraining s).piu = s.piu := by simp [enterRetraining]
@[simp] theorem upAlarms_piu (x s) : (upAlarms x s).piu = s.piu := by simp [upAlarms, apply_ite State.piu]
@[simp] theorem enterUp_piu (x s) : (enterUp x s).piu = s.piu := by simp [enterUp, apply_ite State.piu]

@[simp] theorem upIfAgreed_piu (s) : (upIfAgreed s).piu = s.piu := by
  unfold upIfAgreed
  dsimp only
  repeat' split
  all_goals simp

@[simp] theorem markBad_piu (l s) : (markBad l s).piu = s.piu := by simp [markBad]
@[simp] theorem badLinkFrame_piu (l s) : (badLinkFrame l s).piu = s.piu := by simp [badLinkFrame, apply_ite State.piu]
@[simp] theorem otherFrame_piu (l s) : (otherFrame l s).piu = s.piu := by simp [otherFrame]

@[simp] theorem takeAnnounce_piu (q epoch free s) : (takeAnnounce q epoch free s).piu = s.piu := by
  simp [takeAnnounce, apply_ite State.piu]

@[simp] theorem takeConfirm_piu (q epoch s) : (takeConfirm q epoch s).piu = s.piu := by
  unfold takeConfirm
  dsimp only
  split <;> simp

@[simp] theorem takeReturn_piu (q epoch total s) : (takeReturn q epoch total s).piu = s.piu := by
  simp [takeReturn, apply_ite State.piu]

@[simp] theorem whenUp_piu {k s} (hk : (k s).piu = s.piu) : (whenUp s k).piu = s.piu := by
  unfold whenUp
  split <;> simp [hk]

@[simp] theorem sendControl_piu (l s) : (sendControl l s).piu = s.piu := by
  unfold sendControl
  dsimp only
  repeat' split
  all_goals simp

@[simp] theorem sendData_piu (l s) : (sendData l s).piu = s.piu := by
  unfold sendData
  dsimp only
  repeat' split
  all_goals simp

@[simp] theorem endData_piu (l s) : (endData l s).piu = s.piu := by
  unfold endData
  repeat' split
  all_goals simp

@[simp] theorem stopSending_piu (q l s) : (stopSending q l s).piu = s.piu := by simp [stopSending, apply_ite State.piu]
@[simp] theorem disableQueue_piu (q s) : (disableQueue q s).piu = s.piu := by simp [disableQueue]

@[simp] theorem enableQueue_piu (q s) : (enableQueue q s).piu = s.piu := by
  unfold enableQueue
  rw [whenUp_piu] <;> simp

@[simp] theorem swapEnables_piu (s) : (swapEnables s).piu = s.piu := by simp [swapEnables, apply_ite State.piu]

/-! ## The taking side of the switch -/

@[simp] theorem freeEntry_piu (x q s) : (freeEntry x q s).piu = s.piu := by
  unfold freeEntry
  split <;> simp

@[simp] theorem arbiterTake_piu (s) : (arbiterTake s).piu = s.piu := by
  unfold arbiterTake
  repeat' split
  all_goals simp

@[simp] theorem windowSwap_piu (s) : (windowSwap s).piu = s.piu := by simp [windowSwap]

@[simp] theorem markWindow_piu (s) : (markWindow s).piu = s.piu := by
  unfold markWindow
  split <;> simp

@[simp] theorem placeData_piu (q f s) : (placeData q f s).piu = s.piu := by simp [placeData, apply_ite State.piu]
@[simp] theorem noteGap_piu (q g s) : (noteGap q g s).piu = s.piu := by simp [noteGap, apply_ite State.piu]
@[simp] theorem takeData_piu (q seq f s) : (takeData q seq f s).piu = s.piu := by simp [takeData, apply_ite State.piu]

/-! ## Supply -/

@[simp] theorem accountGap_piu (s) : (accountGap s).piu = s.piu := by
  unfold accountGap
  repeat' split
  all_goals simp

/-! ## The segment ports -/

@[simp] theorem overrun_piu (seg q s) : (overrun seg q s).piu = s.piu := by simp [overrun, apply_ite State.piu]

@[simp] theorem placeFrame_piu (seg f s) : (placeFrame seg f s).piu = s.piu := by simp [placeFrame, apply_ite State.piu]

@[simp] theorem followFrame_piu (seg header length payload crc delimiter s) :
    (followFrame seg header length payload crc delimiter s).piu = s.piu := by
  simp [followFrame, apply_ite State.piu]

@[simp] theorem openWindow_piu (seg f s) : (openWindow seg f s).piu = s.piu := by simp [openWindow, apply_ite State.piu]
@[simp] theorem closeWindow_piu (seg s) : (closeWindow seg s).piu = s.piu := by simp [closeWindow, apply_ite State.piu]

/-! ## Read requests -/

@[simp] theorem serveIdentify_piu (node s) : (serveIdentify node s).piu = s.piu := by simp [serveIdentify]
@[simp] theorem serveRecord_piu (node type index s) : (serveRecord node type index s).piu = s.piu := by simp [serveRecord]
@[simp] theorem serveStatus_piu (node area s) : (serveStatus node area s).piu = s.piu := by simp [serveStatus]
@[simp] theorem serveCounters_piu (node block s) : (serveCounters node block s).piu = s.piu := by simp [serveCounters]

/-! ## Management requests -/

@[simp] theorem takeSlot_piu (node op s) : (takeSlot node op s).piu = s.piu := by simp [takeSlot]

@[simp] theorem longRequest_piu {k} (s) (hk : (k s).piu = s.piu) (node kind) : (longRequest node kind s k).piu = s.piu := by
  unfold longRequest
  split <;> simp [hk]

@[simp] theorem withBank_piu {k} (s) (hk : ∀ b, (k b).piu = s.piu) (node kind x) : (withBank node kind x s k).piu = s.piu := by
  unfold withBank
  split <;> simp [hk]

@[simp] theorem abortLoad_piu (s) : (abortLoad s).piu = s.piu := by simp [abortLoad]
@[simp] theorem stopIdle_piu (s) : (stopIdle s).piu = s.piu := rfl

@[simp] theorem serveErase_piu (node kind bank s) : (serveErase node kind bank s).piu = s.piu := by
  simp [serveErase, apply_ite State.piu]

@[simp] theorem serveBlank_piu (node kind bank s) : (serveBlank node kind bank s).piu = s.piu := by
  simp [serveBlank, apply_ite State.piu]

@[simp] theorem serveLoadBegin_piu (node kind bank count s) : (serveLoadBegin node kind bank count s).piu = s.piu := by
  simp [serveLoadBegin, apply_ite State.piu]

@[simp] theorem ofContext_piu {k} (s) (hk : ∀ c, (k c).piu = s.piu) (node kind) : (ofContext node kind s k).piu = s.piu := by
  unfold ofContext
  repeat' split
  all_goals simp [hk]

@[simp] theorem serveLoadData_piu (node seq bytes s) : (serveLoadData node seq bytes s).piu = s.piu := by
  simp [serveLoadData, apply_ite State.piu]

@[simp] theorem serveLoadEnd_piu (node crc s) : (serveLoadEnd node crc s).piu = s.piu := by
  simp [serveLoadEnd, apply_ite State.piu]

@[simp] theorem serveCommit_piu (node kind s) : (serveCommit node kind s).piu = s.piu := by
  refine longRequest_piu s ?_ node 12
  split
  · simp
  · simp [apply_ite State.piu]

@[simp] theorem serveLock_piu (node kind bank s) : (serveLock node kind bank s).piu = s.piu := by
  simp [serveLock, apply_ite State.piu]

@[simp] theorem serveUnlock_piu (node kind bank s) : (serveUnlock node kind bank s).piu = s.piu := by
  simp [serveUnlock, apply_ite State.piu]

@[simp] theorem serveClose_piu (node s) : (serveClose node s).piu = s.piu := by simp [serveClose, apply_ite State.piu]
@[simp] theorem serveConfirm_piu (node s) : (serveConfirm node s).piu = s.piu := by simp [serveConfirm, apply_ite State.piu]

@[simp] theorem endMguOp_piu (s) : (endMguOp s).piu = s.piu := by
  unfold endMguOp
  dsimp only
  repeat' split
  all_goals simp

@[simp] theorem endLong_piu (s) : (endLong s).piu = s.piu := by
  unfold endLong
  split <;> simp

@[simp] theorem clearOverrunFlags_piu (s) : (clearOverrunFlags s).piu = s.piu := rfl
@[simp] theorem keepRaisedSticky_piu (s) : (keepRaisedSticky s).piu = s.piu := by simp [keepRaisedSticky]
@[simp] theorem serveSticky_piu (node s) : (serveSticky node s).piu = s.piu := by simp [serveSticky]
@[simp] theorem serveMalformed_piu (f s) : (serveMalformed f s).piu = s.piu := by simp [serveMalformed]

@[simp] theorem bankRequest_piu (f s) : (bankRequest f s).piu = s.piu := by
  unfold bankRequest
  repeat' split
  all_goals simp

@[simp] theorem commitRequest_piu (f s) : (commitRequest f s).piu = s.piu := by
  unfold commitRequest
  repeat' split
  all_goals simp

/-! ## The ends of store operations -/

@[simp] theorem endOp_piu (s) : (endOp s).piu = s.piu := by simp [endOp]
@[simp] theorem dropStandby_piu (b s) : (dropStandby b s).piu = s.piu := rfl
@[simp] theorem eraseEnds_piu (b ok s) : (eraseEnds b ok s).piu = s.piu := by simp [eraseEnds, apply_ite State.piu]
@[simp] theorem openLoad_piu (node b count s) : (openLoad node b count s).piu = s.piu := by simp [openLoad]

@[simp] theorem blankEnds_piu (b s) : (blankEnds b s).piu = s.piu := by
  unfold blankEnds
  dsimp only
  repeat' split
  all_goals simp

@[simp] theorem advanceLoad_piu (bytes s) : (advanceLoad bytes s).piu = s.piu := by simp [advanceLoad]

@[simp] theorem loadEnds_piu (b offset bytes ok s) : (loadEnds b offset bytes ok s).piu = s.piu := by
  simp [loadEnds, apply_ite State.piu]

@[simp] theorem closeLoad_piu (b s) : (closeLoad b s).piu = s.piu := by simp [closeLoad]

@[simp] theorem headerEnds_piu (b len crc ok s) : (headerEnds b len crc ok s).piu = s.piu := by
  simp [headerEnds, apply_ite State.piu]

@[simp] theorem checkEnds_piu (b s) : (checkEnds b s).piu = s.piu := by simp [checkEnds, apply_ite State.piu]

/-! ## Outcomes of a switching -/

@[simp] theorem countOutcome_piu (x d s) : (countOutcome x d s).piu = s.piu := rfl

@[simp] theorem forwardTo_piu (f s x) : (forwardTo f s x).piu = s.piu := by
  unfold forwardTo
  cases x with
  | w | p | k =>
    dsimp only
    split <;> rename_i e <;> simp [piu_of_handed e]
  | h =>
    dsimp only
    have kept := handLink_piu f .fsw s
    split <;> rename_i e <;> rw [e] at kept <;> simpa using kept

end Sys2Proof.Machine

/-! # What holds the commanded gears of the own engines -/

namespace Sys2Proof.Machine

/-- The commanded gears of the own engines E1 to E4, as the row of records gives them. -/
def ownGears (v : Vector EngineRec 6) (e : Fin 4) : Gear := v[engineIx e].gear

@[simp, reducible] def gears (s : State) : Fin 4 → Gear := ownGears s.piu.engines

/-- A change of one record that leaves its gear. -/
theorem ownGears_updAt {f : EngineRec → EngineRec} (hf : ∀ r, (f r).gear = r.gear) (v : Vector EngineRec 6) (i : Fin 6) :
    ownGears (updAt v i f) = ownGears v := by
  funext e
  unfold ownGears
  rw [updAt_getFin]
  split
  · exact hf _
  · rfl

@[simp] theorem onEngine_gears {f : EngineRec → EngineRec} (hf : ∀ r, (f r).gear = r.gear) (i s) :
    gears (onEngine i f s) = gears s := ownGears_updAt hf ..

/-- A change of the record of X1 or X2. -/
theorem onEngine_gears_x {i : Fin 6} (h : 4 ≤ i.val) (f s) : gears (onEngine i f s) = gears s := by
  funext e
  exact congrArg EngineRec.gear (updAt_getFin_other _ (by have := e.isLt; simp only [engineIx, ne_eq, Fin.ext_iff]; omega) f)

@[simp] theorem stationFrame_gears {k} (hk : ∀ i u, gears (k i u) = gears u) (node s) :
    gears (stationFrame node k s) = gears s := by
  unfold stationFrame
  split <;> simp [hk]

@[simp] theorem foldl_gears {α : Type} {f : State → α → State} (hf : ∀ s a, gears (f s a) = gears s) (l : List α)
    (s : State) :
    gears (l.foldl f s) = gears s := by
  induction l generalizing s with
  | nil => rfl
  | cons a l ih => exact (ih _).trans (hf s a)

@[simp] theorem whenRunning_gears {k : State → State} {s : State} (hk : gears (k s) = gears s) :
   gears (whenRunning s k) = gears s := by
  unfold whenRunning
  split
  · exact hk
  all_goals rfl

@[simp] theorem onExpiry_gears {k : State → State} (hk : ∀ u, gears (k u) = gears u) (t s) :
    gears (onExpiry t s k) = gears s := by
  cases t with
  | none => rfl
  | some d => exact hk _

@[simp] theorem whenServing_gears {k : State → State} {s : State} (hk : gears (k s) = gears s) :
   gears (whenServing s k) = gears s := by
  refine whenRunning_gears ?_
  split
  · rfl
  · exact hk

/-! ## Shared operations -/

@[simp] theorem onRudder_engines (i f s) : (onRudder i f s).piu.engines = s.piu.engines := rfl

/-! ## Engine and rudder records -/

@[simp] theorem writeCap_gears (i cap s) : gears (writeCap i cap s) = gears s := by
  refine onEngine_gears (fun r => ?_) i s
  cases cap with
  | none => rfl
  | some c =>
    dsimp only
    split <;> rfl

@[simp] theorem writeLineup_gears (i tank s) : gears (writeLineup i tank s) = gears s :=
  onEngine_gears (f := fun r => { r with lineup := tank }) (fun _ => rfl) i s

@[simp] theorem evalDeviation_engines (i s) : (evalDeviation i s).piu.engines = s.piu.engines := by
  unfold evalDeviation
  dsimp only
  repeat' split
  all_goals simp

@[simp] theorem rudderLost_engines (i s) : (rudderLost i s).piu.engines = s.piu.engines := rfl

theorem setAvail_gears_x {i : Fin 6} (h : 4 ≤ i.val) (a run s) :
    gears (setAvail i a run s) = gears s := by
  rw [setAvail_eq]
  exact onEngine_gears_x h ..

theorem loseX_gears {i : Fin 6} (h : 4 ≤ i.val) (s) : gears (loseX i s) = gears s := by
  unfold loseX
  dsimp only
  repeat' split
  all_goals simp [setAvail_gears_x h]

@[simp] theorem loseXEngines_gears (s) : gears (loseXEngines s) = gears s :=
  (loseX_gears (by decide) _).trans (loseX_gears (by decide) _)

theorem seedX_gears {i : Fin 6} (h : 4 ≤ i.val) (s) : gears (seedX i s) = gears s := by
  rw [seedX_eq]
  exact onEngine_gears_x h ..

@[simp] theorem seedXEngines_gears (s) : gears (seedXEngines s) = gears s :=
  (seedX_gears (by decide) _).trans (seedX_gears (by decide) _)

theorem piu_of_linked {f o s t b} (e : handLink f o s = (t, b)) : t.piu = s.piu :=
  (congrArg (·.1.piu) e).symm.trans (handLink_piu ..)

/-! ## The command stations -/

@[simp] theorem leaveJoined_gears (detail s) : gears (leaveJoined detail s) = gears s := by
  unfold leaveJoined
  dsimp only
  split <;> simp

@[simp] theorem joinLinkLost_gears (s) : gears (joinLinkLost s) = gears s := by
  simp [joinLinkLost, apply_ite State.piu, apply_ite Piu.engines, apply_ite ownGears]

@[simp] theorem stationTakeBack_gears (i s) : gears (stationTakeBack i s) = gears s := by
  unfold stationTakeBack
  repeat' split
  all_goals simp

@[simp] theorem takeOffer_gears (s) : gears (takeOffer s) = gears s := by
  unfold takeOffer
  repeat' split
  all_goals simp

@[simp] theorem takeUnjoin_gears (reason s) : gears (takeUnjoin reason s) = gears s := by
  unfold takeUnjoin
  split <;> simp

@[simp] theorem stopJoin_gears (s) : gears (stopJoin s) = gears s := by
  unfold stopJoin
  repeat' split
  all_goals simp

@[simp] theorem raiseAllStop_gears (cause s) : gears (raiseAllStop cause s) = gears s := by
  unfold raiseAllStop
  split <;> simp

@[simp] theorem allStopFrame_gears (node s) : gears (allStopFrame node s) = gears s := by
  unfold allStopFrame
  repeat' split
  all_goals simp

@[simp] theorem classZero_gears (f s) : gears (classZero f s) = gears s := by
  simp [classZero, apply_ite State.piu, apply_ite Piu.engines, apply_ite ownGears]

@[simp] theorem classOne_gears (f s) : gears (classOne f s) = gears s := by
  unfold classOne
  repeat' split
  all_goals simp

@[simp] theorem classSeven_gears (f s) : gears (classSeven f s) = gears s := by
  unfold classSeven
  split <;> simp

/-! ## The allocation cycle -/

/-! ## The accounts -/

@[simp] theorem updateCaps_gears (s) : gears (updateCaps s) = gears s := by
  simp [updateCaps, apply_ite State.piu, apply_ite Piu.engines, apply_ite ownGears]

@[simp] theorem writeAllCaps_gears (s) : gears (writeAllCaps s) = gears s := by
  simp [writeAllCaps]

@[simp] theorem applyBooking_gears (e v s) : gears (applyBooking e v s) = gears s := by
  simp [applyBooking, evalTank_piu, moveBalance_piu, addTotal_piu, apply_ite State.piu]

@[simp] theorem bookNet_gears (e s) : gears (bookNet e s) = gears s := by
  simp [bookNet, apply_ite State.piu, apply_ite Piu.engines, apply_ite ownGears]

@[simp] theorem placeVolume_gears (i m scaled s) : gears (placeVolume i m scaled s) = gears s := by
  unfold placeVolume
  dsimp only
  repeat' split
  all_goals simp [evalTank_piu, moveBalance_piu]

@[simp] theorem acceptVolume_gears (i m delta t s) : gears (acceptVolume i m delta t s) = gears s := by
  simp [acceptVolume, apply_ite State.piu]

theorem deltaOf_piu (m totalizer s) : (deltaOf m totalizer s).2.piu = s.piu := by
  unfold deltaOf
  repeat' split
  all_goals rfl
@[simp] theorem cleanReport_gears (i m totalizer t s) : gears (cleanReport i m totalizer t s) = gears s := by
  unfold cleanReport
  dsimp only
  repeat' split
  all_goals simp [deltaOf_piu]

@[simp] theorem matchedReport_gears (i m totalizer t flags s) : gears (matchedReport i m totalizer t flags s) = gears s := by
  unfold matchedReport
  repeat' split
  all_goals simp

@[simp] theorem meterFrame_gears (node totalizer t flags s) : gears (meterFrame node totalizer t flags s) = gears s := by
  unfold meterFrame
  repeat' split
  all_goals simp

@[simp] theorem classFive_gears (f s) : gears (classFive f s) = gears s := by
  unfold classFive
  split <;> simp

@[simp] theorem engineFuel_gears (e rate s) : gears (engineFuel e rate s) = gears s := by
  unfold engineFuel
  repeat' split
  all_goals simp

@[simp] theorem setLineup_gears (e tank s) : gears (setLineup e tank s) = gears s := by
  simp [setLineup]

@[simp] theorem takeBunker_gears (tank v s) : gears (takeBunker tank v s) = gears s := by
  simp [takeBunker, saturated_piu, evalTank_piu, moveBalance_piu]

@[simp] theorem openVoyage_gears (number soundings s) :
    gears (openVoyage number soundings s) = gears s := by
  simp [openVoyage, evalTank_piu]

@[simp] theorem fuelSwap_gears (s) : gears (fuelSwap s) = gears s := by simp [fuelSwap]

@[simp] theorem fauStarts_gears (s) : gears (fauStarts s) = gears s := by
  simp [fauStarts, apply_ite State.piu]

/-! ## The propulsion interface -/

@[simp] theorem countUnknownFeedback_engines (s) : (countUnknownFeedback s).piu.engines = s.piu.engines := rfl
@[simp] theorem countMalformedFeedback_engines (s) : (countMalformedFeedback s).piu.engines = s.piu.engines := rfl

@[simp] theorem handFuelRate_gears (i rate s) : gears (handFuelRate i rate s) = gears s := by
  unfold handFuelRate
  split <;> simp

@[simp] theorem takeRudderFb_engines (i angle s) : (takeRudderFb i angle s).piu.engines = s.piu.engines := by
  simp [takeRudderFb]

@[simp] theorem rudderFbFrame_engines (node angle s) : (rudderFbFrame node angle s).piu.engines = s.piu.engines := by
  unfold rudderFbFrame
  split <;> simp

@[simp] theorem writeMappedRudder_engines (angle fresh s) : (writeMappedRudder angle fresh s).piu.engines = s.piu.engines := by
  simp [writeMappedRudder]

@[simp] theorem discardSetpoint_engines (s) : (discardSetpoint s).piu.engines = s.piu.engines := rfl
@[simp] theorem rudderSilent_engines (i s) : (rudderSilent i s).piu.engines = s.piu.engines := by simp [rudderSilent]

@[simp] theorem sendEngine_gears (s i) : gears (sendEngine s i) = gears s := by
  unfold sendEngine
  dsimp only
  split
  · cases isX i with
    | true => split <;> rename_i e <;> simp [piu_of_linked e]
    | false => split <;> rename_i e <;> simp [piu_of_handed e]
  · rfl

@[simp] theorem sendRudder_engines (s i) : (sendRudder s i).piu.engines = s.piu.engines := by
  unfold sendRudder
  dsimp only
  split
  · rfl
  · by_cases x : i = xs
    · simp only [if_pos x]
      split <;> rename_i e <;> simp [piu_of_linked e]
    · simp only [if_neg x]
      split <;> rename_i e <;> simp [piu_of_handed e]

@[simp] theorem setpointFailed_engines (s) : (setpointFailed s).piu.engines = s.piu.engines := rfl

/-! ## The helper link -/

@[simp] theorem enterDown_gears (s) : gears (enterDown s) = gears s := by
  unfold enterDown
  dsimp only
  split <;> simp

@[simp] theorem enterRoleMismatch_gears (s) : gears (enterRoleMismatch s) = gears s := by
  simp [enterRoleMismatch]

@[simp] theorem formChosen_gears (s) : gears (formChosen s) = gears s := by
  unfold formChosen
  dsimp only
  repeat' split
  all_goals simp

@[simp] theorem noteTs_gears (l ts s) : gears (noteTs l ts s) = gears s := by
  simp [noteTs, apply_ite State.piu, apply_ite Piu.engines, apply_ite ownGears]

@[simp] theorem trainingTs_gears (l ts s) : gears (trainingTs l ts s) = gears s := by
  simp [trainingTs, apply_ite State.piu, apply_ite Piu.engines, apply_ite ownGears]

@[simp] theorem takeTs_gears (l ts s) : gears (takeTs l ts s) = gears s := by
  unfold takeTs
  split <;> simp

/-! ## Read requests -/

@[simp] theorem clearBlock_engines (s block) : (clearBlock s block).piu.engines = s.piu.engines := by
  unfold clearBlock
  split <;> simp

@[simp] theorem serveClear_gears (node block s) : gears (serveClear node block s) = gears s := by
  simp [serveClear, apply_ite State.piu, apply_ite Piu.engines, apply_ite ownGears]

/-! ## Management requests -/

@[simp] theorem serveSounding_gears (node part v s) : gears (serveSounding node part v s) = gears s := by
  unfold serveSounding
  repeat' split
  all_goals simp

@[simp] theorem serveOpen_gears (node part v s) : gears (serveOpen node part v s) = gears s := by
  simp [serveOpen, apply_ite State.piu, apply_ite Piu.engines, apply_ite ownGears]

@[simp] theorem serveBunker_gears (node tank v s) : gears (serveBunker node tank v s) = gears s := by
  unfold serveBunker
  repeat' split
  all_goals simp

@[simp] theorem serveLineup_gears (node engine tank s) : gears (serveLineup node engine tank s) = gears s := by
  unfold serveLineup
  split <;> simp

@[simp] theorem openFrame_gears (f part rest s) : gears (openFrame f part rest s) = gears s := by
  simp [openFrame, apply_ite State.piu, apply_ite Piu.engines, apply_ite ownGears]

@[simp] theorem readRequest_gears (f s) : gears (readRequest f s) = gears s := by
  unfold readRequest
  split <;> simp

@[simp] theorem voyageRequest_gears (f s) : gears (voyageRequest f s) = gears s := by
  unfold voyageRequest
  repeat' split
  all_goals simp

/-! ## The ends of store operations -/

@[simp] theorem markSwap_gears (k s) : gears (markSwap k s) = gears s := by
  unfold markSwap
  split <;> simp

@[simp] theorem markEnds_gears (b number ok s) : gears (markEnds b number ok s) = gears s := by
  simp [markEnds, apply_ite State.piu, apply_ite Piu.engines, apply_ite ownGears]

end Sys2Proof.Machine

/-! # What can only take an own engine out of its gear (R45, R48, R50, R199) -/

namespace Sys2Proof.Machine

/-- From `s` to `t` each own engine keeps its commanded gear or goes to NEUTRAL. -/
structure GearsEase (s t : State) : Prop where
  each : ∀ e, gears t e = gears s e ∨ gears t e = .neutral

section Ease
variable {s t u : State}

theorem GearsEase.of_held (h : gears t = gears s) : GearsEase s t := ⟨fun e => .inl (congrFun h e)⟩

theorem GearsEase.refl (s : State) : GearsEase s s := .of_held rfl

theorem GearsEase.trans (h : GearsEase s t) (k : GearsEase t u) : GearsEase s u := ⟨fun e => by
  rcases k.each e with k | k
  · rw [k]; exact h.each e
  · exact .inr k⟩

theorem GearsEase.held (h : GearsEase s t) (k : gears u = gears t) : GearsEase s u := h.trans (.of_held k)

/-- A part whose own engines stand in NEUTRAL. -/
theorem GearsEase.of_neutral (h : ∀ e, gears t e = .neutral) : GearsEase s t := ⟨fun e => .inr (h e)⟩

theorem GearsEase.foldl {α : Type} {f : State → α → State} (hf : ∀ s a, GearsEase s (f s a)) (l : List α) (s : State) :
    GearsEase s (l.foldl f s) := by
  induction l generalizing s with
  | nil => exact .refl s
  | cons a l ih => exact (hf s a).trans (ih _)

theorem GearsEase.ite {c : Prop} [Decidable c] (ht : GearsEase s t) (hu : GearsEase s u) : GearsEase s (if c then t else u) := by
  split <;> assumption

theorem GearsEase.whenRunning {k : State → State} (h : GearsEase s (k s)) : GearsEase s (whenRunning s k) := by
  unfold Machine.whenRunning
  split
  · exact h
  all_goals exact .refl s

theorem onEngine_eases {f : EngineRec → EngineRec} (hf : ∀ r, (f r).gear = r.gear ∨ (f r).gear = .neutral) (i : Fin 6)
    (s : State) : GearsEase s (onEngine i f s) := by
  refine ⟨fun e => ?_⟩
  show (updAt s.piu.engines i f)[engineIx e].gear = s.piu.engines[engineIx e].gear ∨ (updAt s.piu.engines i f)[engineIx e].gear = _
  rw [updAt_getFin]
  split
  · exact hf _
  · exact .inl rfl

end Ease

/-! ## Availability (R48, R50) -/

theorem availSet_eases (now idle : Nat) (a : EngineAvail) (run : Nat) (r : EngineRec) :
    (availSet now idle a run r).gear = r.gear ∨ (availSet now idle a run r).gear = .neutral := by
  unfold availSet
  split
  · exact .inr rfl
  · exact .inl rfl

theorem setAvail_eases (i a run s) : GearsEase s (setAvail i a run s) := by
  rw [setAvail_eq]
  exact onEngine_eases (availSet_eases s.now (engineOf s i).idle a run) i s

theorem engineSilent_eases (i s) : GearsEase s (engineSilent i s) := by
  have stopped : gears (onEngine i ({ · with timer := none }) s) = gears s := by simp
  refine ((GearsEase.of_held stopped).trans (setAvail_eases i .lost 0 _)).held ?_
  unfold engineSilent
  simp [apply_ite State.piu]

theorem feedbackTaken_eases (now idle : Nat) (fb : EngineFeedback) (r : EngineRec) :
    (feedbackTaken now idle fb r).gear = r.gear ∨ (feedbackTaken now idle fb r).gear = .neutral := by
  unfold feedbackTaken
  split
  · exact .inl rfl
  · exact availSet_eases ..

theorem gears_of_told {s t : State} (h : Told s t) : gears t = gears s := by
  rw [gears, h.rest]

theorem takeEngineFb_eases (i fb s) : GearsEase s (takeEngineFb i fb s) := by
  have acted : GearsEase s (recordActed i fb s) :=
    (onEngine_eases (feedbackTaken_eases s.now (engineOf s i).idle fb) i s).held (gears_of_told (recordActed_told i fb s))
  have handed : GearsEase s (rateHanded i fb s) := acted.held (handFuelRate_gears ..)
  exact handed.ite (handed.held (congrArg (fun p : Piu => ownGears p.engines) (warnEngine_piu ..)))

theorem engineFrame_eases (node rpm gear rate flags s) : GearsEase s (engineFrame node rpm gear rate flags s) := by
  unfold engineFrame
  split
  · exact .of_held (by simp)
  · exact takeEngineFb_eases ..

theorem engineFbFrame_eases (node rpm gear rate flags s) : GearsEase s (engineFbFrame node rpm gear rate flags s) := by
  unfold engineFbFrame
  split
  · exact .of_held (by simp)
  · exact engineFrame_eases ..

theorem classThree_eases (f s) : GearsEase s (classThree f s) := by
  unfold classThree
  split
  · exact engineFbFrame_eases ..
  · exact .of_held (by simp)
  · exact .of_held (by simp)

/-! ## Resets (R45, R133, R199) -/

theorem startCoreReset_eases (s) : GearsEase s (startCoreReset s) := .of_neutral fun e => by
  simp [startCoreReset, Piu.initial, ownGears, EngineRec.initial]

theorem loseSupply_eases (s) : GearsEase s (loseSupply s) := .of_neutral fun e => by
  simp [loseSupply, Piu.initial, ownGears, EngineRec.initial]

theorem unitsReset_neutral (sticky s e) : gears (unitsReset sticky s) e = .neutral := by
  simp [unitsReset, Piu.afterReset, ownGears, EngineRec.initial]

theorem endCoreReset_eases (s) : GearsEase s (endCoreReset s) := by
  have started : GearsEase s (unitsReset s.mgu.sticky (s.onNvs rereadSlots)) := .of_neutral (unitsReset_neutral _ _)
  exact started.held (by simp [endCoreReset])

theorem endScan_eases (s) : GearsEase s (endScan s) := by
  have started : GearsEase s (unitsReset (Vector.replicate 27 false) (s.onNvs scanStore)) := .of_neutral (unitsReset_neutral _ _)
  exact started.held (by simp [endScan])

/-! ## Reports of frames that a port has sent or lost (section 8.4): one of RESET-CORE's response begins the core reset (R199) -/

theorem frameLost_eases (failed o s) : GearsEase s (frameLost failed o s) := by
  unfold frameLost
  split
  · exact .ite (.of_held (by simp)) (.refl s)
  · exact .of_held (by simp)
  · exact .of_held (by simp)
  · exact startCoreReset_eases s
  all_goals exact .refl s

theorem frameAcked_eases (seg e s) : GearsEase s (frameAcked seg e s) := by
  unfold frameAcked
  split
  · exact .of_held (by simp)
  · exact startCoreReset_eases s
  all_goals exact .of_held (by simp)

theorem endSending_eases {k : TxEntry → State → State} (hk : ∀ e u, GearsEase u (k e u)) (seg f s) :
    GearsEase s (endSending seg f k s) := by
  have left : ∀ g, GearsEase s (s.onPort seg g) := fun g => .of_held (by simp)
  unfold endSending
  split
  · exact .refl s
  · dsimp only
    split
    · exact left _
    · exact (left _).trans (hk ..)

theorem failSending_eases (seg f s) : GearsEase s (failSending seg f s) := endSending_eases (fun _ _ => frameLost_eases ..) seg f s

theorem reportFlushed_eases (l s) : GearsEase s (reportFlushed l s) :=
  .foldl (fun _ _ => .whenRunning (frameLost_eases ..)) l s

theorem isolatePort_eases (seg s) : GearsEase s (isolatePort seg s) := by
  unfold isolatePort
  dsimp only
  refine GearsEase.trans ?_ (.whenRunning (.of_held ?_))
  · have flushed : gears (flushPort seg (closeWindow seg (s.onPort seg fun c => { c with state := .isolated, line := .waitIdle }))).2 =
        gears s := by simp [flushPort]
    exact (GearsEase.of_held flushed).trans (reportFlushed_eases _ _)
  · split <;> simp

theorem serveReset_eases (node s) : GearsEase s (serveReset node s) := by
  unfold serveReset
  refine GearsEase.trans (.of_held (by simp)) (.foldl (fun u f => ?_) _ _)
  have kept := handResponse_piu .mguReset f u
  split <;> rename_i e <;> rw [e] at kept
  · exact .of_held (by rw [gears, kept])
  · exact GearsEase.trans (.of_held (by rw [gears, kept])) (startCoreReset_eases _)

theorem partRequest_eases (f s) : GearsEase s (partRequest f s) := by
  have malformed : GearsEase s (serveMalformed f s) := .of_held (by simp)
  unfold partRequest
  refine .ite ?_ (.ite ?_ (.ite ?_ malformed))
  · split
    · exact .of_held (by simp)
    · exact malformed
  · split
    · exact .of_held (by simp)
    · exact malformed
  · split
    · exact serveReset_eases ..
    · exact malformed

theorem classEight_eases (f s) : GearsEase s (classEight f s) := by
  exact .ite (.of_held (by simp)) (.ite (.of_held (by simp)) (.ite (.of_held (by simp)) (.ite (.of_held (by simp))
    (partRequest_eases f s))))

end Sys2Proof.Machine

/-! # The commands that hold the gears of the own engines -/

namespace Sys2Proof.Machine

/-- The answer is a next state with the commanded gears of the own engines of `s`. -/
def HoldsGears (s : State) (o : Host.Outcome State Fault Refusal) : Prop := ∃ t, o = .next t ∧ gears t = gears s

section HoldsGears
variable {s : State}

theorem HoldsGears.next {t : State} (h : gears t = gears s) : HoldsGears s (.next t) := ⟨t, rfl, h⟩

theorem HoldsGears.running {k : State → State} (h : gears (k s) = gears s) : HoldsGears s (.next (whenRunning s k)) :=
  .next (whenRunning_gears h)

theorem HoldsGears.expiry {timer : State → Timer} {k : State → State} (h : ∀ u, gears (k u) = gears u) :
    HoldsGears s (.next (whenRunning s fun s => onExpiry (timer s) s k)) :=
  .running (onExpiry_gears h _ s)

theorem HoldsGears.serving {k : State → State} (h : gears (k s) = gears s) : HoldsGears s (.next (whenServing s k)) :=
  .next (whenServing_gears h)

theorem HoldsGears.station {node : Node} {k : Fin 4 → State → State} (h : ∀ i u, gears (k i u) = gears u) :
    HoldsGears s (.next (whenRunning s (stationFrame node k))) :=
  .running (stationFrame_gears h node s)

end HoldsGears

section Meanings
variable (s : State)

/-! ## Commands that branch on the state before they act -/

theorem supplyOn_holds (strap : Role) : HoldsGears s (execSupplyOn strap s) := by
  refine .next ?_
  split <;> rfl

theorem freshnessTimerExpiry_holds (i : Fin 4) : HoldsGears s (execFreshnessTimerExpiry i s) := by
  refine .expiry fun u => ?_
  extract_lets s1
  split <;> simp [s1]

theorem transferTimerExpiry_holds : HoldsGears s (execTransferTimerExpiry s) := by
  refine .expiry fun u => ?_
  split <;> simp

theorem unknownNodeFrame_holds (f : Frame) : HoldsGears s (execUnknownNodeFrame f s) := by
  refine .running ?_
  split <;> simp

theorem pollRoundTimerExpiry_holds : HoldsGears s (execPollRoundTimerExpiry s) := by
  refine .expiry fun u => ?_
  extract_lets s1
  split <;> simp [s1]

theorem armTimerExpiry_holds : HoldsGears s (execArmTimerExpiry s) := by
  refine .running ?_
  split <;> simp

theorem releaseAnswerTimerExpiry_holds : HoldsGears s (execReleaseAnswerTimerExpiry s) := by
  refine .running ?_
  split <;> simp

theorem meterSilenceTimerExpiry_holds (i : Fin 12) : HoldsGears s (execMeterSilenceTimerExpiry i s) := by
  refine .running ?_
  split <;> simp

theorem jumpListAgeOut_holds (i : Fin 12) : HoldsGears s (execJumpListAgeOut i s) := by
  refine .running ?_
  split
  · rfl
  · split <;> simp

theorem refreshTimerExpiry_holds : HoldsGears s (execRefreshTimerExpiry s) := by
  refine .expiry fun u => ?_
  rw [foldl_gears fun _ _ => by simp, foldl_gears sendEngine_gears]
  rfl

theorem laneLossTimerExpiry_holds (lane : Lane) (other : Bool) : HoldsGears s (execLaneLossTimerExpiry lane other s) := by
  refine .expiry fun u => ?_
  extract_lets s1 both
  have kept : gears s1 = gears u := by simp [s1]
  split
  · simp [apply_ite gears, kept]
  · simp [apply_ite gears, kept]
  · simp [apply_ite gears, kept]
  all_goals exact kept

theorem laneErrorAgeOut_holds (lane : Lane) : HoldsGears s (execLaneErrorAgeOut lane s) := by
  refine .running ?_
  split <;> simp

theorem creditRefreshTimerExpiry_holds : HoldsGears s (execCreditRefreshTimerExpiry s) := by
  refine .expiry fun u => (foldl_gears (fun u q => ?_) _ _).trans rfl
  extract_lets x
  split
  · rfl
  · split <;> simp
  · split <;> simp

theorem frameOffer_holds (seg : Segment) : HoldsGears s (execFrameOffer seg s) := by
  refine .running ?_
  split
  · split <;> simp
  · rfl

theorem arbitrationLoss_holds (seg : Segment) : HoldsGears s (execArbitrationLoss seg s) := by
  refine .running ?_
  split <;> simp

theorem busBreak_holds (seg : Segment) : HoldsGears s (execBusBreak seg s) := by
  refine .running ?_
  split
  · cases seg <;> simp
  · rfl

theorem portRestart_holds (seg : Segment) : HoldsGears s (execPortRestart seg s) := by
  refine .running ?_
  split <;> simp

/-! ## The ends of store operations -/

theorem bankEraseEnd_holds (ok : Bool) : HoldsGears s (execBankEraseEnd ok s) := by
  refine .running ?_
  split <;> simp

theorem blankCheckEnd_holds : HoldsGears s (execBlankCheckEnd s) := by
  refine .running ?_
  split <;> simp

theorem loadProgramEnd_holds (ok : Bool) : HoldsGears s (execLoadProgramEnd ok s) := by
  refine .running ?_
  split <;> simp

theorem headerFieldsProgramEnd_holds (ok : Bool) : HoldsGears s (execHeaderFieldsProgramEnd ok s) := by
  refine .running ?_
  split <;> simp

theorem markWordProgramEnd_holds (ok : Bool) : HoldsGears s (execMarkWordProgramEnd ok s) := by
  refine .running ?_
  split <;> simp

theorem commitCheckEnd_holds : HoldsGears s (execCommitCheckEnd s) := by
  refine .running ?_
  split <;> simp

theorem lockProgramEnd_holds (ok : Bool) : HoldsGears s (execLockProgramEnd ok s) := by
  refine .running ?_
  split <;> simp

theorem lockEraseEnd_holds (ok : Bool) : HoldsGears s (execLockEraseEnd ok s) := by
  refine .running ?_
  split <;> simp

theorem slotEraseEnd_holds (ok : Bool) : HoldsGears s (execSlotEraseEnd ok s) := by
  refine .running ?_
  split
  · cases ok <;> simp
  · rfl

theorem slotProgramEnd_holds (ok : Bool) : HoldsGears s (execSlotProgramEnd ok s) := by
  refine .running ?_
  split
  · cases ok <;> simp
  · rfl

end Meanings

/-- The commands on which the commanded gear of an own engine can change. -/
def turnsGears (c : Instr) : Bool :=
  match c with
  | .startUpScanEnd | .supplyLoss | .resetPinAssert | .coreResetEnd | .resetCore _ | .allocationCycle | .engineFb ..
  | .malformedFeedback _ | .hSetpointFrame _ | .engineFeedbackTimerExpiry _ | .acknowledgeSlot .. | .bitError _
  | .dominantRunNinthBit _ | .stuckBus _ | .switchingEnd | .malformedRequest _ => true
  | _ => false

theorem exec_holds_gears (c : Instr) (s : State) (hc : turnsGears c = false) : HoldsGears s (exec c s) := by
  cases c with
  | startUpScanEnd | supplyLoss | resetPinAssert | coreResetEnd | resetCore | allocationCycle | engineFb | malformedFeedback
  | hSetpointFrame | engineFeedbackTimerExpiry | acknowledgeSlot | bitError | dominantRunNinthBit | stuckBus | switchingEnd
  | malformedRequest => cases hc
  | supplyOn strap => exact supplyOn_holds s strap
  | resetPinRelease => exact .next rfl
  | take | give | takeForce | takeBack | joinGive | allStopClear => exact .station fun _ _ => by simp
  | allStop | helm | joinOffer | joinAccept | unjoin | rudderFb | report | malformedReport | recomputeCompletion | releaseArm
  | releaseGo | releaseFrameUnknownKind | releaseDone | meter | malformedMeter | tsReceived | linkFrameCrcError
  | creditAnnounce | creditConfirm | creditReturn | linkControlSend | dataSend | dataSendEnd => exact .running (by simp)
  | receiveFrame | dominantRunEnd | replyWindowAnswered | busIdle | data => exact .running (by simp [apply_ite gears])
  | presenceTimerExpiry | staleHoldTimerExpiry | joinAnswerTimerExpiry | setpointLossTimerExpiry | holdTimerExpiry
  | rudderFeedbackTimerExpiry | deviationTimerExpiry | pollAnswerTimerExpiry | fuelWindowTimerExpiry | checkpointTimerExpiry
  | isolationTimerExpiry | replyWindowExpiry | retryTimerExpiry | tsSendTimer | goodSetFix | trainingTimerExpiry
  | summaryTimerExpiry | loadIdleTimerExpiry => exact .expiry fun _ => by simp
  | identify | readRecord | readStatus | counterRead | counterClear | clearSticky | bankErase | bankBlankCheck | loadBegin
  | loadEnd | bankCommit | bankLock | bankUnlock | voyageOpen | voyageClose | bunker | setLineup | makeupConfirm =>
    exact .serving (by simp)
  | loadData => exact .serving (by simp [apply_ite gears])
  | freshnessTimerExpiry i => exact freshnessTimerExpiry_holds s i
  | transferTimerExpiry => exact transferTimerExpiry_holds s
  | unknownNodeFrame f => exact unknownNodeFrame_holds s f
  | refreshTimerExpiry => exact refreshTimerExpiry_holds s
  | pollRoundTimerExpiry => exact pollRoundTimerExpiry_holds s
  | armTimerExpiry => exact armTimerExpiry_holds s
  | releaseAnswerTimerExpiry => exact releaseAnswerTimerExpiry_holds s
  | meterSilenceTimerExpiry i => exact meterSilenceTimerExpiry_holds s i
  | jumpListAgeOut i => exact jumpListAgeOut_holds s i
  | laneLossTimerExpiry lane other => exact laneLossTimerExpiry_holds s lane other
  | laneErrorAgeOut lane => exact laneErrorAgeOut_holds s lane
  | creditRefreshTimerExpiry => exact creditRefreshTimerExpiry_holds s
  | frameOffer seg => exact frameOffer_holds s seg
  | arbitrationLoss seg => exact arbitrationLoss_holds s seg
  | busBreak seg => exact busBreak_holds s seg
  | portRestart seg => exact portRestart_holds s seg
  | bankEraseEnd ok => exact bankEraseEnd_holds s ok
  | blankCheckEnd => exact blankCheckEnd_holds s
  | loadProgramEnd ok => exact loadProgramEnd_holds s ok
  | headerFieldsProgramEnd ok => exact headerFieldsProgramEnd_holds s ok
  | markWordProgramEnd ok => exact markWordProgramEnd_holds s ok
  | commitCheckEnd => exact commitCheckEnd_holds s
  | lockProgramEnd ok => exact lockProgramEnd_holds s ok
  | lockEraseEnd ok => exact lockEraseEnd_holds s ok
  | slotEraseEnd ok => exact slotEraseEnd_holds s ok
  | slotProgramEnd ok => exact slotProgramEnd_holds s ok

end Sys2Proof.Machine

/-! # No own engine is reversed but through NEUTRAL (R51) -/

namespace Sys2Proof.Machine

/-! ## The relation -/

/-- Between the two driven gears. -/
def Reverses (g h : Gear) : Prop := (g = .ahead ∧ h = .astern) ∨ (g = .astern ∧ h = .ahead)

/-- From `s` to `t` the commanded gear of no own engine goes from AHEAD to ASTERN or back. -/
structure NoReversal (s t : State) : Prop where
  each : ∀ e, ¬Reverses (gears s e) (gears t e)

section Relation
variable {s t u : State} {g : Gear}

theorem not_reverses_self : ¬Reverses g g := by
  rintro (⟨rfl, h⟩ | ⟨rfl, h⟩) <;> cases h

theorem not_reverses_neutral : ¬Reverses g .neutral := by
  rintro (⟨-, h⟩ | ⟨-, h⟩) <;> cases h

theorem not_reverses_of_eases {g h : Gear} (e : h = g ∨ h = .neutral) : ¬Reverses g h := by
  rcases e with rfl | rfl
  · exact not_reverses_self
  · exact not_reverses_neutral

theorem NoReversal.of_eases (h : GearsEase s t) : NoReversal s t := ⟨fun e => not_reverses_of_eases (h.each e)⟩

theorem NoReversal.of_held (h : gears t = gears s) : NoReversal s t := .of_eases (.of_held h)

theorem NoReversal.refl (s : State) : NoReversal s s := .of_held rfl

theorem NoReversal.held (h : NoReversal s t) (k : gears u = gears t) : NoReversal s u := ⟨fun e => by rw [k]; exact h.each e⟩

theorem NoReversal.after_held (k : gears t = gears s) (h : NoReversal t u) : NoReversal s u :=
  ⟨fun e => by rw [← k]; exact h.each e⟩

theorem NoReversal.ite {c : Prop} [Decidable c] (ht : NoReversal s t) (hu : NoReversal s u) :
    NoReversal s (if c then t else u) := by
  split <;> assumption

theorem NoReversal.whenRunning {k : State → State} (h : NoReversal s (k s)) : NoReversal s (whenRunning s k) := by
  unfold Machine.whenRunning
  split
  · exact h
  all_goals exact .refl s

theorem NoReversal.whenServing {k : State → State} (h : NoReversal s (k s)) : NoReversal s (whenServing s k) :=
  .whenRunning (.ite (.refl s) h)

theorem NoReversal.onExpiry {k : State → State} (h : ∀ u, NoReversal u (k u)) (x : Timer) : NoReversal s (onExpiry x s k) := by
  cases x with
  | none => exact .refl s
  | some d => exact .after_held (t := s.upTo d) rfl (h _)

end Relation

/-! ## The gear machine and the setpoints of H (R51, R59) -/

theorem gearMachine_unreversed (e : EngineEntry) (r : EngineRec) (w : Gear) (now : Nat) :
    ¬Reverses r.gear (gearMachine e r w now).1 := by
  unfold gearMachine
  cases hg : r.gear with
  | neutral => rintro (⟨h, -⟩ | ⟨h, -⟩) <;> cases h
  | ahead =>
    cases w with
    | ahead => exact not_reverses_self
    | neutral | astern => exact not_reverses_neutral
  | astern =>
    cases w with
    | astern => exact not_reverses_self
    | neutral | ahead => exact not_reverses_neutral

theorem neutralWritten_gear (e : EngineEntry) (now : Nat) (r : EngineRec) : (neutralWritten e now r).gear = .neutral := by
  rw [neutralWritten, gearMachine_neutral, slotWritten]

theorem mappedWrite_unreversed (e : EngineEntry) (r : EngineRec) (g : Gear) (rpm now : Nat) :
    ¬Reverses r.gear (mappedWrite e r g rpm now).gear := by
  unfold mappedWrite
  split
  · exact gearMachine_unreversed e r g now
  · rw [neutralWritten_gear]
    exact not_reverses_neutral

theorem onEngine_unreversed {f : EngineRec → EngineRec} (hf : ∀ r, ¬Reverses r.gear (f r).gear) (i : Fin 6) (s : State) :
    NoReversal s (onEngine i f s) := by
  refine ⟨fun e => ?_⟩
  show ¬Reverses s.piu.engines[engineIx e].gear (updAt s.piu.engines i f)[engineIx e].gear
  rw [updAt_getFin]
  split
  · exact hf _
  · exact not_reverses_self

theorem writeMappedEngine_unreversed (i g rpm fresh s) : NoReversal s (writeMappedEngine i g rpm fresh s) := by
  refine onEngine_unreversed (fun r => ?_) i s
  exact mappedWrite_unreversed (engineEntry s i) r g rpm s.now

theorem classTwo_unreversed (f s) : NoReversal s (classTwo f s) := by
  have discarded : NoReversal s (discardSetpoint s) := .of_held (by simp)
  unfold classTwo
  split
  · exact .refl s
  · split
    · split
      · exact .ite (.after_held (by simp) (writeMappedEngine_unreversed ..)) discarded
      · exact discarded
    · exact .ite (.of_held (by simp)) discarded
    · exact discarded

/-! ## A swap of ALLOC and a cycle (R24, R30 to R40)

The swap can take an engine out of its gear, but then the engine is no longer AVAILABLE, and the cycle that follows drives AVAILABLE
engines only. -/

/-- The record has kept its gear, or it stands in NEUTRAL and is not AVAILABLE. -/
def Shelved (r z : EngineRec) : Prop := z.gear = r.gear ∨ (z.gear = .neutral ∧ z.avail ≠ .available)

theorem lostBySwap_shelved (now idle : Nat) (r : EngineRec) : Shelved r (lostBySwap now idle r) := by
  unfold lostBySwap madeLost
  by_cases h : r.avail = .available
  · exact .inr ⟨by rw [if_pos h]; rfl, nofun⟩
  · exact .inl (by rw [if_neg h])

theorem engineSwapped_shelved (old new : EngineEntry) (now : Nat) (r : EngineRec) : Shelved r (engineSwapped old new now r) := by
  unfold engineSwapped
  split
  · split
    · exact .inl rfl
    · exact lostBySwap_shelved ..
  · exact .inl rfl
  · exact lostBySwap_shelved now new.idle { r with retiring := none }
  · exact .inl rfl

theorem slotsLost_engines (x : State) : (slotsLost x).piu.engines = x.piu.engines := by
  rw [(slotsLost_told x).1.rest]
  split <;> rfl

theorem allocSwap_shelved (s : State) (i : Fin 6) : Shelved s.piu.engines[i] (allocSwap s).piu.engines[i] := by
  obtain ⟨p, step, -, engines, -⟩ := piuSwap_step (allocOf s) (csuSwap (allocOf s) (newTable s))
  have before : (csuSwap (allocOf s) (newTable s)).piu = s.piu := csuSwap_piu ..
  have after : (allocSwap s).piu.engines = p.engines := by
    rw [allocSwap_eq, answerCommit_piu, slotsLost_engines, tableSwapped, step.piu]
  simp only [after, engines, before]
  exact engineSwapped_shelved ..

section Cycle
variable {s : State} {x : AllocTable}

theorem joinedEngine_eases (i : Fin 6) (r : EngineRec) :
    (joinedEngine s x i r).gear = r.gear ∨ (joinedEngine s x i r).gear = .neutral := by
  unfold joinedEngine
  split
  · exact .inr (neutralWritten_gear ..)
  · split
    · exact .inr (neutralWritten_gear ..)
    · exact .inl rfl

theorem fullEngine_eases {i : Fin 6} (h : takesShare s x i = false) (d turn : Int) (r : EngineRec) :
    (fullEngine s x d turn i r).gear = r.gear ∨ (fullEngine s x d turn i r).gear = .neutral := by
  unfold fullEngine
  rw [h]
  split
  · exact .inr (neutralWritten_gear ..)
  · rw [if_neg Bool.false_ne_true]
    split
    · exact .inr (neutralWritten_gear ..)
    · exact .inl rfl

theorem fullEngine_unreversed (d turn : Int) (i : Fin 6) (r : EngineRec) : ¬Reverses r.gear (fullEngine s x d turn i r).gear := by
  by_cases h : takesShare s x i = true
  · unfold fullEngine
    rw [if_pos h]
    split
    · rw [neutralWritten_gear]
      exact not_reverses_neutral
    · exact gearMachine_unreversed _ r _ s.now
  · exact not_reverses_of_eases (fullEngine_eases (Bool.eq_false_iff.2 h) d turn r)

theorem takesShare_available {i : Fin 6} (h : takesShare s x i = true) : s.piu.engines[i].avail = .available := by
  have counts := ((takesShare_iff s x i).1 h).1
  unfold countsAvailable at counts
  simp only [Bool.and_eq_true, beq_iff_eq] at counts
  exact counts.1.2

theorem cycleEngineRec_unreversed (i : Fin 6) (r : EngineRec) : ¬Reverses r.gear (cycleEngineRec s x i r).gear := by
  unfold cycleEngineRec
  split
  · exact not_reverses_of_eases (joinedEngine_eases i r)
  · exact fullEngine_unreversed _ _ i r

theorem cycleEngineRec_shelved {i : Fin 6} (h : s.piu.engines[i].avail ≠ .available) (r : EngineRec) :
    (cycleEngineRec s x i r).gear = r.gear ∨ (cycleEngineRec s x i r).gear = .neutral := by
  unfold cycleEngineRec
  split
  · exact joinedEngine_eases i r
  · exact fullEngine_eases (Bool.eq_false_iff.2 fun c => h (takesShare_available c)) ..

/-- A cycle after a swap, or after nothing. -/
theorem runCycle_unreversed {r : EngineRec} {i : Fin 6} (h : Shelved r s.piu.engines[i]) :
    ¬Reverses r.gear (runCycle s).piu.engines[i].gear := by
  cases table : allocOf s with
  | none =>
    have idle : runCycle s = s := by unfold runCycle; rw [table]
    rw [idle]
    exact not_reverses_of_eases (h.imp_right And.left)
  | some x =>
    have wrote : (runCycle s).piu.engines[i] = cycleEngineRec s x i s.piu.engines[i] := by
      have engines : (runCycle s).piu.engines = (groupsSteered s x).piu.engines := by
        rw [runCycle_eq table]
        split
        · rfl
        · rw [noPropulsion_piu]
      simp only [engines]
      exact groupsSteered_engine i
    rw [wrote]
    rcases h with kept | ⟨neutral, unavailable⟩
    · rw [← kept]
      exact cycleEngineRec_unreversed i _
    · have eased := cycleEngineRec_shelved (x := x) unavailable s.piu.engines[i]
      rw [neutral, or_self] at eased
      rw [eased]
      exact not_reverses_neutral

theorem allocationCycle_unreversed (s : State) : ∃ t, execAllocationCycle s = .next t ∧ NoReversal s t := by
  refine ⟨_, rfl, .whenRunning (.onExpiry (fun u => ⟨fun e => ?_⟩) _)⟩
  extract_lets s1
  split
  · exact runCycle_unreversed (allocSwap_shelved s1 (engineIx e))
  · exact runCycle_unreversed (.inl rfl)

end Cycle

/-! ## A frame out of the switch (section 8.8) -/

theorem giveUnit_unreversed (f s) : NoReversal s (giveUnit f s) := by
  unfold giveUnit
  split
  case h_3 => exact classTwo_unreversed f s
  case h_4 => exact .of_eases (classThree_eases f s)
  case h_9 => exact .ite (.refl s) (.of_eases (classEight_eases f s))
  case h_10 => exact .refl s
  all_goals exact .of_held (by simp)

theorem applyOutcome_unreversed (x s) : NoReversal s (applyOutcome x s) := by
  unfold applyOutcome
  extract_lets d s1 s2
  have given : NoReversal s s2 := .ite (.after_held (t := s1) rfl (giveUnit_unreversed ..)) (.of_held rfl)
  exact given.held (whenRunning_gears (foldl_gears (fun _ _ => by simp) _ _))

theorem switchingEnd_unreversed (s : State) : ∃ t, execSwitchingEnd s = .next t ∧ NoReversal s t := by
  refine ⟨_, rfl, .whenRunning ?_⟩
  split
  · exact .refl s
  · rename_i x _
    extract_lets s1
    have applied : NoReversal s (applyOutcome x s1) := .after_held (t := s1) rfl (applyOutcome_unreversed x s1)
    refine applied.held (whenRunning_gears ?_)
    simp [apply_ite State.piu]

/-! ## Every command -/

theorem exec_unreversed (c : Instr) (s : State) : ∃ t, exec c s = .next t ∧ NoReversal s t := by
  cases turns : turnsGears c with
  | false =>
    obtain ⟨t, runs, held⟩ := exec_holds_gears c s turns
    exact ⟨t, runs, .of_held held⟩
  | true =>
    cases c with
    | startUpScanEnd =>
      refine ⟨_, exec_startUpScanEnd s, .of_eases (.ite (.ite ?_ (endScan_eases s)) (.refl s))⟩
      exact (endScan_eases s).trans (startCoreReset_eases _)
    | supplyLoss =>
      refine ⟨_, rfl, .of_eases ?_⟩
      split
      · exact .refl s
      all_goals exact loseSupply_eases s
    | resetPinAssert =>
      refine ⟨_, rfl, .of_eases ?_⟩
      split
      · exact (startCoreReset_eases s).held rfl
      all_goals exact .of_held rfl
    | coreResetEnd => exact ⟨_, exec_coreResetEnd s, .of_eases (.ite (endCoreReset_eases s) (.refl s))⟩
    | resetCore node => exact ⟨_, rfl, .whenServing (.of_eases (serveReset_eases node s))⟩
    | allocationCycle => exact allocationCycle_unreversed s
    | engineFb => exact ⟨_, rfl, .whenRunning (.of_eases (engineFbFrame_eases ..))⟩
    | malformedFeedback f => exact ⟨_, rfl, .whenRunning (.of_eases (classThree_eases f s))⟩
    | hSetpointFrame f => exact ⟨_, rfl, .whenRunning (classTwo_unreversed f s)⟩
    | engineFeedbackTimerExpiry i => exact ⟨_, rfl, .whenRunning (.onExpiry (fun u => .of_eases (engineSilent_eases i u)) _)⟩
    | acknowledgeSlot seg =>
      exact ⟨_, rfl, .whenRunning (.of_eases (.ite (endSending_eases (frameAcked_eases seg) ..) (failSending_eases ..)))⟩
    | bitError => exact ⟨_, rfl, .whenRunning (.of_eases (failSending_eases ..))⟩
    | dominantRunNinthBit seg =>
      refine ⟨_, rfl, .whenRunning (.of_eases (.ite (GearsEase.trans (.of_held ?_) (failSending_eases ..)) (.refl s)))⟩
      simp
    | stuckBus seg => exact ⟨_, rfl, .whenRunning (.of_eases (.ite (isolatePort_eases seg s) (.refl s)))⟩
    | switchingEnd => exact switchingEnd_unreversed s
    | malformedRequest f => exact ⟨_, rfl, .whenServing (.of_eases (classEight_eases f s))⟩
    | _ => cases turns

/-- Settles O25: every command answers a next state, and it reverses no own engine. -/
theorem noReversalWithoutNeutral : Obligations.NoReversalWithoutNeutral := by
  unfold Obligations.NoReversalWithoutNeutral
  intro c s t i own runs
  obtain ⟨u, ran, unreversed⟩ := exec_unreversed c s
  cases ran.symm.trans runs
  have apart : ¬Reverses s.piu.engines[i].gear t.piu.engines[i].gear := unreversed.each ⟨i.val, own⟩
  exact ⟨fun h => apart (.inl h), fun h => apart (.inr h)⟩

end Sys2Proof.Machine

/-! # RUDDER-FB (R44, R47, R61, R62) -/

namespace Sys2Proof.Machine

section Alarms
variable {x y : State} {p : Piu} {off : Alarm → Subject → Prop} {a : Alarm} {j : Subject}

theorem PiuStep.clears (h : PiuStep x y p off) (o : off a j) : isRaised a j y = false :=
  Bool.eq_false_iff.2 fun r => ((h.alarms a j).1 r).2 o

theorem PiuStep.leaves (h : PiuStep x y p off) (o : ¬off a j) : isRaised a j y = isRaised a j x := by
  rw [Bool.eq_iff_iff, h.alarms, and_iff_left o]

end Alarms

/-! ## A frame that the interface does not take (R47) -/

theorem classThree_malformed {f : Frame}
    (h : (f.kind ≠ 1 ∧ f.kind ≠ 2) ∨ (f.kind = 1 ∧ f.payload.length ≠ 6) ∨ (f.kind = 2 ∧ f.payload.length ≠ 2))
    (s : State) : classThree f s = countMalformedFeedback s := by
  have kind : ∀ k : BitVec 6, f.kind.toNat = k.toNat → f.kind = k := fun _ => BitVec.eq_of_toNat_eq
  unfold classThree
  split
  · rename_i hk hp
    simp [kind 1 hk, hp] at h
  · rename_i hk hp
    simp [kind 2 hk, hp] at h
  · rfl

/-! ## The record that a frame goes to (R61) -/

/-- The record of a rudder group takes the frames of a node. -/
def rudderTakes (s : State) (n : Node) (i : Fin 3) : Prop := (rudderOf s i).configured = true ∧ (rudderOf s i).fbNode = n.toNat

theorem rudderTakes_iff (s : State) (n : Node) (i : Fin 3) :
    rudderTakes s n i ↔ ((rudderOf s i).configured && (rudderOf s i).fbNode == n.toNat) = true := by
  rw [rudderTakes, Bool.and_eq_true, beq_iff_eq]

theorem rudderByFeedback_none {s : State} {n : Node} (h : ∀ i, ¬rudderTakes s n i) : rudderByFeedback s n = none :=
  Fin.find?_eq_find?_finRange.symm.trans
    (Fin.find?_eq_none_iff.2 fun i => Bool.eq_false_iff.2 (mt (rudderTakes_iff s n i).2 (h i)))

theorem rudderByFeedback_first {s : State} {n : Node} {i : Fin 3} (hi : rudderTakes s n i)
    (h : ∀ j, j < i → ¬rudderTakes s n j) : rudderByFeedback s n = some i :=
  Fin.find?_eq_find?_finRange.symm.trans (Fin.find?_eq_some_iff.2
    ⟨(rudderTakes_iff s n i).1 hi, fun j hj => Bool.eq_false_iff.2 (mt (rudderTakes_iff s n j).2 (h j hj))⟩)

/-! ## The record after the frame (R61, R62) -/

/-- Nothing to compare: no angle is commanded. -/
theorem evaluated_unset {now : Nat} {r : RudderRec} (h : r.angle = none) : deviationAt now r = r.deviation ∧ ¬Settled r := by
  constructor
  · unfold deviationAt
    split
    · rename_i ha _
      exact nomatch h.symm.trans ha
    · rfl
  · rintro ⟨a, fb, -, ha, -, -⟩
    exact nomatch h.symm.trans ha

section Compared
variable {now : Nat} {r : RudderRec} {a : Int} {fb : RudderFeedback} (hv : r.avail = .available) (ha : r.angle = some a)
  (hf : r.feedback = some fb)
include hv ha hf

theorem evaluated_far (far : 50 < (a - fb.angle).natAbs) :
    deviationAt now r = some (r.deviation.getD (now + 2000 * Config.usPerMs)) ∧ ¬Settled r :=
  ⟨(deviationAt_compared hv ha hf).trans (if_pos far), fun h => Nat.not_le.2 far ((settled_compared hv ha hf).1 h)⟩

theorem evaluated_near (near : (a - fb.angle).natAbs ≤ 50) : deviationAt now r = none ∧ Settled r :=
  ⟨(deviationAt_compared hv ha hf).trans (if_neg (Nat.not_lt.2 near)), (settled_compared hv ha hf).2 near⟩

end Compared

/-- A reported angle stored, before the deviation is evaluated. -/
def angleStored (now : Nat) (angle : Int) (r : RudderRec) : RudderRec :=
  { r with feedback := some { angle := angle, time := now }, timer := some (now + 600 * Config.usPerMs), avail := .available }

theorem takeRudderFb_step (i : Fin 3) (angle : Int) (s : State) : PiuStep s (takeRudderFb i angle s)
    { s.piu with rudders := updAt s.piu.rudders i fun r => evaluated s.now (angleStored s.now angle r) }
    fun a j => j = .rudder i ∧
      (a = .rudderLost ∨ (a = .rudderFault ∧ Settled (angleStored s.now angle s.piu.rudders[i]))) := by
  have stored := PiuStep.quiet s fun p => { p with rudders := updAt p.rudders i (angleStored s.now angle) }
  have found := stored.trans (PiuStep.cleared _ .rudderLost (.rudder i))
  have judged := found.trans (evalDeviation_step i _)
  have record : (updAt s.piu.rudders i (angleStored s.now angle))[i] = angleStored s.now angle s.piu.rudders[i] :=
    updAt_getFin_same ..
  refine judged.congr ?_ fun a j => ?_
  · simp only [clearAlarm_piu, found.now]
    show ({ s.piu with rudders := updAt (updAt s.piu.rudders i _) i _ } : Piu) = _
    rw [updAt_updAt]
    rfl
  · simp only [clearAlarm_piu, State.onPiu_piu, record]
    tauto

/-- Settles O30: the record is the first that takes the frame, and its deviation is evaluated with the angle just stored. -/
theorem rudderFeedbackTaken : Obligations.RudderFeedbackTaken := by
  unfold Obligations.RudderFeedbackTaken
  intro s hr
  refine ⟨fun f hf => ?_, ?_⟩
  · refine congrArg Host.Outcome.next ((whenRunning_run hr _).trans ?_)
    rw [classThree_malformed hf]
    rfl
  intro n angle takes
  refine ⟨fun hn => ?_, fun i hi hfirst => ?_⟩
  · refine congrArg Host.Outcome.next ((whenRunning_run hr _).trans ?_)
    rw [rudderFbFrame, rudderByFeedback_none hn]
    rfl
  intro r stored
  have runs : exec (.rudderFb n angle) s = .next (takeRudderFb i angle.toInt s) := by
    refine congrArg Host.Outcome.next ((whenRunning_run hr _).trans ?_)
    rw [rudderFbFrame, rudderByFeedback_first hi hfirst]
  have step := takeRudderFb_step i angle.toInt s
  have record : (takeRudderFb i angle.toInt s).piu.rudders[i] = stored (deviationAt s.now (angleStored s.now angle.toInt r)) := by
    simp only [step.piu]
    exact updAt_getFin_same ..
  refine ⟨_, runs, ?_, step.clears ⟨rfl, .inl rfl⟩, fun ha => ?_, fun a ha => ⟨fun far => ?_, fun near => ?_⟩⟩
  · rw [record]
    exact step.told
  · obtain ⟨same, unsettled⟩ := evaluated_unset (now := s.now) (r := angleStored s.now angle.toInt r) ha
    rw [record, same]
    exact ⟨rfl, step.leaves fun h => unsettled (h.2.resolve_left nofun).2⟩
  · obtain ⟨starts, unsettled⟩ := evaluated_far (now := s.now) (r := angleStored s.now angle.toInt r) rfl ha rfl far
    rw [record, starts]
    exact ⟨rfl, step.leaves fun h => unsettled (h.2.resolve_left nofun).2⟩
  · obtain ⟨stops, settled⟩ := evaluated_near (now := s.now) (r := angleStored s.now angle.toInt r) rfl ha rfl near
    rw [record, stops]
    exact ⟨rfl, step.clears ⟨rfl, .inr ⟨rfl, settled⟩⟩⟩

end Sys2Proof.Machine

/-! # The feedback timers and the deviation timer (R49, R50, R61, R62) -/

namespace Sys2Proof.Machine

/-! ## An engine (R49, R50) -/

theorem engineOf_onEngine {f : EngineRec → EngineRec} (hf : ∀ r, (f r).retiring = r.retiring) (i : Fin 6) (s : State) :
    engineOf (onEngine i f s) i = engineOf s i := by
  have entry : (updAt s.piu.engines i f)[i].retiring = s.piu.engines[i].retiring := by
    rw [updAt_getFin_same, hf]
  exact congrArg (·.getD (engineEntry s i)) entry

section Engine
variable (i : Fin 6) (s : State)

/-- The record of an engine whose feedback has run out. -/
def silenced (r : EngineRec) : EngineRec := madeLost s.now (engineOf s i).idle { r with timer := none }

/-- The record silenced, and ENGINE-FAULT cleared at an engine that was FAULTED. -/
def faultEnded : State :=
  if s.piu.engines[i].avail == .faulted then clearAlarm .engineFault (.engine i) (onEngine i (silenced i s) s)
  else onEngine i (silenced i s) s

theorem engineSilent_eq : engineSilent i s = raiseAlarm .engineLost (.engine i) (faultEnded i s) := by
  have idle : engineOf (onEngine i ({ · with timer := none }) s) i = engineOf s i := by
    rw [engineOf_onEngine]
    exact fun _ => rfl
  have record : setAvail i .lost 0 (onEngine i ({ · with timer := none }) s) = onEngine i (silenced i s) s := by
    rw [setAvail_lost, idle, onEngine_onEngine]
    rfl
  unfold engineSilent faultEnded
  rw [record]

theorem faultEnded_told : Told (onEngine i (silenced i s) s) (faultEnded i s) := by
  unfold faultEnded
  split
  · exact clearAlarm_told ..
  · exact .refl _

theorem isRaised_faultEnded : isRaised .engineFault (.engine i) (faultEnded i s) =
    (isRaised .engineFault (.engine i) s && !decide (s.piu.engines[i].avail = .faulted)) := by
  unfold faultEnded
  by_cases h : s.piu.engines[i].avail = .faulted
  · rw [if_pos (beq_iff_eq.2 h), not_isRaised_cleared, decide_eq_true h]
    simp
  · rw [if_neg (mt beq_iff_eq.1 h), decide_eq_false h, Bool.not_false, Bool.and_true]
    rfl

end Engine

theorem onRudder_onRudder (i : Fin 3) (f g : RudderRec → RudderRec) (s : State) :
    onRudder i g (onRudder i f s) = onRudder i (g ∘ f) s :=
  congrArg (fun v => s.onPiu fun p => { p with rudders := v }) (updAt_updAt s.piu.rudders i f g)

/-- Settles O31: each expiry changes one record and raises one alarm; ENGINE-FAULT is cleared before. -/
theorem feedbackTimersExpire : Obligations.FeedbackTimersExpire := by
  unfold Obligations.FeedbackTimersExpire
  intro s d hr later
  refine ⟨fun i ht => ?_, fun i ht => ?_, fun i ht => ?_⟩
  · intro r lost stopped
    have runs : exec (.engineFeedbackTimerExpiry i) s = .next (engineSilent i (s.upTo d)) :=
      congrArg Host.Outcome.next (expiry_runs (timer := fun s => s.piu.engines[i].timer) (k := fun _ => engineSilent i) hr ht)
    have record : silenced i (s.upTo d) r = if r.avail = .available then stopped else lost := by
      unfold silenced madeLost
      split
      · rfl
      · rfl
    rw [engineSilent_eq] at runs
    refine ⟨_, runs, ?_, isRaised_raised .., ?_⟩
    · rw [← record]
      exact (faultEnded_told i (s.upTo d)).trans (raiseAlarm_told ..)
    · rw [isRaised_raiseAlarm_of_ne (by simp)]
      exact isRaised_faultEnded i (s.upTo d)
  · have runs : exec (.rudderFeedbackTimerExpiry i) s = .next (rudderSilent i (s.upTo d)) :=
      congrArg Host.Outcome.next (expiry_runs (timer := fun s => s.piu.rudders[i].timer) (k := fun _ => rudderSilent i) hr ht)
    rw [rudderSilent, rudderLost, onRudder_onRudder] at runs
    exact ⟨_, runs, raiseAlarm_told .., isRaised_raised .., isRaised_raiseAlarm_of_ne (by simp)⟩
  · exact ⟨_, congrArg Host.Outcome.next (expiry_runs (timer := fun s => s.piu.rudders[i].deviation)
      (k := fun _ s => raiseAlarm .rudderFault (.rudder i) (onRudder i ({ · with deviation := none }) s)) hr ht),
      raiseAlarm_told .., isRaised_raised ..⟩

end Sys2Proof.Machine

/-! # Setpoints from H (R58, R59, R62) -/

namespace Sys2Proof.Machine

/-! ## The bytes of a setpoint frame -/

theorem beNat_pair (a b : Byte) : beNat [a, b] = 256 * a.toNat + b.toNat := by
  show (0 * 256 + a.toNat) * 256 + b.toNat = _
  omega

theorem signed16_beNat (a b : Byte) : signed16 (beNat [a, b]) = (a ++ b).toInt := by
  have pair : beNat [a, b] = (a ++ b).toNat := by
    rw [beNat_pair, BitVec.toNat_append, ← Nat.shiftLeft_add_eq_or_of_lt b.isLt, Nat.shiftLeft_eq, Nat.mul_comm]
  rw [signed16, pair, BitVec.ofNat_toNat, BitVec.setWidth_eq]

/-! ## The slot that a frame names (R58) -/

/-- The record of an own engine is mapped and named by a node. -/
def mappedTo (s : State) (n : Node) (i : Fin 6) : Prop :=
  i.val < 4 ∧ (engineEntry s i).configured = true ∧ (engineEntry s i).source ≠ .own ∧ (engineEntry s i).setNode = n.toNat

theorem mappedTo_iff (s : State) (n : Node) (i : Fin 6) : mappedTo s n i ↔
    (decide (i.val < 4) && (engineEntry s i).configured && (engineEntry s i).source != .own &&
      (engineEntry s i).setNode == n.toNat) = true := by
  rw [mappedTo, Bool.and_eq_true, Bool.and_eq_true, Bool.and_eq_true, decide_eq_true_eq, bne_iff_ne, beq_iff_eq, and_assoc,
    and_assoc]

theorem mappedEngine_none {s : State} {n : Node} (h : ∀ i, ¬mappedTo s n i) : mappedEngine s n = none :=
  Fin.find?_eq_find?_finRange.symm.trans
    (Fin.find?_eq_none_iff.2 fun i => Bool.eq_false_iff.2 (mt (mappedTo_iff s n i).2 (h i)))

theorem mappedEngine_first {s : State} {n : Node} {i : Fin 6} (hi : mappedTo s n i) (h : ∀ j, j < i → ¬mappedTo s n j) :
    mappedEngine s n = some i :=
  Fin.find?_eq_find?_finRange.symm.trans (Fin.find?_eq_some_iff.2
    ⟨(mappedTo_iff s n i).1 hi, fun j hj => Bool.eq_false_iff.2 (mt (mappedTo_iff s n j).2 (h j hj))⟩)

/-- RS is mapped and named by a node. -/
def rudderMappedTo (s : State) (n : Node) : Prop :=
  (rudderOf s 0).configured = true ∧ (rudderOf s 0).fromXs = true ∧ (rudderOf s 0).setNode = n.toNat

theorem mappedRudder_iff (s : State) (n : Node) : mappedRudder s n = true ↔ rudderMappedTo s n := by
  rw [mappedRudder, Bool.and_eq_true, Bool.and_eq_true, beq_iff_eq, and_assoc, rudderMappedTo]

/-! ## What a helper does with a class 2 frame (R58) -/

section Frames
variable {s : State} {n : Node} {g a b q x : Byte} {gear : Gear} {i : Fin 6} (hh : s.role = .helper)
include hh

theorem classTwo_discards {f : Frame} (h : (f.kind ≠ 1 ∧ f.kind ≠ 2) ∨ (f.kind = 1 ∧ f.payload.length ≠ 5) ∨
    (f.kind = 2 ∧ f.payload.length ≠ 4) ∨ ¬isJoined s = true ∨ (f.kind = 1 ∧ ∀ i, ¬mappedTo s f.node i) ∨
    (f.kind = 2 ∧ ¬rudderMappedTo s f.node)) : classTwo f s = discardSetpoint s := by
  have kind : ∀ k : BitVec 6, f.kind.toNat = k.toNat → f.kind = k := fun _ => BitVec.eq_of_toNat_eq
  unfold classTwo
  rw [hh]
  dsimp only
  split
  · rename_i hk hp
    simp only [kind 1 hk, hp] at h
    split
    · rename_i gear i _ named
      refine if_neg fun c => ?_
      have unjoined : ¬isJoined s = true := by
        rcases h with h | h | h | h | h | h
        · exact absurd rfl h.1
        · exact absurd rfl h.2
        · exact absurd h.1 (by decide)
        · exact h
        · rw [mappedEngine_none h.2] at named; cases named
        · exact absurd h.1 (by decide)
      exact unjoined (Bool.and_eq_true _ _ ▸ c).1
    · rfl
  · rename_i hk hp
    simp only [kind 2 hk, hp] at h
    refine if_neg fun c => ?_
    simp only [Bool.and_eq_true, mappedRudder_iff] at c
    obtain ⟨⟨joined, -⟩, named⟩ := c
    rcases h with h | h | h | h | h | h
    · exact h.2 rfl
    · exact absurd h.1 (by decide)
    · exact h.2 rfl
    · exact h joined
    · exact absurd h.1 (by decide)
    · exact h.2 named
  · rfl

theorem classTwo_engine_unknown (h : gearOf g = none ∨ mappedEngine s n = none) :
    classTwo { cls := 2, node := n, kind := 1, payload := [g, a, b, q, x] } s = discardSetpoint s := by
  unfold classTwo
  rw [hh]
  rcases h with h | h <;> simp [h]

theorem classTwo_engine (hg : gearOf g = some gear) (hm : mappedEngine s n = some i) :
    classTwo { cls := 2, node := n, kind := 1, payload := [g, a, b, q, x] } s =
      if isJoined s && flag x 1 then writeMappedEngine i gear (beNat [a, b]) (flag x 0) (setpointTaken s)
      else discardSetpoint s := by
  unfold classTwo
  rw [hh]
  simp [hg, hm]

theorem classTwo_rudder : classTwo { cls := 2, node := n, kind := 2, payload := [a, b, q, x] } s =
    if isJoined s && flag x 1 && mappedRudder s n then
      writeMappedRudder (signed16 (beNat [a, b])) (flag x 0) (setpointTaken s)
    else discardSetpoint s := by
  unfold classTwo
  rw [hh]
  rfl

theorem classTwo_engine_discards (h : flag x 1 = false ∨ 2 < g.toNat) :
    classTwo { cls := 2, node := n, kind := 1, payload := [g, a, b, q, x] } s = discardSetpoint s := by
  cases hg : gearOf g with
  | none => exact classTwo_engine_unknown hh (.inl hg)
  | some gear =>
    cases hm : mappedEngine s n with
    | none => exact classTwo_engine_unknown hh (.inr hm)
    | some i =>
      have off : flag x 1 = false := h.resolve_right fun high => nomatch (gearOf_none high).symm.trans hg
      rw [classTwo_engine hh hg hm, off, Bool.and_false, if_neg Bool.false_ne_true]

theorem classTwo_engine_takes (hj : isJoined s = true) (hx : flag x 1 = true) (hg : gearOf g = some gear)
    (hm : mappedEngine s n = some i) : classTwo { cls := 2, node := n, kind := 1, payload := [g, a, b, q, x] } s =
      writeMappedEngine i gear (beNat [a, b]) (flag x 0) (setpointTaken s) := by
  rw [classTwo_engine hh hg hm, hj, hx, Bool.true_and, if_pos rfl]

theorem classTwo_rudder_discards (h : flag x 1 = false) :
    classTwo { cls := 2, node := n, kind := 2, payload := [a, b, q, x] } s = discardSetpoint s := by
  rw [classTwo_rudder hh, h, Bool.and_false, Bool.false_and, if_neg Bool.false_ne_true]

theorem classTwo_rudder_takes (hj : isJoined s = true) (hx : flag x 1 = true) (hm : rudderMappedTo s n) :
    classTwo { cls := 2, node := n, kind := 2, payload := [a, b, q, x] } s =
      writeMappedRudder (signed16 (beNat [a, b])) (flag x 0) (setpointTaken s) := by
  rw [classTwo_rudder hh, hj, hx, (mappedRudder_iff s n).2 hm, Bool.true_and, Bool.true_and, if_pos rfl]

end Frames

/-- The state in which a setpoint writes its slot: plain JOINED, the setpoint loss timer restarted. -/
def setpointHeard (s : State) : State := { s with
  csu := { s.csu with join := .joined, hold := none, setpointLoss := some (s.now + 300 * Config.usPerMs) } }

theorem setpointTaken_joined {s : State} (h : isJoined s = true) : setpointTaken s = setpointHeard s := if_pos h

/-! ## The slot of an engine (R59) -/

section Engine
variable {e : EngineEntry} {r : EngineRec} {g : Gear} {rpm now : Nat}

theorem mappedFresh_eq (old new : EngineRec) (fresh : Bool) : mappedFresh old new fresh =
    (fresh || old.fresh || !old.filled || decide (old.gear ≠ new.gear) || decide (old.rpm ≠ new.rpm)) := by
  have gears : (old.gear != new.gear) = decide (old.gear ≠ new.gear) := by rw [Bool.eq_iff_iff, bne_iff_ne, decide_eq_true_eq]
  have rpms : (old.rpm != new.rpm) = decide (old.rpm ≠ new.rpm) := by rw [Bool.eq_iff_iff, bne_iff_ne, decide_eq_true_eq]
  rw [mappedFresh, gears, rpms]

theorem mappedWrite_neutral (h : r.avail = .available → gearMachine e r g now = gearMachine e r .neutral now) :
    mappedWrite e r g rpm now = madeNeutral now e.idle r := by
  unfold mappedWrite
  split
  · rename_i ha
    rw [h ha, gearMachine_neutral]
    rfl
  · exact neutralWritten_eq ..

theorem mappedWrite_driven (ha : r.avail = .available) (hg : g ≠ .neutral)
    (h : r.gear = g ∨ (r.gear = .neutral ∧ engages e r now = true)) :
    mappedWrite e r g rpm now = slotWritten r (g, r.neutralSince) (underCap e r g (rpmInGear e g rpm)) := by
  unfold mappedWrite
  rw [if_pos ha, gearMachine_driven hg h]
  exact congrArg (slotWritten r (g, r.neutralSince)) (if_neg hg)

end Engine

/-! ## The slot of the rudder (R59, R62) -/

/-- An angle from H written, before the deviation is evaluated. -/
def mappedAngle (v : Int) (fresh : Bool) (r : RudderRec) : RudderRec :=
  { r with angle := some v, fresh := fresh || r.fresh || decide (r.angle ≠ some v) }

theorem writeMappedRudder_step (angle : Int) (fresh : Bool) (s : State) :
    PiuStep s (writeMappedRudder angle fresh s)
      { s.piu with rudders := updAt s.piu.rudders 0 fun r =>
          evaluated s.now (mappedAngle (clampSym angle (rudderOf s 0).limit) fresh r) }
      fun a j => a = .rudderFault ∧ j = .rudder 0 ∧
        Settled (mappedAngle (clampSym angle (rudderOf s 0).limit) fresh s.piu.rudders[0]) := by
  have written : writeMappedRudder angle fresh s =
      evalDeviation 0 (onRudder 0 (mappedAngle (clampSym angle (rudderOf s 0).limit) fresh) s) := by
    unfold writeMappedRudder mappedAngle
    simp only [bne, beq_eq_decide, ne_eq, decide_not]
  generalize clampSym angle (rudderOf s 0).limit = v at written ⊢
  have stored := PiuStep.quiet s fun p => { p with rudders := updAt p.rudders 0 (mappedAngle v fresh) }
  have record : (updAt s.piu.rudders 0 (mappedAngle v fresh))[(0 : Fin 3)] = mappedAngle v fresh s.piu.rudders[0] :=
    updAt_getFin_same ..
  rw [written]
  refine (stored.trans (evalDeviation_step 0 _)).congr ?_ fun a j => ?_
  · show ({ s.piu with rudders := updAt (updAt s.piu.rudders 0 _) 0 _ } : Piu) = _
    rw [updAt_updAt]
    rfl
  · rw [false_or]
    exact and_congr_right fun _ => and_congr_right fun _ => by rw [← record]; rfl

/-! ## A setpoint taken -/

/-- The record of an engine that a setpoint has written. -/
def mappedEngineRec (e : EngineEntry) (gear : Gear) (rpm now : Nat) (fresh : Bool) (r : EngineRec) : EngineRec :=
  { mappedWrite e r gear rpm now with fresh := mappedFresh r (mappedWrite e r gear rpm now) fresh }

section Written
variable {e : EngineEntry} {r : EngineRec} {g : Gear} {rpm now : Nat} {fresh : Bool}

/-- The record that a write leaves, by its gear, its rpm and the time of its NEUTRAL. -/
def refreshed (r : EngineRec) (fresh : Bool) (g : Gear) (rpm since : Nat) : EngineRec :=
  { r with gear := g, rpm := rpm, neutralSince := since, filled := true,
           fresh := fresh || r.fresh || !r.filled || decide (r.gear ≠ g) || decide (r.rpm ≠ rpm) }

theorem mappedEngineRec_neutral (h : r.avail = .available → gearMachine e r g now = gearMachine e r .neutral now) :
    mappedEngineRec e g rpm now fresh r =
      refreshed r fresh .neutral e.idle (if r.gear = .neutral then r.neutralSince else now) := by
  rw [mappedEngineRec, mappedWrite_neutral h, mappedFresh_eq]
  rfl

theorem mappedEngineRec_driven (ha : r.avail = .available) (hg : g ≠ .neutral)
    (h : r.gear = g ∨ (r.gear = .neutral ∧ engages e r now = true)) :
    mappedEngineRec e g rpm now fresh r =
      refreshed r fresh g (underCap e r g (max e.idle (min rpm (maxOf e g)))) r.neutralSince := by
  rw [mappedEngineRec, mappedWrite_driven ha hg h, mappedFresh_eq]
  rfl

end Written

/-- Settles O32: a frame is discarded, or writes the first slot that it names through the gear machine or the evaluation. -/
theorem helperTakesSetpoints : Obligations.HelperTakesSetpoints := by
  unfold Obligations.HelperTakesSetpoints
  intro s n q x hr hh discarded joined took mapped rudder
  have runs : ∀ f, exec (.hSetpointFrame f) s = .next (classTwo f s) := fun f =>
    congrArg Host.Outcome.next (whenRunning_run hr _)
  have is : joined → isJoined s = true := (isJoined_iff s).2
  have heard : joined → setpointTaken s = setpointHeard s := fun hj => setpointTaken_joined (is hj)
  refine ⟨fun f hn h => ?_, fun g a b h => ?_, fun a b h => ?_, fun g a b gear i hj hx hg hi hfirst => ?_, fun a b hj hx hm => ?_⟩
  · subst hn
    rw [runs, classTwo_discards hh]
    · rfl
    · rw [isJoined_iff]
      exact h
  · rw [runs, classTwo_engine_discards hh h]
    rfl
  · rw [runs, classTwo_rudder_discards hh h]
    rfl
  · intro r c rpm may wrote neutral driven
    have engaged : engages c r s.now = true ↔ may := engages_iff c r s.now
    refine ⟨mappedEngineRec c gear rpm s.now (x.getLsbD 0) r, ?_, fun h => ?_, fun _ _ hn ha => ?_, fun _ _ hn hm => ?_,
      fun ha h => ⟨?_, ?_⟩⟩
    · rw [runs, classTwo_engine_takes hh (is hj) hx hg (mappedEngine_first hi hfirst), heard hj, beNat_pair]
      rfl
    · refine mappedEngineRec_neutral fun ha => ?_
      rw [h.resolve_left (· ha)]
    · exact mappedEngineRec_neutral fun _ => gearMachine_held (.inl ⟨ha, hn⟩)
    · exact mappedEngineRec_neutral fun _ => gearMachine_held (.inr ⟨hn, mt engaged.1 hm⟩)
    · rintro rfl
      exact mappedEngineRec_driven ha nofun (h.imp_right (And.imp_right engaged.2))
    · rintro rfl
      exact mappedEngineRec_driven ha nofun (h.imp_right (And.imp_right engaged.2))
  · intro l v
    have step := writeMappedRudder_step (signed16 (beNat [a, b])) (flag x 0) (setpointHeard s)
    have wrote := runs { cls := 2, node := n, kind := 2, payload := [a, b, q, x] }
    rw [classTwo_rudder_takes hh (is hj) hx hm, heard hj] at wrote
    have limited : clampSym (signed16 (beNat [a, b])) (rudderOf (setpointHeard s) 0).limit = v := by
      rw [signed16_beNat]
      rfl
    rw [limited] at step
    revert step wrote
    generalize writeMappedRudder (signed16 (beNat [a, b])) (flag x 0) (setpointHeard s) = t
    intro step wrote
    have record : t.piu.rudders[0] = evaluated s.now (mappedAngle v (flag x 0) s.piu.rudders[0]) := by
      simp only [step.piu]
      exact updAt_getFin_same ..
    have slot : updAt (setpointHeard s).piu.rudders 0
          (fun r => evaluated (setpointHeard s).now (mappedAngle v (flag x 0) r)) =
        updAt s.piu.rudders 0 fun r => { mappedAngle v (flag x 0) r with deviation := t.piu.rudders[0].deviation } :=
      updAt_congr _ (by rw [record]; rfl)
    refine ⟨t, wrote, ?_, ?_⟩
    · have told := step.told
      rw [slot] at told
      exact told
    intro r z
    rw [show z = _ from record]
    refine ⟨fun fb ha hf => ⟨fun far => ?_, fun near => ?_⟩, fun h => ?_⟩
    · obtain ⟨starts, unsettled⟩ := evaluated_far (now := s.now) (r := mappedAngle v (flag x 0) r) ha rfl hf far
      refine ⟨starts.trans ?_, step.leaves fun h => unsettled h.2.2⟩
      show some (r.deviation.getD _) = _
      cases r.deviation <;> rfl
    · obtain ⟨stops, settled⟩ := evaluated_near (now := s.now) (r := mappedAngle v (flag x 0) r) ha rfl hf near
      exact ⟨stops, step.clears ⟨rfl, rfl, settled⟩⟩
    · obtain ⟨same, unsettled⟩ := evaluated_uncompared (now := s.now) (r := mappedAngle v (flag x 0) r) h
      exact ⟨same, step.leaves fun h => unsettled h.2.2⟩

end Sys2Proof.Machine

/-! # The refresh (R53, R54) -/

namespace Sys2Proof.Machine

/-! ## Frames handed one after the other to one queue of a port or of the link -/

/-- The frames that a transmit queue of a segment port still takes: none while the port is ISOLATED. -/
def portRoom (c : PortCtl) (q : Fin 4) : Nat := if c.state = .isolated then 0 else 16 - c.tx[q].length

/-- The port after the frames `l` were handed to its queue `q`. -/
def portAfter (c : PortCtl) (q : Fin 4) (l : List TxEntry) : PortCtl :=
  if c.state = .isolated then { c with flushDrop := satInc^[l.length] c.flushDrop }
  else { c with tx := updAt c.tx q (· ++ l.take (portRoom c q)),
                txDrop := updAt c.txDrop q satInc^[l.length - portRoom c q] }

/-- The frames that a queue of the link still takes: none in DOWN, in ROLE-MISMATCH, and while the queue is DISABLED. -/
def linkRoom (h : Hlc) (q : Fin 4) : Nat :=
  if (h.state = .down ∨ h.state = .roleMismatch) ∨ h.queues[q].state = .disabled then 0 else 32 - h.queues[q].tx.length

/-- The link after the frames `l` were handed to its queue `q`. -/
def linkAfter (h : Hlc) (q : Fin 4) (l : List TxEntry) : Hlc :=
  if h.state = .down ∨ h.state = .roleMismatch then { h with flushDrop := satInc^[l.length] h.flushDrop }
  else if h.queues[q].state = .disabled then { h with disabledDrop := satInc^[l.length] h.disabledDrop }
  else { h with queues := updAt h.queues q fun x =>
    { x with tx := x.tx ++ l.take (linkRoom h q), txDrop := satInc^[l.length - linkRoom h q] x.txDrop } }

section Handed
variable (c : PortCtl) (h : Hlc) (q : Fin 4)

theorem portAfter_nil : portAfter c q [] = c := by
  have tx : updAt c.tx q (· ++ [].take (portRoom c q)) = c.tx := updAt_eq_self _ (by simp)
  have drops : updAt c.txDrop q satInc^[([] : List TxEntry).length - portRoom c q] = c.txDrop := updAt_eq_self _ (by simp)
  unfold portAfter
  rw [tx, drops]
  split <;> rfl

theorem linkAfter_nil : linkAfter h q [] = h := by
  have queues : (updAt h.queues q fun x =>
      { x with tx := x.tx ++ [].take (linkRoom h q),
               txDrop := satInc^[([] : List TxEntry).length - linkRoom h q] x.txDrop }) = h.queues :=
    updAt_eq_self _ (by simp)
  unfold linkAfter
  rw [queues]
  split
  · rfl
  · split <;> rfl

theorem take_concat_of_lt {α : Type} {l : List α} {room : Nat} (a : α) (hl : l.length < room) :
    (l ++ [a]).take room = l.take room ++ [a] ∧ (l ++ [a]).length - room = l.length - room := by
  rw [List.take_of_length_le (by simp; omega), List.take_of_length_le hl.le]
  exact ⟨rfl, by simp; omega⟩

theorem take_concat_of_le {α : Type} {l : List α} {room : Nat} (a : α) (hl : room ≤ l.length) :
    (l ++ [a]).take room = l.take room ∧ (l ++ [a]).length - room = (l.length - room) + 1 := by
  rw [List.take_append_of_le_length hl]
  exact ⟨rfl, by simp; omega⟩

theorem handPort_after {t : State} {l : List TxEntry} {f : Frame} {o : Origin} (hc : t.pcp = portAfter c q l)
    (hq : classQueue t .p f.cls = q) :
    handPort .p f o t = ({ t with pcp := portAfter c q (l ++ [⟨f, o⟩]) }, decide (l.length < portRoom c q)) := by
  unfold handPort
  simp only [State.port_p, State.onPort_p, segPort, hq]
  by_cases hi : c.state = .isolated
  · have room : portRoom c q = 0 := if_pos hi
    simp only [hc, hi, room, portAfter, if_true, List.length_append, List.length_singleton,
      Function.iterate_succ_apply', Nat.not_lt_zero, decide_false]
  · have state : t.pcp.state ≠ .isolated := by rw [hc, portAfter, if_neg hi]; exact hi
    have room : portRoom c q = 16 - c.tx[q].length := if_neg hi
    have length : t.pcp.tx[q].length = c.tx[q].length + min (portRoom c q) l.length := by
      rw [hc, portAfter, if_neg hi]
      simp only [updAt_getFin_same, List.length_append, List.length_take]
    have fits : t.pcp.tx[q].length < Config.segmentDepth ↔ l.length < portRoom c q := by
      rw [length]
      show _ < 16 ↔ _
      omega
    split
    · rename_i e; exact absurd e state
    by_cases hl : l.length < portRoom c q
    · obtain ⟨taken, dropped⟩ := take_concat_of_lt (⟨f, o⟩ : TxEntry) hl
      rw [if_pos (fits.2 hl), decide_eq_true hl, hc]
      simp only [portAfter, if_neg hi, updAt_updAt, taken, dropped]
      simp only [Function.comp_def, List.append_assoc]
    · obtain ⟨taken, dropped⟩ := take_concat_of_le (⟨f, o⟩ : TxEntry) (Nat.not_lt.1 hl)
      rw [if_neg (mt fits.1 hl), decide_eq_false hl, hc]
      simp only [portAfter, if_neg hi, updAt_updAt, taken, dropped, Function.iterate_succ']

theorem handLink_after {t : State} {l : List TxEntry} {f : Frame} {o : Origin} (hh : t.hlc = linkAfter h q l)
    (hq : classQueue t .h f.cls = q) :
    handLink f o t = ({ t with hlc := linkAfter h q (l ++ [⟨f, o⟩]) }, decide (l.length < linkRoom h q)) := by
  unfold handLink State.onHlc
  simp only [hq, Bool.or_eq_true, decide_eq_true_eq]
  by_cases hd : h.state = .down ∨ h.state = .roleMismatch
  · have state : t.hlc.state = .down ∨ t.hlc.state = .roleMismatch := by rw [hh, linkAfter, if_pos hd]; exact hd
    have room : linkRoom h q = 0 := if_pos (.inl hd)
    rw [if_pos state, hh]
    simp only [room, linkAfter, if_pos hd, List.length_append, List.length_singleton,
      Function.iterate_succ_apply', Nat.not_lt_zero, decide_false]
  have up : ¬(t.hlc.state = .down ∨ t.hlc.state = .roleMismatch) := by
    rw [hh, linkAfter, if_neg hd]
    split <;> exact hd
  rw [if_neg up]
  by_cases hx : h.queues[q].state = .disabled
  · have state : t.hlc.queues[q].state = .disabled := by rw [hh, linkAfter, if_neg hd, if_pos hx]; exact hx
    have room : linkRoom h q = 0 := if_pos (.inr hx)
    rw [if_pos state, hh]
    simp only [room, linkAfter, if_neg hd, if_pos hx, List.length_append, List.length_singleton,
      Function.iterate_succ_apply', Nat.not_lt_zero, decide_false]
  have queue : t.hlc.queues[q] = { h.queues[q] with
      tx := h.queues[q].tx ++ l.take (linkRoom h q), txDrop := satInc^[l.length - linkRoom h q] h.queues[q].txDrop } := by
    rw [hh, linkAfter, if_neg hd, if_neg hx]
    exact updAt_getFin_same ..
  have enabled : t.hlc.queues[q].state ≠ .disabled := by rw [queue]; exact hx
  have room : linkRoom h q = 32 - h.queues[q].tx.length := if_neg (not_or.2 ⟨hd, hx⟩)
  have fits : t.hlc.queues[q].tx.length < Config.linkDepth ↔ l.length < linkRoom h q := by
    rw [queue, List.length_append, List.length_take]
    show _ < 32 ↔ _
    omega
  rw [if_neg enabled]
  by_cases hl : l.length < linkRoom h q
  · obtain ⟨taken, dropped⟩ := take_concat_of_lt (⟨f, o⟩ : TxEntry) hl
    rw [if_pos (fits.2 hl), decide_eq_true hl, hh]
    simp only [linkAfter, if_neg hd, if_neg hx, updAt_updAt, taken, dropped]
    simp only [Function.comp_def, List.append_assoc]
  · obtain ⟨taken, dropped⟩ := take_concat_of_le (⟨f, o⟩ : TxEntry) (Nat.not_lt.1 hl)
    rw [if_neg (mt fits.1 hl), decide_eq_false hl, hh]
    simp only [linkAfter, if_neg hd, if_neg hx, updAt_updAt, taken, dropped, Function.iterate_succ_apply']
    rfl

end Handed

/-! ## The slots and their frames (R53, R54) -/

section Slots
variable (s : State)

def engineSlotFrame (i : Fin 6) : Frame :=
  engineSetFrame (engineOf s i).setNode s.piu.engines[i] (isX i && leadJoined s)

def rudderSlotFrame (i : Fin 3) (a : Int) : Frame :=
  rudderSetFrame (rudderOf s i).setNode s.piu.rudders[i] a (i == xs && leadJoined s)

/-- The frame of an engine slot, if the slot is filled. -/
def engineSlot (i : Fin 6) : Option TxEntry := if s.piu.engines[i].filled then some ⟨engineSlotFrame s i, .piu⟩ else none

/-- The frame of a rudder slot, if the slot has an angle. -/
def rudderSlot (i : Fin 3) : Option TxEntry := s.piu.rudders[i].angle.map fun a => ⟨rudderSlotFrame s i a, .piu⟩

/-- The slots whose frames go to P, and those whose frames go to H. -/
def slotsP : List (Option TxEntry) :=
  [engineSlot s 0, engineSlot s 1, engineSlot s 2, engineSlot s 3, rudderSlot s 0, rudderSlot s 1]

def slotsH : List (Option TxEntry) := [engineSlot s 4, engineSlot s 5, rudderSlot s 2]

/-- The frames of the first `k` slots. -/
def framesOf (slots : List (Option TxEntry)) (k : Nat) : List TxEntry := (slots.take k).filterMap id

theorem framesOf_succ {slots : List (Option TxEntry)} {k : Nat} {o : Option TxEntry} (h : slots[k]? = some o) :
    framesOf slots (k + 1) = framesOf slots k ++ o.toList := by
  unfold framesOf
  rw [List.take_add_one, h, List.filterMap_append]
  cases o <;> rfl

/-- The slot sent: its fresh flag cleared, the next sequence taken. -/
def engineSent (r : EngineRec) : EngineRec := if r.filled then { r with fresh := false, seq := (r.seq + 1) % 256 } else r

def rudderSent (r : RudderRec) : RudderRec :=
  if r.angle = none then r else { r with fresh := false, seq := (r.seq + 1) % 256 }

/-- The frame of the slot after the first `k` enters. -/
def entersP (k : Nat) : Bool := decide ((framesOf (slotsP s) k).length < portRoom s.pcp (classQueue s .p 2))

def entersH (k : Nat) : Bool := decide ((framesOf (slotsH s) k).length < linkRoom s.hlc (classQueue s .h 2))

/-- The frame of an engine slot, and of a rudder slot, enters. -/
def engineEnters (i : Fin 6) : Bool := if isX i then entersH s (i.val - 4) else entersP s i.val

def rudderEnters (i : Fin 3) : Bool := if i = xs then entersH s 2 else entersP s (4 + i.val)

/-- The record of an engine, and of a rudder, after the refresh. -/
def engineRefreshed (i : Fin 6) : EngineRec := if engineEnters s i then engineSent s.piu.engines[i] else s.piu.engines[i]

def rudderRefreshed (i : Fin 3) : RudderRec := if rudderEnters s i then rudderSent s.piu.rudders[i] else s.piu.rudders[i]

/-- A row whose first `k` elements are replaced. -/
def rowUpTo {α : Type} {n : Nat} (new old : Fin n → α) (k : Nat) : Vector α n :=
  Vector.ofFn fun i => if i.val < k then new i else old i

/-- The state after the first `e` engine slots and the first `r` rudder slots: the ports by the frames handed to them so far, the
records by what became of their own frames. -/
def handedOn (e r : Nat) : State := { s with
  pcp := portAfter s.pcp (classQueue s .p 2) (framesOf (slotsP s) (min e 4 + min r 2)),
  hlc := linkAfter s.hlc (classQueue s .h 2) (framesOf (slotsH s) (e - 4 + (r - 2))),
  piu := { s.piu with engines := rowUpTo (engineRefreshed s) (fun i => s.piu.engines[i]) e,
                      rudders := rowUpTo (rudderRefreshed s) (fun i => s.piu.rudders[i]) r } }

end Slots

section Rows
variable {α : Type} {n : Nat} {new old : Fin n → α}

theorem rowUpTo_get (k : Nat) (i : Fin n) : (rowUpTo new old k)[i] = if i.val < k then new i else old i :=
  Vector.getElem_ofFn ..

theorem rowUpTo_zero (v : Vector α n) : rowUpTo new (fun i => v[i]) 0 = v :=
  row_ext fun i => (rowUpTo_get 0 i).trans (if_neg (Nat.not_lt_zero _))

theorem rowUpTo_succ (k : Fin n) {f : α → α} (h : f (old k) = new k) :
    updAt (rowUpTo new old k.val) k f = rowUpTo new old (k.val + 1) := by
  refine row_ext fun i => ?_
  rw [updAt_getFin, rowUpTo_get, rowUpTo_get]
  by_cases e : k = i
  · subst e
    rw [if_pos rfl, if_neg (lt_irrefl _), if_pos (Nat.lt_succ_self _), h]
  · have order : i.val < k.val ↔ i.val < k.val + 1 := by
      have : k.val ≠ i.val := fun h => e (Fin.ext h)
      omega
    rw [if_neg e]
    exact if_congr order rfl rfl

end Rows

/-! ## One slot handed on -/

section Send
variable {t u : State} {b : Bool} {l : List TxEntry}

/-- The record of a slot after its frame was handed on: sent, if the frame entered. -/
def engineSentIf (b : Bool) (r : EngineRec) : EngineRec := if b then engineSent r else r

def rudderSentIf (b : Bool) (r : RudderRec) : RudderRec := if b then rudderSent r else r

theorem engineSentIf_empty {r : EngineRec} (h : r.filled = false) : engineSentIf b r = r := by
  have kept : engineSent r = r := if_neg (by rw [h]; exact Bool.false_ne_true)
  rw [engineSentIf, kept, ite_self]

theorem rudderSentIf_empty {r : RudderRec} (h : r.angle = none) : rudderSentIf b r = r := by
  have kept : rudderSent r = r := if_pos h
  rw [rudderSentIf, kept, ite_self]

theorem onEngine_kept {i : Fin 6} {f : EngineRec → EngineRec} (h : f t.piu.engines[i] = t.piu.engines[i]) : onEngine i f t = t :=
  congrArg (fun v => t.onPiu fun p => { p with engines := v }) (updAt_eq_self t.piu.engines h)

theorem onRudder_kept {i : Fin 3} {f : RudderRec → RudderRec} (h : f t.piu.rudders[i] = t.piu.rudders[i]) : onRudder i f t = t :=
  congrArg (fun v => t.onPiu fun p => { p with rudders := v }) (updAt_eq_self t.piu.rudders h)

theorem sendEngine_empty {i : Fin 6} (h : t.piu.engines[i].filled = false) : sendEngine t i = t :=
  if_neg (by rw [h]; exact Bool.false_ne_true)

theorem sendEngine_filled {i : Fin 6} (h : t.piu.engines[i].filled = true)
    (handed : (if isX i then handLink (engineSlotFrame t i) .piu t else handPort .p (engineSlotFrame t i) .piu t) = (u, b))
    (hu : u.piu = t.piu) : sendEngine t i = onEngine i (engineSentIf b) u := by
  unfold engineSlotFrame at handed
  unfold sendEngine
  rw [if_pos h]
  dsimp only
  rw [handed]
  cases b with
  | false => exact (onEngine_kept rfl).symm
  | true =>
    have sent : engineSentIf true u.piu.engines[i] =
        { u.piu.engines[i] with fresh := false, seq := (u.piu.engines[i].seq + 1) % 256 } := by
      rw [engineSentIf, if_pos rfl, engineSent, if_pos (by rw [hu]; exact h)]
    exact congrArg (fun v => u.onPiu fun p => { p with engines := v }) (updAt_congr u.piu.engines sent.symm)

theorem sendEngine_p {c : PortCtl} {i : Fin 6} (hi : isX i = false) (hc : t.pcp = portAfter c (classQueue t .p 2) l) :
    sendEngine t i = onEngine i (engineSentIf (decide (l.length < portRoom c (classQueue t .p 2))))
      { t with pcp := portAfter c (classQueue t .p 2) (l ++ (engineSlot t i).toList) } := by
  unfold engineSlot
  cases h : t.piu.engines[i].filled with
  | false =>
    simp only [Bool.false_eq_true, if_false, Option.toList_none, List.append_nil, ← hc]
    rw [sendEngine_empty h]
    exact (onEngine_kept (engineSentIf_empty h)).symm
  | true =>
    refine sendEngine_filled h ?_ rfl
    rw [hi, if_neg Bool.false_ne_true]
    exact handPort_after c _ hc rfl

theorem sendEngine_h {x : Hlc} {i : Fin 6} (hi : isX i = true) (hh : t.hlc = linkAfter x (classQueue t .h 2) l) :
    sendEngine t i = onEngine i (engineSentIf (decide (l.length < linkRoom x (classQueue t .h 2))))
      { t with hlc := linkAfter x (classQueue t .h 2) (l ++ (engineSlot t i).toList) } := by
  unfold engineSlot
  cases h : t.piu.engines[i].filled with
  | false =>
    simp only [Bool.false_eq_true, if_false, Option.toList_none, List.append_nil, ← hh]
    rw [sendEngine_empty h]
    exact (onEngine_kept (engineSentIf_empty h)).symm
  | true =>
    refine sendEngine_filled h ?_ rfl
    rw [hi, if_pos rfl]
    exact handLink_after x _ hh rfl

theorem sendRudder_empty {i : Fin 3} (h : t.piu.rudders[i].angle = none) : sendRudder t i = t := by
  unfold sendRudder
  dsimp only
  rw [h]

theorem sendRudder_set {i : Fin 3} {a : Int} (h : t.piu.rudders[i].angle = some a)
    (handed : (if i = xs then handLink (rudderSlotFrame t i a) .piu t else handPort .p (rudderSlotFrame t i a) .piu t) = (u, b))
    (hu : u.piu = t.piu) : sendRudder t i = onRudder i (rudderSentIf b) u := by
  unfold rudderSlotFrame at handed
  unfold sendRudder
  dsimp only
  rw [h]
  dsimp only
  rw [handed]
  cases b with
  | false => exact (onRudder_kept rfl).symm
  | true =>
    have sent : rudderSentIf true u.piu.rudders[i] =
        { u.piu.rudders[i] with fresh := false, seq := (u.piu.rudders[i].seq + 1) % 256 } := by
      rw [rudderSentIf, if_pos rfl, rudderSent, if_neg (by rw [hu, h]; exact nofun)]
    exact congrArg (fun v => u.onPiu fun p => { p with rudders := v }) (updAt_congr u.piu.rudders sent.symm)

theorem sendRudder_p {c : PortCtl} {i : Fin 3} (hi : i ≠ xs) (hc : t.pcp = portAfter c (classQueue t .p 2) l) :
    sendRudder t i = onRudder i (rudderSentIf (decide (l.length < portRoom c (classQueue t .p 2))))
      { t with pcp := portAfter c (classQueue t .p 2) (l ++ (rudderSlot t i).toList) } := by
  unfold rudderSlot
  cases h : t.piu.rudders[i].angle with
  | none =>
    simp only [Option.map_none, Option.toList_none, List.append_nil, ← hc]
    rw [sendRudder_empty h]
    exact (onRudder_kept (rudderSentIf_empty h)).symm
  | some a =>
    refine sendRudder_set h ?_ rfl
    rw [if_neg hi]
    exact handPort_after c _ hc rfl

theorem sendRudder_h {x : Hlc} (hh : t.hlc = linkAfter x (classQueue t .h 2) l) :
    sendRudder t xs = onRudder xs (rudderSentIf (decide (l.length < linkRoom x (classQueue t .h 2))))
      { t with hlc := linkAfter x (classQueue t .h 2) (l ++ (rudderSlot t xs).toList) } := by
  unfold rudderSlot
  cases h : t.piu.rudders[xs].angle with
  | none =>
    simp only [Option.map_none, Option.toList_none, List.append_nil, ← hh]
    rw [sendRudder_empty h]
    exact (onRudder_kept (rudderSentIf_empty h)).symm
  | some a =>
    refine sendRudder_set h ?_ rfl
    rw [if_pos rfl]
    exact handLink_after x _ hh rfl

end Send

/-! ## The slots handed on in their order -/

theorem foldl_finRange_steps {α : Type} {n : Nat} {f : α → Fin n → α} (g : Nat → α)
    (h : ∀ i : Fin n, f (g i.val) i = g (i.val + 1)) : (List.finRange n).foldl f (g 0) = g n := by
  induction n generalizing g with
  | zero => rfl
  | succ n ih =>
    have first : f (g 0) 0 = g 1 := h 0
    rw [List.finRange_succ, List.foldl_cons, List.foldl_map, first]
    exact ih (fun k => g (k + 1)) fun i => h i.succ

section Order
variable (s : State)

theorem handedOn_zero : handedOn s 0 0 = s := by
  have port : portAfter s.pcp (classQueue s .p 2) (framesOf (slotsP s) (min 0 4 + min 0 2)) = s.pcp := portAfter_nil ..
  have link : linkAfter s.hlc (classQueue s .h 2) (framesOf (slotsH s) (0 - 4 + (0 - 2))) = s.hlc := linkAfter_nil ..
  unfold handedOn
  rw [port, link, rowUpTo_zero, rowUpTo_zero]

theorem engineSlot_handedOn {e : Nat} (r : Nat) {i : Fin 6} (h : e ≤ i.val) : engineSlot (handedOn s e r) i = engineSlot s i := by
  have record : (handedOn s e r).piu.engines[i] = s.piu.engines[i] := (rowUpTo_get e i).trans (if_neg (Nat.not_lt.2 h))
  have entry : engineOf (handedOn s e r) i = engineOf s i := by
    unfold engineOf
    rw [record]
    rfl
  unfold engineSlot engineSlotFrame
  rw [record, entry]
  rfl

theorem rudderSlot_handedOn (e : Nat) {r : Nat} {i : Fin 3} (h : r ≤ i.val) : rudderSlot (handedOn s e r) i = rudderSlot s i := by
  have record : (handedOn s e r).piu.rudders[i] = s.piu.rudders[i] := (rowUpTo_get r i).trans (if_neg (Nat.not_lt.2 h))
  unfold rudderSlot rudderSlotFrame
  rw [record]
  rfl

theorem sendEngine_handedOn_p {i : Fin 6} (h : i.val < 4) : sendEngine (handedOn s i.val 0) i = handedOn s (i.val + 1) 0 := by
  have own : isX i = false := decide_eq_false (Nat.not_le.2 h)
  have slot : (slotsP s)[i.val]? = some (engineSlot s i) := by
    match i with
    | 0 | 1 | 2 | 3 => rfl
  have frames : framesOf (slotsP s) (min i.val 4 + min 0 2) ++ (engineSlot s i).toList =
      framesOf (slotsP s) (min (i.val + 1) 4 + min 0 2) := by
    rw [Nat.min_eq_left h.le, Nat.min_eq_left h]
    exact (framesOf_succ slot).symm
  have others : i.val - 4 = i.val + 1 - 4 := by omega
  have record : engineSentIf (entersP s (min i.val 4 + min 0 2)) s.piu.engines[i] = engineRefreshed s i := by
    rw [engineRefreshed, engineEnters, own, Nat.min_eq_left h.le]
    rfl
  rw [sendEngine_p own (c := s.pcp) (l := framesOf (slotsP s) (min i.val 4 + min 0 2)) rfl, engineSlot_handedOn s 0 le_rfl]
  show ({ handedOn s i.val 0 with
    pcp := portAfter s.pcp (classQueue s .p 2) (framesOf (slotsP s) (min i.val 4 + min 0 2) ++ (engineSlot s i).toList),
    piu := { (handedOn s i.val 0).piu with engines := updAt (rowUpTo _ _ i.val) i _ } } : State) = _
  rw [frames, rowUpTo_succ i record]
  unfold handedOn
  rw [← others]

theorem sendEngine_handedOn_h {i : Fin 6} (h : 4 ≤ i.val) : sendEngine (handedOn s i.val 0) i = handedOn s (i.val + 1) 0 := by
  have other : isX i = true := decide_eq_true h
  have slot : (slotsH s)[i.val - 4]? = some (engineSlot s i) := by
    match i with
    | 4 | 5 => rfl
  have frames : framesOf (slotsH s) (i.val - 4 + (0 - 2)) ++ (engineSlot s i).toList =
      framesOf (slotsH s) (i.val + 1 - 4 + (0 - 2)) := by
    rw [Nat.sub_add_comm h]
    exact (framesOf_succ slot).symm
  have own : min i.val 4 = min (i.val + 1) 4 := by omega
  have record : engineSentIf (entersH s (i.val - 4 + (0 - 2))) s.piu.engines[i] = engineRefreshed s i := by
    rw [engineRefreshed, engineEnters, other]
    rfl
  rw [sendEngine_h other (x := s.hlc) (l := framesOf (slotsH s) (i.val - 4 + (0 - 2))) rfl, engineSlot_handedOn s 0 le_rfl]
  show ({ handedOn s i.val 0 with
    hlc := linkAfter s.hlc (classQueue s .h 2) (framesOf (slotsH s) (i.val - 4 + (0 - 2)) ++ (engineSlot s i).toList),
    piu := { (handedOn s i.val 0).piu with engines := updAt (rowUpTo _ _ i.val) i _ } } : State) = _
  rw [frames, rowUpTo_succ i record]
  unfold handedOn
  rw [← own]

theorem sendRudder_handedOn_p {i : Fin 3} (h : i.val < 2) : sendRudder (handedOn s 6 i.val) i = handedOn s 6 (i.val + 1) := by
  have own : i ≠ xs := by rintro rfl; exact absurd h (by decide)
  have slot : (slotsP s)[4 + i.val]? = some (rudderSlot s i) := by
    match i with
    | 0 | 1 => rfl
  have frames : framesOf (slotsP s) (min 6 4 + min i.val 2) ++ (rudderSlot s i).toList =
      framesOf (slotsP s) (min 6 4 + min (i.val + 1) 2) := by
    rw [Nat.min_eq_left h.le, Nat.min_eq_left h]
    exact (framesOf_succ slot).symm
  have others : i.val - 2 = i.val + 1 - 2 := by omega
  have record : rudderSentIf (entersP s (min 6 4 + min i.val 2)) s.piu.rudders[i] = rudderRefreshed s i := by
    rw [rudderRefreshed, rudderEnters, if_neg own, Nat.min_eq_left h.le]
    rfl
  rw [sendRudder_p own (c := s.pcp) (l := framesOf (slotsP s) (min 6 4 + min i.val 2)) rfl, rudderSlot_handedOn s 6 le_rfl]
  show ({ handedOn s 6 i.val with
    pcp := portAfter s.pcp (classQueue s .p 2) (framesOf (slotsP s) (min 6 4 + min i.val 2) ++ (rudderSlot s i).toList),
    piu := { (handedOn s 6 i.val).piu with rudders := updAt (rowUpTo _ _ i.val) i _ } } : State) = _
  rw [frames, rowUpTo_succ i record]
  unfold handedOn
  rw [← others]

theorem sendRudder_handedOn_h : sendRudder (handedOn s 6 2) xs = handedOn s 6 3 := by
  have frames : framesOf (slotsH s) 2 ++ (rudderSlot s xs).toList = framesOf (slotsH s) 3 :=
    (framesOf_succ (slots := slotsH s) rfl).symm
  have record : rudderSentIf (entersH s 2) s.piu.rudders[xs] = rudderRefreshed s xs := by
    rw [rudderRefreshed, rudderEnters, if_pos rfl]
    rfl
  rw [sendRudder_h (x := s.hlc) (l := framesOf (slotsH s) 2) rfl, rudderSlot_handedOn s 6 (r := 2) (i := xs) le_rfl]
  show ({ handedOn s 6 2 with
    hlc := linkAfter s.hlc (classQueue s .h 2) (framesOf (slotsH s) 2 ++ (rudderSlot s xs).toList),
    piu := { (handedOn s 6 2).piu with rudders := updAt (rowUpTo _ _ xs.val) xs _ } } : State) = _
  rw [frames, rowUpTo_succ xs record]
  rfl

theorem sendEngine_handedOn (i : Fin 6) : sendEngine (handedOn s i.val 0) i = handedOn s (i.val + 1) 0 := by
  rcases lt_or_ge i.val 4 with own | other
  · exact sendEngine_handedOn_p s own
  · exact sendEngine_handedOn_h s other

theorem sendRudder_handedOn (i : Fin 3) : sendRudder (handedOn s 6 i.val) i = handedOn s 6 (i.val + 1) := by
  match i with
  | 0 | 1 => exact sendRudder_handedOn_p s (by decide)
  | 2 => exact sendRudder_handedOn_h s

/-- Every slot of a part handed on. -/
theorem slots_handedOn : (List.finRange 3).foldl sendRudder ((List.finRange 6).foldl sendEngine s) = handedOn s 6 3 := by
  have engines : (List.finRange 6).foldl sendEngine (handedOn s 0 0) = handedOn s 6 0 :=
    foldl_finRange_steps (fun e => handedOn s e 0) (sendEngine_handedOn s)
  have rudders : (List.finRange 3).foldl sendRudder (handedOn s 6 0) = handedOn s 6 3 :=
    foldl_finRange_steps (fun r => handedOn s 6 r) (sendRudder_handedOn s)
  rw [handedOn_zero] at engines
  rw [engines, rudders]

end Order

/-! ## The bytes of the frames -/

theorem beBytes_two (x : Nat) : beBytes 2 x = [BitVec.ofNat 8 (x / 256), BitVec.ofNat 8 x] := by
  simp [beBytes]

theorem setpointFlags_eq {p : Prop} [Decidable p] {joined : Bool} (h : joined = true ↔ p) (fresh : Bool) :
    setpointFlags fresh joined = BitVec.ofNat 8 (fresh.toNat + if p then 2 else 0) := by
  have bit : 2 * joined.toNat = if p then 2 else 0 := by
    cases joined with
    | true => rw [if_pos (h.1 rfl)]; rfl
    | false => rw [if_neg fun c => nomatch h.2 c]; rfl
  rw [setpointFlags, bit]
  rfl

section Bytes
variable (s : State)

theorem engineSlot_eq (i : Fin 6) : engineSlot s i =
    if s.piu.engines[i].filled = true then
      some { frame := { cls := 2, node := BitVec.ofNat 6 (engineOf s i).setNode, kind := 1,
                        payload := [gearByte s.piu.engines[i].gear, BitVec.ofNat 8 (s.piu.engines[i].rpm / 256),
                          BitVec.ofNat 8 s.piu.engines[i].rpm, BitVec.ofNat 8 s.piu.engines[i].seq,
                          BitVec.ofNat 8 (s.piu.engines[i].fresh.toNat + if 4 ≤ i.val ∧ leadJoined s = true then 2 else 0)] },
             origin := .piu }
    else none := by
  have marked : (isX i && leadJoined s) = true ↔ 4 ≤ i.val ∧ leadJoined s = true := by
    rw [Bool.and_eq_true, isX, decide_eq_true_eq]
  rw [engineSlot, engineSlotFrame, engineSetFrame, beBytes_two, setpointFlags_eq marked]
  rfl

theorem rudderSlot_eq (i : Fin 3) : rudderSlot s i = s.piu.rudders[i].angle.map fun a =>
    { frame := { cls := 2, node := BitVec.ofNat 6 (rudderOf s i).setNode, kind := 2,
                 payload := [BitVec.ofNat 8 ((a % 65536).toNat / 256), BitVec.ofNat 8 (a % 65536).toNat,
                   BitVec.ofNat 8 s.piu.rudders[i].seq,
                   BitVec.ofNat 8 (s.piu.rudders[i].fresh.toNat + if i = 2 ∧ leadJoined s = true then 2 else 0)] },
      origin := .piu } := by
  have marked : (i == xs && leadJoined s) = true ↔ i = 2 ∧ leadJoined s = true := by
    rw [Bool.and_eq_true, beq_iff_eq]
    rfl
  refine congrArg (Option.map · s.piu.rudders[i].angle) (funext fun a => ?_)
  rw [rudderSlotFrame, rudderSetFrame, beInt, beBytes_two, setpointFlags_eq marked]
  rfl

end Bytes

/-! ## The records after the refresh -/

section Records
variable {s : State}

theorem engineRefreshed_p {i : Fin 6} (h : i.val < 4) : engineRefreshed s i =
    if (framesOf (slotsP s) i.val).length < portRoom s.pcp (classQueue s .p 2) then engineSent s.piu.engines[i]
    else s.piu.engines[i] := by
  have own : isX i = false := decide_eq_false (Nat.not_le.2 h)
  rw [engineRefreshed, engineEnters, own]
  exact if_congr decide_eq_true_iff rfl rfl

theorem engineRefreshed_h {i : Fin 6} (h : 4 ≤ i.val) : engineRefreshed s i =
    if (framesOf (slotsH s) (i.val - 4)).length < linkRoom s.hlc (classQueue s .h 2) then engineSent s.piu.engines[i]
    else s.piu.engines[i] := by
  have other : isX i = true := decide_eq_true h
  rw [engineRefreshed, engineEnters, other]
  exact if_congr decide_eq_true_iff rfl rfl

theorem rudderRefreshed_p {i : Fin 3} (h : i ≠ 2) : rudderRefreshed s i =
    if (framesOf (slotsP s) (4 + i.val)).length < portRoom s.pcp (classQueue s .p 2) then rudderSent s.piu.rudders[i]
    else s.piu.rudders[i] := by
  have own : i ≠ xs := h
  rw [rudderRefreshed, rudderEnters, if_neg own]
  exact if_congr decide_eq_true_iff rfl rfl

theorem rudderRefreshed_h : rudderRefreshed s 2 =
    if (framesOf (slotsH s) 2).length < linkRoom s.hlc (classQueue s .h 2) then rudderSent s.piu.rudders[2]
    else s.piu.rudders[2] := by
  have other : (2 : Fin 3) = xs := rfl
  rw [rudderRefreshed, rudderEnters, if_pos other]
  exact if_congr decide_eq_true_iff rfl rfl

theorem handedOn_engine (i : Fin 6) : (handedOn s 6 3).piu.engines[i] = engineRefreshed s i :=
  (rowUpTo_get 6 i).trans (if_pos i.isLt)

theorem handedOn_rudder (i : Fin 3) : (handedOn s 6 3).piu.rudders[i] = rudderRefreshed s i :=
  (rowUpTo_get 3 i).trans (if_pos i.isLt)

end Records

/-- The state in which a refresh that was due at `d` hands its frames on. -/
def refreshBegun (d : Nat) (s : State) : State :=
  { s with now := max s.now d, piu := { s.piu with refresh := some (max s.now d + 100 * Config.usPerMs) } }

theorem exec_refreshTimerExpiry {s : State} {d : Nat} (hr : s.power = .run) (ht : s.piu.refresh = some d) :
    exec .refreshTimerExpiry s = .next (handedOn (refreshBegun d s) 6 3) := by
  rw [← slots_handedOn]
  exact congrArg Host.Outcome.next (expiry_runs (timer := fun s => s.piu.refresh)
    (k := fun _ s => (List.finRange 3).foldl sendRudder ((List.finRange 6).foldl sendEngine
      (s.onPiu ({ · with refresh := timerFor s Config.refreshTime })))) hr ht)

/-- Settles O33: the state after the last slot is `handedOn`, reached slot by slot, and each case is a reading of its room. -/
theorem refreshSendsSlots : Obligations.RefreshSendsSlots := by
  unfold Obligations.RefreshSendsSlots
  intro s d hr ht lead engine rudder p h toP toH qp qh roomP roomH enters sentE sentR
  have engines : ∀ i, engineSlot (refreshBegun d s) i = engine i := engineSlot_eq (refreshBegun d s)
  have rudders : ∀ i, rudderSlot (refreshBegun d s) i = rudder i := rudderSlot_eq (refreshBegun d s)
  have framesP : slotsP (refreshBegun d s) = p := by
    simp only [slotsP, engines, rudders, p]
  have framesH : slotsH (refreshBegun d s) = h := by
    simp only [slotsH, engines, rudders, h]
  have port : (handedOn (refreshBegun d s) 6 3).pcp = portAfter s.pcp qp toP := by
    show portAfter s.pcp qp (framesOf (slotsP (refreshBegun d s)) 6) = _
    rw [framesP]
    rfl
  have link : (handedOn (refreshBegun d s) 6 3).hlc = linkAfter s.hlc qh toH := by
    show linkAfter s.hlc qh (framesOf (slotsH (refreshBegun d s)) 3) = _
    rw [framesH]
    rfl
  have engineP : ∀ i : Fin 6, i.val < 4 → (handedOn (refreshBegun d s) 6 3).piu.engines[i] =
      if enters p i.val (portRoom s.pcp qp) then sentE s.piu.engines[i] else s.piu.engines[i] := fun i own => by
    rw [handedOn_engine, engineRefreshed_p own, framesP]
    rfl
  have engineH : ∀ i : Fin 6, 4 ≤ i.val → (handedOn (refreshBegun d s) 6 3).piu.engines[i] =
      if enters h (i.val - 4) (linkRoom s.hlc qh) then sentE s.piu.engines[i] else s.piu.engines[i] := fun i other => by
    rw [handedOn_engine, engineRefreshed_h other, framesH]
    rfl
  have rudderP : ∀ i : Fin 3, i ≠ 2 → (handedOn (refreshBegun d s) 6 3).piu.rudders[i] =
      if enters p (4 + i.val) (portRoom s.pcp qp) then sentR s.piu.rudders[i] else s.piu.rudders[i] := fun i own => by
    rw [handedOn_rudder, rudderRefreshed_p own, framesP]
    rfl
  have rudderH : (handedOn (refreshBegun d s) 6 3).piu.rudders[2] =
      if enters h 2 (linkRoom s.hlc qh) then sentR s.piu.rudders[2] else s.piu.rudders[2] := by
    refine (handedOn_rudder 2).trans ?_
    rw [rudderRefreshed_h, framesH]
    rfl
  have none_enters : ∀ slots k, ¬enters slots k 0 := fun _ _ => Nat.not_lt_zero _
  refine ⟨_, exec_refreshTimerExpiry hr ht, rfl, fun hi => ?_, fun hi => ?_, fun hd hm hq => ?_, fun hd hm hq => ?_,
    fun hd => ?_⟩
  · have room : portRoom s.pcp qp = roomP := if_neg hi
    rw [room] at engineP rudderP
    refine ⟨?_, engineP, rudderP⟩
    rw [port, portAfter, if_neg hi, room]
  · have room : portRoom s.pcp qp = 0 := if_pos hi
    rw [room] at engineP rudderP
    refine ⟨?_, fun i own => (engineP i own).trans (if_neg (none_enters _ _)),
      fun i own => (rudderP i own).trans (if_neg (none_enters _ _))⟩
    rw [port, portAfter, if_pos hi]
  · have up : ¬(s.hlc.state = .down ∨ s.hlc.state = .roleMismatch) := not_or.2 ⟨hd, hm⟩
    have room : linkRoom s.hlc qh = roomH := if_neg (not_or.2 ⟨up, hq⟩)
    rw [room] at engineH rudderH
    refine ⟨?_, engineH, rudderH⟩
    rw [link, linkAfter, if_neg up, if_neg hq, room]
  · have up : ¬(s.hlc.state = .down ∨ s.hlc.state = .roleMismatch) := not_or.2 ⟨hd, hm⟩
    have room : linkRoom s.hlc qh = 0 := if_pos (.inr hq)
    rw [room] at engineH rudderH
    refine ⟨?_, fun i other => (engineH i other).trans (if_neg (none_enters _ _)), rudderH.trans (if_neg (none_enters _ _))⟩
    rw [link, linkAfter, if_neg up, if_pos hq]
  · have room : linkRoom s.hlc qh = 0 := if_pos (.inl hd)
    rw [room] at engineH rudderH
    refine ⟨?_, fun i other => (engineH i other).trans (if_neg (none_enters _ _)), rudderH.trans (if_neg (none_enters _ _))⟩
    rw [link, linkAfter, if_pos hd]

end Sys2Proof.Machine
